-- ==== Sys2Proof/Word.lean ====
section
/-! DEFINITION. The word types of the machine (R6, R11). -/

namespace Sys2Proof

/-- A scalar register, an address or a program counter: 64 bits. -/
abbrev Word := BitVec 64

/-- One lane entry of a vector register, or a lane mask: 32 bits. -/
abbrev Lane := BitVec 32

/-- A byte of memory. -/
abbrev Byte := BitVec 8

/-- A sparse map: pairs of a key and a value, the keys strictly rising. -/
abbrev Cells (α : Type) := List (Nat × α)

end Sys2Proof
end

