-- ==== Sys2Proof/Config.lean ====
section
/-! DEFINITION. What an implementation fixes, and the free values that the spec leaves open.

An opaque constant here has no body that a proof can use: nothing is known of its value. -/

namespace Sys2Proof.Config

/-- The special functions of Table 6.9, in its order. -/
inductive SpecialFn where
  | rcp
  | rsqrt
  | sqrt
  | exp2
  | log2
  | sin
  | cos
  | tanh
  | sigm
  deriving DecidableEq, Repr

/-- The value that the implementation's special-function unit proposes for an operand; the spec fixes only a bound on
it (R151, R152; log 5). -/
opaque specialFn : SpecialFn → Lane → Lane

/-- The quotient estimate that the implementation proposes for VFDIVS; the spec fixes only a bound on it (R153; log 5). -/
opaque divEstimate : Lane → Lane → Lane

/-- Which of several steps that the spec leaves unordered happens next, by the count of choices made before (log 2). -/
opaque schedule : Nat → Nat

/-- Byte n of the SHA3-256 digest of a message (R402 to R405; log 10). -/
opaque sha3 : List Byte → Nat → Byte

/-- An ML-DSA-44 signature verifies over a digest under a public key: key, digest, signature (R402 to R404; log 10). -/
opaque verifies : List Byte → List Byte → List Byte → Bool

/-- Byte n of the ML-DSA-44 signature of a digest with the private key of the package (R405; log 10). -/
opaque deviceSign : List Byte → Nat → Byte

/-- Byte n of the digest of the signer's key that the boot ROM holds (R403; log 10). -/
opaque romDigest : Nat → Byte

/-- Byte n of the identity of the boot ROM (Table 16.7; log 10). -/
opaque romIdentity : Nat → Byte

/-- A firmware image verifies under the signer's key and the rollback counter; where its signature and version lie is not
stated (R403; log 10). -/
opaque firmwareVerifies : List Byte → List Byte → Nat → Bool

/-- First HBM physical address of the reserved region, by its size in bytes; the spec gives only its size (R402; log 10). -/
opaque reservedBase : Nat → Nat

/-- The plane of a channel that the number of Table 16.5 chooses, before it is taken modulo the live planes (R394;
log 100). -/
opaque planeOf : Nat → Nat → Nat

/-- The Ferry engine that takes a command, by the number of the command, before it is taken modulo the engines (R287, R394;
log 100). -/
opaque ferryEngine : Nat → Nat

/-- log2 of the ways of an LLC slice, which holds 2^23 lines, and of the control cache, which holds 2^22; and the set that a line
takes there, before it is taken modulo their number: the spec gives only the sizes (R15; log 88). -/
opaque llcWaysLog : Fin 24
opaque controlWaysLog : Fin 23
opaque llcIndex : Nat → Nat

/-- A byte of control space that another package's control cache or home supplies: the count of lines supplied before, and
the offset (R23, R24; log 6). -/
opaque homeByte : Nat → Nat → Byte

/-- A word that the spec does not state, by the count of free values taken before (log 4). -/
opaque freeWord : Nat → Word

end Sys2Proof.Config
end

