-- ==== Sys2Proof/Inputs.lean ====
section
/-! DEFINITION. What reaches the machine from its other agents: the data of the event rows of the opcode table, and the
events themselves as the agenda of the state holds them. -/

namespace Sys2Proof

/-- A T-ATM line request as it arrives at the package that owns the bytes (R262): the source package, core and tag,
the context named, the operation of Table 10.3 and one entry for each lane: lane, address, operand and swap value. -/
structure RemoteRequest where
  src : Nat
  core : Nat
  tag : Nat
  ctx : Nat
  isRed : Bool
  op : BitVec 3
  lanes : List (Nat × BitVec 64 × BitVec 64 × BitVec 64)
  deriving DecidableEq, Repr

/-- Where a control core writes (R390): the core, and the launch queue or the offset. -/
structure CoreWrite where
  core : Nat
  dest : Nat
  deriving DecidableEq, Repr

/-- What one listed package brings to a Ferry match (R287): its position, its kind, count, width and operation, the
bytes of its source, followed for FUPD by the weights of its shard, and the detail of a failure at that participant, 0 for
none (R289). -/
structure FerryPartner where
  position : Nat
  kind : Nat
  count : Nat
  width : Nat
  op : Nat
  data : List (BitVec 8)
  detail : Nat
  deriving DecidableEq, Repr

/-- An update of a barrier object (R243, R244): MBINIT's, a change of BYTES, an arrival, or that of a waiter with its priority
and the phase that it waits out. -/
inductive ObjectUpdate where
  | init (count : Nat)
  | add (n : Int)
  | arrive
  | wait (prio phase : Nat)
  deriving DecidableEq, Repr

/-- What another agent asks of a place in memory: its bytes, a write of them, or an atomic of Table 10.1 with its operand
and swap value.  A request to a home may store those bytes of a run that are there, or update a barrier object (R242); a control
core may fence (R390). -/
inductive AgentOp where
  | read
  | write (value : BitVec 64)
  | atomic (code : Nat) (a c : BitVec 64)
  | store (bytes : List (Option (BitVec 8)))
  | fence
  | object (u : ObjectUpdate)
  deriving DecidableEq, Repr

/-- What a control core asks of a place in memory, with the core that asks (R390). -/
structure CoreOp where
  core : Nat
  op : AgentOp
  deriving DecidableEq, Repr

/-- A coherent control-space request as it reaches its home (R396, R398): the source package, the request's tag, the offset
and size, what it asks, and the tags whose results the source has received. -/
structure HomeRequest where
  src : Nat
  tag : Nat
  off : Nat
  size : Nat
  op : AgentOp
  acks : List Nat
  deriving DecidableEq, Repr

/-- The AtomicOp kinds that a PCIe port completes (R399). -/
inductive PcieAtomic where
  | fetchAdd
  | swap
  | cas
  deriving DecidableEq, Repr

/-- What the boot ROM reads at reset (R402, R403): the configuration record and the two firmware images. -/
structure BootImage where
  record : List (BitVec 8)
  mgmtFirmware : List (BitVec 8)
  coreFirmware : List (BitVec 8)
  deriving DecidableEq, Repr

/-- Where an ECC error is found (R372, R410).  A granule of control memory is lost in both copies or not. -/
inductive RasPlace where
  | register (age index : Nat)
  | hbm (granule : Nat)
  | llc (granule : Nat)
  | controlMemory (granule : Nat) (bothLost : Bool)
  | sharedMem (wg off : Nat)
  | slot (core index : Nat)
  | tile (core index : Nat)
  | dirtyL1 (core off : Nat)
  | cleanSram (core : Nat)
  deriving DecidableEq, Repr

/-- An ECC event: its place, whether it is correctable, and the die, unit and location that the log entry of R411 holds. -/
structure RasError where
  place : RasPlace
  correctable : Bool
  die : Nat
  unit : Nat
  location : Nat
  deriving DecidableEq, Repr

/-- An event: a row of the opcode table without bits, with what it is about. -/
inductive Event where
  | clauseWaitSatisfied (age entry : Nat)  -- R38
  | subcoreIssueCycle (core sub : Nat)  -- R93
  | splitEntryHoldEvict (core sub : Nat)  -- R91
  | yieldPauseEnd (age entry : Nat)  -- R115
  | resultWriteback (op : Nat)  -- R39
  | edgeLatchDeposit (age entry : Nat)  -- R170
  | rendezvousTransfer (wg slot : Nat)  -- R177
  | rightsWalkComplete (core ctx : Nat) (addr : BitVec 64)  -- R192
  | translationWalk (ctx : Nat) (addr : BitVec 64)  -- R199
  | loadDataArrive (op : Nat)  -- R185
  | loadFaultPark (op : Nat)  -- R200
  | faultRecordRetry  -- R201
  | faultQueueRegWrite (off : Nat) (value : BitVec 64)  -- R201
  | faultrespResume (token : Nat)  -- R202
  | faultrespDecline (token : Nat)  -- R202
  | landingProbeAnswer (core ctx : Nat) (page : BitVec 64)  -- R207
  | llcHbmWriteback (ctx : Nat) (line : BitVec 64)  -- R427
  | shootdownStart  -- R215
  | shootdownDrainDone  -- R215
  | shootdownMgtRequest (src : Nat) (base len : BitVec 64) (mode : Nat)  -- R217
  | shootdownPackageAnswer (pkg : Nat)  -- R217
  | sdctlGo (value : BitVec 64)  -- R218
  | releaseRecall (core entry : Nat)  -- R230
  | recallAnswer (core entry : Nat)  -- R230
  | watchFire (addr : BitVec 64)  -- R246
  | mwaitTimeout (age entry : Nat)  -- R246
  | remoteAtomicRequest (req : RemoteRequest)  -- R260
  | remoteAtomicAck (sub : Nat) (olds : List (Nat × BitVec 64)) (flags : BitVec 4)  -- R260
  | remoteAtomicRnr (sub detail : Nat)  -- R263
  | remoteRetryTimer (sub : Nat)  -- R263
  | wherryCommandStart (core : Nat)  -- R271
  | wherryCountUpdate (cmd bytes : Nat)  -- R275
  | wherryCommandComplete (cmd : Nat)  -- R275
  | engineXlateFault (cmd : Nat)  -- R273
  | wherryRemotePacket (src : Nat) (stream : Bool) (runs : List (BitVec 64 × List (BitVec 8)))  -- R276
  | ferryMatch (cmd : Nat) (partners : List FerryPartner)  -- R287
  | ferryComplete (cmd : Nat)  -- R289
  | claimZeroingDone (age entry : Nat)  -- R296
  | objectRelease (core : Nat) (tile : Bool) (index : Nat)  -- R297
  | gangLatchOpen (wg cohort : Nat)  -- R315
  | arrayKStep (core : Nat)  -- R318
  | arrayQueueEntry (age entry : Nat)  -- R318
  | batchComplete (age : Nat)  -- R311
  | guidedDrain (core : Nat)  -- R333
  | rgrowGrant (core : Nat)  -- R358
  | rgrowStallEvict (core : Nat)  -- R359
  | launchPortWrite (core queue off size : Nat) (value : BitVec 64)  -- R341
  | queueReset (queue : Nat)  -- R345
  | queueResetComplete (queue : Nat)  -- R345
  | qresWrite (queue : Nat) (value : BitVec 64)  -- R351
  | launchStart (queue : Nat)  -- R342
  | workgroupPlace (queue : Nat)  -- R354
  | groupRestore (age : Nat)  -- R378
  | groupSave (age reason : Nat)  -- R374
  | saveAgentApply (op : Nat)  -- R377
  | workgroupRetire (wg : Nat)  -- R362
  | registerFileScrub (core : Nat)  -- R372
  | dbgcmdHalt  -- R380
  | dbgcmdResume  -- R380
  | dbgcmdStep  -- R380
  | dbgcmdSave  -- R380
  | debugImageWrite (off : Nat) (value : BitVec 8)  -- R379
  | registerWrite (core off : Nat) (value : BitVec 64)  -- R9
  | hallmarkRequest  -- R405
  | hallmarkComplete  -- R405
  | controlCoreAccess (core pa size : Nat) (op : AgentOp)  -- R390
  | controlHomeRequest (req : HomeRequest)  -- R396
  | flitCrcFail (port : Nat)  -- R393
  | linkDown (port : Nat)  -- R393
  | heartbeatSend  -- R397
  | heartbeatReceive (pkg : Nat)  -- R397
  | peerSuspect (pkg : Nat)  -- R397
  | packageIsolated  -- R397
  | lossNotice (pkg : Nat)  -- R398
  | lossRebuildComplete  -- R398
  | timeSyncMessage (offset : Int)  -- R401
  | pcieInboundRead (port : Nat) (addr : BitVec 64) (size : Nat)  -- R400
  | pcieInboundWrite (port : Nat) (addr : BitVec 64) (data : List (BitVec 8))  -- R400
  | pcieAtomicop (port : Nat) (addr : BitVec 64) (size : Nat) (op : PcieAtomic) (a c : BitVec 64)  -- R399
  | bootVerify (image : BootImage)  -- R403
  | rackAssignmentRecord (bytes : List (BitVec 8))  -- R404
  | droopDetect (core : Nat)  -- R407
  | droopRestore (core : Nat)  -- R407
  | powerLimitStep (watts : Nat)  -- R408
  | inputUndervoltage  -- R408
  | assaySample (core needMv : Nat)  -- R406
  | marginReplan (core : Nat)  -- R406
  | rasErrorEvent (err : RasError)  -- R410
  | ferryShardArrival (cmd position : Nat)  -- R290
  | pcieErrorReported (port : Nat) (correctable : Bool)  -- R392
  deriving DecidableEq, Repr

end Sys2Proof
end

