-- ==== Sys2Proof/Syntax.lean ====
section
/-! DEFINITION. The instructions of Glimer 2.1, one constructor for each row of the opcode table.

A row with bits is an instruction word: its arguments are the fields of Tables 2.1 to 2.5 (R36, R44, R47) under
the field letters of the table.  A row without bits is a step of another agent of the machine (an engine, the
scheduler, a walker, a control core, the fabric): its arguments name what the step is about. -/

namespace Sys2Proof

/-- One constructor for each row of the opcode table. -/
inductive Instr where
  | clauseHeader (g e : Bool) (m : BitVec 3) (b a : BitVec 4) (w : BitVec 12)  -- CLAUSE_HEADER R36
  | vmov16 (x : Bool) (s d : BitVec 5)  -- VMOV_16 R45
  | vadd16 (x : Bool) (s d : BitVec 5)  -- VADD_16 R45
  | vsub16 (x : Bool) (s d : BitVec 5)  -- VSUB_16 R45
  | vmul16 (x : Bool) (s d : BitVec 5)  -- VMUL_16 R45
  | vand16 (x : Bool) (s d : BitVec 5)  -- VAND_16 R45
  | vor16 (x : Bool) (s d : BitVec 5)  -- VOR_16 R45
  | vxor16 (x : Bool) (s d : BitVec 5)  -- VXOR_16 R45
  | vshl16 (x : Bool) (s d : BitVec 5)  -- VSHL_16 R45
  | vshr16 (x : Bool) (s d : BitVec 5)  -- VSHR_16 R45
  | vsra16 (x : Bool) (s d : BitVec 5)  -- VSRA_16 R45
  | vfadd16 (x : Bool) (s d : BitVec 5)  -- VFADD_16 R45
  | vfsub16 (x : Bool) (s d : BitVec 5)  -- VFSUB_16 R45
  | vfmul16 (x : Bool) (s d : BitVec 5)  -- VFMUL_16 R45
  | vfmin16 (x : Bool) (s d : BitVec 5)  -- VFMIN_16 R45
  | vfmax16 (x : Bool) (s d : BitVec 5)  -- VFMAX_16 R45
  | vaddi16 (i d : BitVec 5)  -- VADDI_16 R45
  | sadd (b a d : BitVec 6)  -- SADD R98
  | ssub (b a d : BitVec 6)  -- SSUB R98
  | smul (b a d : BitVec 6)  -- SMUL R98
  | smulhI64 (b a d : BitVec 6)  -- SMULH_I64 R98
  | smulhN64 (b a d : BitVec 6)  -- SMULH_N64 R98
  | sdivn (b a d : BitVec 6)  -- SDIVN R98
  | sand (b a d : BitVec 6)  -- SAND R98
  | sor (b a d : BitVec 6)  -- SOR R98
  | sxor (b a d : BitVec 6)  -- SXOR R98
  | sshl (b a d : BitVec 6)  -- SSHL R98
  | sshr (b a d : BitVec 6)  -- SSHR R98
  | ssra (b a d : BitVec 6)  -- SSRA R98
  | sminI64 (b a d : BitVec 6)  -- SMIN_I64 R98
  | sminN64 (b a d : BitVec 6)  -- SMIN_N64 R98
  | smaxI64 (b a d : BitVec 6)  -- SMAX_I64 R98
  | smaxN64 (b a d : BitVec 6)  -- SMAX_N64 R98
  | ssel (c : BitVec 2) (b a d : BitVec 6)  -- SSEL R98
  | sclz (a d : BitVec 6)  -- SCLZ R98
  | spopc (a d : BitVec 6)  -- SPOPC R98
  | sbfxN64 (b a d : BitVec 6)  -- SBFX_N64 R98
  | sbfxI64 (b a d : BitVec 6)  -- SBFX_I64 R98
  | sbfi (b a d : BitVec 6)  -- SBFI R98
  | scmp (b a : BitVec 6) (k : BitVec 4) (c : BitVec 2)  -- SCMP R99
  | smov (a d : BitVec 6)  -- SMOV R98
  | saddImm (i : BitVec 9) (a d : BitVec 6)  -- SADD_IMM R100
  | smulImm (i : BitVec 9) (a d : BitVec 6)  -- SMUL_IMM R100
  | sandImm (i : BitVec 9) (a d : BitVec 6)  -- SAND_IMM R100
  | sorImm (i : BitVec 9) (a d : BitVec 6)  -- SOR_IMM R100
  | sxorImm (i : BitVec 9) (a d : BitVec 6)  -- SXOR_IMM R100
  | sshlImm (i a d : BitVec 6)  -- SSHL_IMM R100
  | sshrImm (i a d : BitVec 6)  -- SSHR_IMM R100
  | ssraImm (i a d : BitVec 6)  -- SSRA_IMM R100
  | sminImm (i : BitVec 9) (a d : BitVec 6)  -- SMIN_IMM R100
  | smaxImm (i : BitVec 9) (a d : BitVec 6)  -- SMAX_IMM R100
  | scmpImm (i : BitVec 9) (a : BitVec 6) (k : BitVec 4) (c : BitVec 2)  -- SCMP_IMM R100
  | sli (i : BitVec 18) (d : BitVec 6)  -- SLI R101
  | slih (h : BitVec 2) (i : BitVec 16) (d : BitVec 6)  -- SLIH R101
  | bra (o : BitVec 21)  -- BRA R103
  | bcT (o : BitVec 21) (c : BitVec 2)  -- BC_T R103
  | bcF (o : BitVec 21) (c : BitVec 2)  -- BC_F R103
  | bdiv (o : BitVec 21) (m : BitVec 2)  -- BDIV R104
  | bvoteAny (o : BitVec 21) (m : BitVec 2)  -- BVOTE_ANY R103
  | bvoteAll (o : BitVec 21) (m : BitVec 2)  -- BVOTE_ALL R103
  | bvoteNone (o : BitVec 21) (m : BitVec 2)  -- BVOTE_NONE R103
  | call (o : BitVec 18)  -- CALL R106
  | callR (a : BitVec 6)  -- CALL_R R106
  | ret  -- RET R108
  | jmpi (a : BitVec 6)  -- JMPI R105
  | join (j : BitVec 3)  -- JOIN R110
  | park (j : BitVec 3)  -- PARK R111
  | strike (j : BitVec 3)  -- STRIKE R112
  | regang  -- REGANG R113
  | exit  -- EXIT R114
  | nop  -- NOP R105
  | yield  -- YIELD R115
  | srd (n : BitVec 12) (a : BitVec 6)  -- SRD R118
  | swr (n : BitVec 12) (a : BitVec 6)  -- SWR R118
  | vadd (x : Bool) (b a d : BitVec 7)  -- VADD R123
  | vsub (x : Bool) (b a d : BitVec 7)  -- VSUB R123
  | vmul (x : Bool) (b a d : BitVec 7)  -- VMUL R123
  | vmulh (x : Bool) (b a d : BitVec 7)  -- VMULH R123
  | vmin (x : Bool) (b a d : BitVec 7)  -- VMIN R123
  | vmax (x : Bool) (b a d : BitVec 7)  -- VMAX R123
  | vabsd (x : Bool) (b a d : BitVec 7)  -- VABSD R123
  | vdot4 (x : Bool) (b a d : BitVec 7)  -- VDOT4 R123
  | vand (x : Bool) (b a d : BitVec 7)  -- VAND R124
  | vor (x : Bool) (b a d : BitVec 7)  -- VOR R124
  | vxor (x : Bool) (b a d : BitVec 7)  -- VXOR R124
  | vshl (x : Bool) (b a d : BitVec 7)  -- VSHL R124
  | vshr (x : Bool) (b a d : BitVec 7)  -- VSHR R124
  | vsra (x : Bool) (b a d : BitVec 7)  -- VSRA R124
  | vfshl (x : Bool) (b a d : BitVec 7)  -- VFSHL R124
  | vfshr (x : Bool) (b a d : BitVec 7)  -- VFSHR R124
  | vpopc (a d : BitVec 7)  -- VPOPC R125
  | vclz (a d : BitVec 7)  -- VCLZ R125
  | vbrev (a d : BitVec 7)  -- VBREV R125
  | vnot (a d : BitVec 7)  -- VNOT R125
  | vbfxN32 (x : Bool) (b a d : BitVec 7)  -- VBFX_N32 R126
  | vbfxI32 (x : Bool) (b a d : BitVec 7)  -- VBFX_I32 R126
  | vbfi (x : Bool) (b a d : BitVec 7)  -- VBFI R126
  | vaddc (x : Bool) (b a d : BitVec 7)  -- VADDC R126
  | vsubb (x : Bool) (b a d : BitVec 7)  -- VSUBB R126
  | vaddi (i : BitVec 8) (a d : BitVec 7)  -- VADDI R127
  | vandi (i : BitVec 8) (a d : BitVec 7)  -- VANDI R127
  | vori (i : BitVec 8) (a d : BitVec 7)  -- VORI R127
  | vxori (i : BitVec 8) (a d : BitVec 7)  -- VXORI R127
  | vshli (i : BitVec 5) (a d : BitVec 7)  -- VSHLI R127
  | vshri (i : BitVec 5) (a d : BitVec 7)  -- VSHRI R127
  | vsrai (i : BitVec 5) (a d : BitVec 7)  -- VSRAI R127
  | vli (imm : BitVec 15) (d : BitVec 7)  -- VLI R127
  | vlop3 (t : BitVec 8) (b a d : BitVec 6)  -- VLOP3 R128
  | vicmp (x : Bool) (b a : BitVec 7) (k : BitVec 4) (m : BitVec 3)  -- VICMP R129
  | vsel (x : Bool) (b a d : BitVec 7)  -- VSEL R130
  | vmovs (b : BitVec 6) (a : BitVec 7) (d : BitVec 6)  -- VMOVS R131
  | vmovx (x : Bool) (b a d : BitVec 7)  -- VMOVX R132
  | vmovxl (x : Bool) (b d : BitVec 7)  -- VMOVXL R130
  | vmovxw (x : Bool) (b a d : BitVec 7)  -- VMOVXW R132
  | vmov (x : Bool) (b d : BitVec 7)  -- VMOV R130
  | mand (c b a : BitVec 3)  -- MAND R134
  | mor (c b a : BitVec 3)  -- MOR R134
  | mxor (c b a : BitVec 3)  -- MXOR R134
  | mnot (b a : BitVec 3)  -- MNOT R134
  | mpop (b : BitVec 3) (d : BitVec 6)  -- MPOP R134
  | mfind (b : BitVec 3) (d : BitVec 6)  -- MFIND R134
  | mset (s : BitVec 6) (a : BitVec 3)  -- MSET R134
  | mget (b : BitVec 3) (d : BitVec 6)  -- MGET R134
  | mgetLanes (d : BitVec 6)  -- MGET_LANES R134
  | vfadd (x : Bool) (b a d : BitVec 7)  -- VFADD R143
  | vfsub (x : Bool) (b a d : BitVec 7)  -- VFSUB R143
  | vfmul (x : Bool) (b a d : BitVec 7)  -- VFMUL R143
  | vfmin (x : Bool) (b a d : BitVec 7)  -- VFMIN R143
  | vfmax (x : Bool) (b a d : BitVec 7)  -- VFMAX R143
  | vfma (x : Bool) (b a d : BitVec 7)  -- VFMA R143
  | vfscale (x : Bool) (b a d : BitVec 7)  -- VFSCALE R143
  | vfcpys (x : Bool) (b a d : BitVec 7)  -- VFCPYS R143
  | vfmad (n : Bool) (c b a d : BitVec 6)  -- VFMAD R144
  | vfabs (a d : BitVec 7)  -- VFABS R145
  | vfneg (a d : BitVec 7)  -- VFNEG R145
  | vfrnd (r : BitVec 2) (a d : BitVec 7)  -- VFRND R146
  | vfclass (a d : BitVec 7)  -- VFCLASS R146
  | vfexpo (a d : BitVec 7)  -- VFEXPO R146
  | vfcmp (x : Bool) (b a : BitVec 7) (k : BitVec 4) (m : BitVec 3)  -- VFCMP R147
  | vpfadd (x : Bool) (b a d : BitVec 7)  -- VPFADD R148
  | vpfmul (x : Bool) (b a d : BitVec 7)  -- VPFMUL R148
  | vpfma (x : Bool) (b a d : BitVec 7)  -- VPFMA R148
  | vhaddBf16 (x : Bool) (b a d : BitVec 7)  -- VHADD_BF16 R149
  | vhmulBf16 (x : Bool) (b a d : BitVec 7)  -- VHMUL_BF16 R149
  | vhfmaBf16 (x : Bool) (b a d : BitVec 7)  -- VHFMA_BF16 R149
  | vhaddF16 (x : Bool) (b a d : BitVec 7)  -- VHADD_F16 R149
  | vhmulF16 (x : Bool) (b a d : BitVec 7)  -- VHMUL_F16 R149
  | vhfmaF16 (x : Bool) (b a d : BitVec 7)  -- VHFMA_F16 R149
  | vdadd (x : Bool) (b a d : BitVec 7)  -- VDADD R150
  | vdmul (x : Bool) (b a d : BitVec 7)  -- VDMUL R150
  | vdfma (x : Bool) (b a d : BitVec 7)  -- VDFMA R150
  | vdmin (x : Bool) (b a d : BitVec 7)  -- VDMIN R150
  | vdmax (x : Bool) (b a d : BitVec 7)  -- VDMAX R150
  | vrcp (a d : BitVec 7)  -- VRCP R152
  | vrsqrt (a d : BitVec 7)  -- VRSQRT R152
  | vsqrt (a d : BitVec 7)  -- VSQRT R152
  | vexp2 (a d : BitVec 7)  -- VEXP2 R152
  | vlog2 (a d : BitVec 7)  -- VLOG2 R152
  | vsin (a d : BitVec 7)  -- VSIN R152
  | vcos (a d : BitVec 7)  -- VCOS R152
  | vtanh (a d : BitVec 7)  -- VTANH R152
  | vsigm (a d : BitVec 7)  -- VSIGM R152
  | vfdivs (x : Bool) (b a d : BitVec 7)  -- VFDIVS R153
  | vfdivx (x : Bool) (b a d : BitVec 7)  -- VFDIVX R153
  | vcvt (r : BitVec 3) (p a d : BitVec 7)  -- VCVT R156
  | vqntE4m3 (s : BitVec 6) (a d : BitVec 7)  -- VQNT_E4M3 R159
  | vqntE5m2 (s : BitVec 6) (a d : BitVec 7)  -- VQNT_E5M2 R159
  | vqntE2m1 (s : BitVec 6) (a d : BitVec 7)  -- VQNT_E2M1 R159
  | vqntLg6 (s : BitVec 6) (a d : BitVec 7)  -- VQNT_LG6 R159
  | vqntI8 (s : BitVec 6) (a d : BitVec 7)  -- VQNT_I8 R159
  | vdqnt (s : BitVec 6) (a d : BitVec 7)  -- VDQNT R160
  | vpack (w : BitVec 2) (a d : BitVec 7)  -- VPACK R161
  | vunpack (w : BitVec 2) (a d : BitVec 7)  -- VUNPACK R161
  | vrandB32 (s : BitVec 6) (a d : BitVec 7)  -- VRAND_B32 R163
  | vrandF32 (s : BitVec 6) (a d : BitVec 7)  -- VRAND_F32 R163
  | vnblRing (a d : BitVec 7)  -- VNBL_RING R167
  | vnbrRing (a d : BitVec 7)  -- VNBR_RING R167
  | vnblEdge (w : Bool) (a d : BitVec 7)  -- VNBL_EDGE R169
  | vnbrEdge (w : Bool) (a d : BitVec 7)  -- VNBR_EDGE R169
  | vshuf (x : Bool) (b a d : BitVec 7)  -- VSHUF R167
  | vbcastImm (n : BitVec 5) (a d : BitVec 7)  -- VBCAST_IMM R167
  | vbcastScalar (s : BitVec 6) (a d : BitVec 7)  -- VBCAST_SCALAR R167
  | vred (o a d : BitVec 7)  -- VRED R173
  | vscanIncl (o a d : BitVec 7)  -- VSCAN_INCL R173
  | vscanExcl (o a d : BitVec 7)  -- VSCAN_EXCL R173
  | vvoteBallot (a : BitVec 7) (s : BitVec 6)  -- VVOTE_BALLOT R174
  | vvoteEq (a : BitVec 7) (s : BitVec 6)  -- VVOTE_EQ R174
  | xsend (p : BitVec 6) (n : BitVec 2) (s : BitVec 4) (a : BitVec 6)  -- XSEND R176
  | xrecv (p : BitVec 6) (n : BitVec 2) (s : BitVec 4) (d : BitVec 6)  -- XRECV R176
  | xedge (w : Bool) (a : BitVec 6)  -- XEDGE R170
  | ld (x : Bool) (s : BitVec 3) (m : Bool) (o : BitVec 7) (b : BitVec 6) (t : BitVec 7)  -- LD R185
  | st (x : Bool) (s : BitVec 3) (m : Bool) (o : BitVec 7) (b : BitVec 6) (t : BitVec 7)  -- ST R186
  | lds (i : BitVec 13) (b d : BitVec 6)  -- LDS R188
  | sts (i : BitVec 13) (b t : BitVec 6)  -- STS R188
  | ldacq (z : Bool) (s : BitVec 3) (o : BitVec 7) (b : BitVec 6) (t : BitVec 7)  -- LDACQ R237
  | strel (z : Bool) (s : BitVec 3) (o : BitVec 7) (b : BitVec 6) (t : BitVec 7)  -- STREL R237
  | pref (l x : Bool) (o : BitVec 7) (b : BitVec 6)  -- PREF R212
  | cflush (l x : Bool) (o : BitVec 7) (b : BitVec 6)  -- CFLUSH R213
  | cinv (l x : Bool) (o : BitVec 7) (b : BitVec 6)  -- CINV R213
  | landr (d : BitVec 6)  -- LANDR R210
  | unmapv (b a : BitVec 6)  -- UNMAPV R214
  | unmapvDiscard (b a : BitVec 6)  -- UNMAPV_DISCARD R214
  | unmapvRights (b a : BitVec 6)  -- UNMAPV_RIGHTS R214
  | fenceAcq (s : BitVec 3)  -- FENCE_ACQ R238
  | fenceRel (s : BitVec 3)  -- FENCE_REL R229
  | fenceFull (s : BitVec 3)  -- FENCE_FULL R232
  | tcfence  -- TCFENCE R235
  | bar (s : BitVec 6)  -- BAR R240
  | bara (s : BitVec 6)  -- BARA R240
  | barw (s : BitVec 6)  -- BARW R240
  | mbinit (b a : BitVec 6)  -- MBINIT R243
  | mbexp (b a : BitVec 6)  -- MBEXP R244
  | mbarr (b d : BitVec 6)  -- MBARR R244
  | mbwait (b a : BitVec 6)  -- MBWAIT R244
  | mon (a : BitVec 6)  -- MON R246
  | mwait (b d : BitVec 6)  -- MWAIT R246
  | waitcLd (b : BitVec 6)  -- WAITC_LD R247
  | waitcSt (b : BitVec 6)  -- WAITC_ST R247
  | waitcWh (b : BitVec 6)  -- WAITC_WH R247
  | waitcAn (b : BitVec 6)  -- WAITC_AN R247
  | waitcRa (b : BitVec 6)  -- WAITC_RA R247
  | waitcFe (b : BitVec 6)  -- WAITC_FE R247
  | atom (o : BitVec 5) (v : BitVec 7) (b : BitVec 6) (t : BitVec 7)  -- ATOM R253
  | red (o : BitVec 5) (v : BitVec 7) (b : BitVec 6) (t : BitVec 7)  -- RED R253
  | xat (x : Bool) (o : BitVec 3) (b a d : BitVec 7)  -- XAT R259
  | xred (x : Bool) (o : BitVec 3) (b a d : BitVec 7)  -- XRED R259
  | wcopy (r : BitVec 6) (s d : BitVec 3)  -- WCOPY R278
  | wcopyStream (r : BitVec 6) (s d : BitVec 3)  -- WCOPY_STREAM R278
  | wgather (r : BitVec 6) (i s d : BitVec 3)  -- WGATHER R279
  | wscatter (r : BitVec 6) (i s d : BitVec 3)  -- WSCATTER R279
  | wfill (r v : BitVec 6) (d : BitVec 3)  -- WFILL R280
  | wcomp (r : BitVec 6) (s : BitVec 3) (a : BitVec 6)  -- WCOMP R281
  | wdcomp (r a : BitVec 6) (d : BitVec 3)  -- WDCOMP R283
  | wloado (ro : Bool) (n : BitVec 7) (r : BitVec 6) (s : BitVec 3)  -- WLOADO R284
  | wstat (b d : BitVec 6)  -- WSTAT R285
  | wcancel (b : BitVec 6)  -- WCANCEL R285
  | frs (r a : BitVec 6)  -- FRS R287
  | fag (r a : BitVec 6)  -- FAG R287
  | far (r a : BitVec 6)  -- FAR R287
  | fa2a (r a : BitVec 6)  -- FA2A R287
  | fbc (r a : BitVec 6)  -- FBC R287
  | fupd (r b a : BitVec 6)  -- FUPD R292
  | fshard (a : BitVec 6)  -- FSHARD R290
  | oclaim (c b d : BitVec 6)  -- OCLAIM R296
  | orel (c b : BitVec 6)  -- OREL R297
  | oput (n : BitVec 3) (b a : BitVec 6)  -- OPUT R299
  | oget (n : BitVec 3) (b d : BitVec 6)  -- OGET R299
  | aclaim (c b d : BitVec 6)  -- ACLAIM R296
  | arel (c b : BitVec 6)  -- AREL R297
  | mma (t : BitVec 5) (f m k : BitVec 6)  -- MMA R309
  | mmas (t : BitVec 5) (f m k : BitVec 6)  -- MMAS R309
  | afence (d : BitVec 6)  -- AFENCE R311
  | azero (y : Bool) (t : BitVec 5)  -- AZERO R312
  | gangset (c : BitVec 6)  -- GANGSET R313
  | gangsetPair (c : BitVec 6)  -- GANGSET_PAIR R326
  | aguide (a : BitVec 6)  -- AGUIDE R329
  | adrainV (t : BitVec 5) (b d : BitVec 6)  -- ADRAIN_V R320
  | adrainO (n : BitVec 5) (s : BitVec 6) (f b x : Bool)  -- ADRAIN_O R321
  | adrainG (t : BitVec 5)  -- ADRAIN_G R331
  | astash (c : BitVec 2) (b : Bool) (f : BitVec 4) (r : BitVec 6) (q p : BitVec 3) (n : BitVec 5)  -- ASTASH R325
  | lnch (b d : BitVec 6)  -- LNCH R346
  | lnchTry (b d : BitVec 6)  -- LNCH_TRY R346
  | trig  -- TRIG R347
  | rgrow (a : BitVec 6)  -- RGROW R358
  | rshrink (a : BitVec 6)  -- RSHRINK R360
  | prio (b a : BitVec 6)  -- PRIO R352
  | cohort (b d : BitVec 6)  -- COHORT R361
  | cohortSelf (d : BitVec 6)  -- COHORT_SELF R361
  | trap (n : BitVec 12)  -- TRAP R364
  | rte  -- RTE R371
  | rteSkip  -- RTE_SKIP R371
  | rteR (a : BitVec 6)  -- RTE_R R371
  | bkpt (n : BitVec 12)  -- BKPT R381
  | trace (b a : BitVec 6)  -- TRACE R365
  | halt  -- HALT R381
  | tstamp (d : BitVec 6)  -- TSTAMP R365
  | perf (b d : BitVec 6)  -- PERF R389
  | clauseWaitSatisfied (age entry : Nat)  -- CLAUSE_WAIT_SATISFIED R38
  | subcoreIssueCycle (core sub : Nat)  -- SUBCORE_ISSUE_CYCLE R93
  | splitEntryHoldEvict (core sub : Nat)  -- SPLIT_ENTRY_HOLD_EVICT R91
  | yieldPauseEnd (age entry : Nat)  -- YIELD_PAUSE_END R115
  | resultWriteback (op : Nat)  -- RESULT_WRITEBACK R39
  | edgeLatchDeposit (age entry : Nat)  -- EDGE_LATCH_DEPOSIT R170
  | rendezvousTransfer (wg slot : Nat)  -- RENDEZVOUS_TRANSFER R177
  | rightsWalkComplete (core ctx : Nat) (addr : BitVec 64)  -- RIGHTS_WALK_COMPLETE R192
  | translationWalk (ctx : Nat) (addr : BitVec 64)  -- TRANSLATION_WALK R199
  | loadDataArrive (op : Nat)  -- LOAD_DATA_ARRIVE R185
  | loadFaultPark (op : Nat)  -- LOAD_FAULT_PARK R200
  | faultRecordRetry  -- FAULT_RECORD_RETRY R201
  | faultQueueRegWrite (off : Nat) (value : BitVec 64)  -- FAULT_QUEUE_REG_WRITE R201
  | faultrespResume (token : Nat)  -- FAULTRESP_RESUME R202
  | faultrespDecline (token : Nat)  -- FAULTRESP_DECLINE R202
  | landingProbeAnswer (core ctx : Nat) (page : BitVec 64)  -- LANDING_PROBE_ANSWER R207
  | llcHbmWriteback (ctx : Nat) (line : BitVec 64)  -- LLC_HBM_WRITEBACK R427
  | shootdownStart  -- SHOOTDOWN_START R215
  | shootdownDrainDone  -- SHOOTDOWN_DRAIN_DONE R215
  | shootdownMgtRequest (src : Nat) (base len : BitVec 64) (mode : Nat)  -- SHOOTDOWN_MGT_REQUEST R217
  | shootdownPackageAnswer (pkg : Nat)  -- SHOOTDOWN_PACKAGE_ANSWER R217
  | sdctlGo (value : BitVec 64)  -- SDCTL_GO R218
  | releaseRecall (core entry : Nat)  -- RELEASE_RECALL R230
  | recallAnswer (core entry : Nat)  -- RECALL_ANSWER R230
  | watchFire (addr : BitVec 64)  -- WATCH_FIRE R246
  | mwaitTimeout (age entry : Nat)  -- MWAIT_TIMEOUT R246
  | remoteAtomicRequest (req : RemoteRequest)  -- REMOTE_ATOMIC_REQUEST R260
  | remoteAtomicAck (sub : Nat) (olds : List (Nat × BitVec 64)) (flags : BitVec 4)  -- REMOTE_ATOMIC_ACK R260
  | remoteAtomicRnr (sub detail : Nat)  -- REMOTE_ATOMIC_RNR R263
  | remoteRetryTimer (sub : Nat)  -- REMOTE_RETRY_TIMER R263
  | wherryCommandStart (core : Nat)  -- WHERRY_COMMAND_START R271
  | wherryCountUpdate (cmd bytes : Nat)  -- WHERRY_COUNT_UPDATE R275
  | wherryCommandComplete (cmd : Nat)  -- WHERRY_COMMAND_COMPLETE R275
  | engineXlateFault (cmd : Nat)  -- ENGINE_XLATE_FAULT R273
  | wherryRemotePacket (src : Nat) (stream : Bool) (runs : List (BitVec 64 × List (BitVec 8)))  -- WHERRY_REMOTE_PACKET R276
  | ferryMatch (cmd : Nat) (partners : List FerryPartner)  -- FERRY_MATCH R287
  | ferryComplete (cmd : Nat)  -- FERRY_COMPLETE R289
  | claimZeroingDone (age entry : Nat)  -- CLAIM_ZEROING_DONE R296
  | objectRelease (core : Nat) (tile : Bool) (index : Nat)  -- OBJECT_RELEASE R297
  | gangLatchOpen (wg cohort : Nat)  -- GANG_LATCH_OPEN R315
  | arrayKStep (core : Nat)  -- ARRAY_K_STEP R318
  | arrayQueueEntry (age entry : Nat)  -- ARRAY_QUEUE_ENTRY R318
  | batchComplete (age : Nat)  -- BATCH_COMPLETE R311
  | guidedDrain (core : Nat)  -- GUIDED_DRAIN R333
  | rgrowGrant (core : Nat)  -- RGROW_GRANT R358
  | rgrowStallEvict (core : Nat)  -- RGROW_STALL_EVICT R359
  | launchPortWrite (port : CoreWrite) (off size : Nat) (value : BitVec 64)  -- LAUNCH_PORT_WRITE R341
  | queueReset (queue : Nat)  -- QUEUE_RESET R345
  | queueResetComplete (queue : Nat)  -- QUEUE_RESET_COMPLETE R345
  | qresWrite (queue : Nat) (value : BitVec 64)  -- QRES_WRITE R351
  | launchStart (queue : Nat)  -- LAUNCH_START R342
  | workgroupPlace (queue : Nat)  -- WORKGROUP_PLACE R354
  | groupRestore (age : Nat)  -- GROUP_RESTORE R378
  | groupSave (age reason : Nat)  -- GROUP_SAVE R374
  | saveAgentApply (op : Nat)  -- SAVE_AGENT_APPLY R377
  | workgroupRetire (wg : Nat)  -- WORKGROUP_RETIRE R362
  | registerFileScrub (core : Nat)  -- REGISTER_FILE_SCRUB R372
  | dbgcmdHalt  -- DBGCMD_HALT R380
  | dbgcmdResume  -- DBGCMD_RESUME R380
  | dbgcmdStep  -- DBGCMD_STEP R380
  | dbgcmdSave  -- DBGCMD_SAVE R380
  | debugImageWrite (off : Nat) (value : BitVec 8)  -- DEBUG_IMAGE_WRITE R379
  | registerWrite (reg : CoreWrite) (value : BitVec 64)  -- REGISTER_WRITE R9
  | hallmarkRequest  -- HALLMARK_REQUEST R405
  | hallmarkComplete  -- HALLMARK_COMPLETE R405
  | controlCoreAccess (pa size : Nat) (op : CoreOp)  -- CONTROL_CORE_ACCESS R390
  | controlHomeRequest (req : HomeRequest)  -- CONTROL_HOME_REQUEST R396
  | flitCrcFail (port : Nat)  -- FLIT_CRC_FAIL R393
  | linkDown (port : Nat)  -- LINK_DOWN R393
  | heartbeatSend  -- HEARTBEAT_SEND R397
  | heartbeatReceive (pkg : Nat)  -- HEARTBEAT_RECEIVE R397
  | peerSuspect (pkg : Nat)  -- PEER_SUSPECT R397
  | packageIsolated  -- PACKAGE_ISOLATED R397
  | lossNotice (pkg : Nat)  -- LOSS_NOTICE R398
  | lossRebuildComplete  -- LOSS_REBUILD_COMPLETE R398
  | timeSyncMessage (offset : Int)  -- TIME_SYNC_MESSAGE R401
  | pcieInboundRead (port : Nat) (addr : BitVec 64) (size : Nat)  -- PCIE_INBOUND_READ R400
  | pcieInboundWrite (port : Nat) (addr : BitVec 64) (data : List (BitVec 8))  -- PCIE_INBOUND_WRITE R400
  | pcieAtomicop (port : Nat) (addr : BitVec 64) (size : Nat) (op : PcieAtomic) (a c : BitVec 64)  -- PCIE_ATOMICOP R399
  | bootVerify (image : BootImage)  -- BOOT_VERIFY R403
  | rackAssignmentRecord (bytes : List (BitVec 8))  -- RACK_ASSIGNMENT_RECORD R404
  | droopDetect (core : Nat)  -- DROOP_DETECT R407
  | droopRestore (core : Nat)  -- DROOP_RESTORE R407
  | powerLimitStep (watts : Nat)  -- POWER_LIMIT_STEP R408
  | inputUndervoltage  -- INPUT_UNDERVOLTAGE R408
  | assaySample (core needMv : Nat)  -- ASSAY_SAMPLE R406
  | marginReplan (core : Nat)  -- MARGIN_REPLAN R406
  | rasErrorEvent (err : RasError)  -- RAS_ERROR_EVENT R410
  | ferryShardArrival (cmd position : Nat)  -- FERRY_SHARD_ARRIVAL R290
  | pcieErrorReported (port : Nat) (correctable : Bool)  -- PCIE_ERROR_REPORTED R392
  deriving DecidableEq, Repr

end Sys2Proof
end

