-- ==== Sys2Proof/Machine/State.lean ====
section
/-! DEFINITION. The state of one package: everything the spec gives the machine, as plain data, and its reset value.

A map (`Cells`) lists only what differs from the value an unlisted key has: 0 for a register or a byte. -/

namespace Sys2Proof.Machine

/-! ## Fragments, waits and traps -/

/-- The wait states of Table 4.1. -/
inductive WaitState where
  | ready
  | clause
  | parked
  | held
  | paused
  | splitHold
  deriving DecidableEq, Repr

/-- The in-flight counter paths (R247), in the order of Table 15.6. -/
inductive Path where
  | ld
  | st
  | wh
  | an
  | ra
  | fe
  deriving DecidableEq, Repr

/-- Why a fragment is held with wait state 3.  `retry` reasons hold an instruction that has not issued; the fragment
issues it again once the reason is over.  The others hold a fragment whose instruction has taken its effect so far. -/
inductive Hold where
  | none
  /-- R91: so many split-table entries are not to be had. -/
  | entries (count : Nat)
  /-- The instruction issues again at once: it asks for memory that another agent still holds. -/
  | retry
  /-- R233: records created before operation `before` are pending. -/
  | records (before : Nat)
  /-- R229, R232: accesses issued before operation `before` are not complete. -/
  | release (before : Nat)
  /-- R231: loads issued before operation `before`, which an acquire fence orders, have no data yet. -/
  | loads (before : Nat)
  /-- R344, R346: accesses issued before operation `before`, which happen before the launched work, are not complete. -/
  | launch (before : Nat)
  /-- R247: the counter of the path is above the limit. -/
  | counter (path : Path) (limit : Nat)
  /-- R208: no landing record is free. -/
  | landingRoom
  /-- R222, R242, R248: the line of a barrier object is not free for operation `before`. -/
  | busyLine (key before : Nat)
  /-- R255: an unlanded record of the group holds a byte of the atomic. -/
  | ownRecord (keys : List Nat)
  /-- R169: the latch that the edge form reads is empty. -/
  | edgeRead (left : Bool)
  /-- R170: deposits of an XEDGE still to be made: group and value. -/
  | deposits (left right : Option (Nat × Lane))
  /-- R38: the flags that the header of this word waits for. -/
  | flags (word : Nat)
  /-- R176: the side of the slot is occupied; an XSEND's partner field. -/
  | sendSide (slot partner : Nat)
  | recvSide (slot : Nat)
  /-- R176: the XSEND waits for its transfer. -/
  | transfer (slot : Nat)
  /-- R240: the fragment waits for this phase of the barrier (16 is the workgroup barrier) to complete. -/
  | barrier (bar phase : Nat)
  /-- R240: the lanes are already counted in this phase. -/
  | barrierAgain (bar phase : Nat)
  /-- R244: MBWAIT holds while the object's PHASE is the one given. -/
  | object (addr : Word) (phase : Nat)
  /-- R41, R242: an object instruction that has issued as operation `before` still has to make its update: with `asked`, the home
  of the object's line was asked, and `old` is the word that it answered. -/
  | objectOp (addr : Word) (u : ObjectUpdate) (before : Nat) (asked : Bool) (old : Option Nat)
  /-- R246: MWAIT holds, with the register it writes and the time its timeout ends. -/
  | watch (sd : Nat) (deadline : Option Nat)
  /-- R271, R259, R287: no room at the engine. -/
  | wherryRoom
  | remoteRoom
  | ferryRoom
  /-- R314, R331: the operation is latched, or an earlier one of the group is. -/
  | latched
  | latchBusy
  /-- R318: the array queue is full. -/
  | arrayRoom
  /-- R358: the request is on the grant list. -/
  | rgrow
  /-- R360: writes above the new allocation are still to come. -/
  | shrink (newAlloc : Nat)
  /-- R214: the shootdown unit holds 16 requests, or works on this group's request. -/
  | shootdownRoom
  | shootdown (id : Nat)
  /-- R216: an access to a range under shootdown, counted on its path under this number; `inner` is the reason for which the
  instruction was held before. -/
  | underShootdown (path : Option Path) (op : Nat) (inner : Hold)
  /-- R296, R297: zeroing objects, or releasing those that are left of a run. -/
  | claiming
  | releasing (tile : Bool) (left : List Nat) (before : Nat)
  /-- R284: an incomplete WLOADO fills one of the slots. -/
  | slotLoading (slots : List Nat)
  /-- R346: the queue holds 64 launches. -/
  | queueRoom (queue : Nat)
  /-- R371: RTE waits for results of trap-mode instructions. -/
  | trapResults
  /-- R235, R346: waits for the WH, FE and RA counters. -/
  | engines
  deriving DecidableEq, Repr

/-- A fragment in its split-table entry (Table 4.1).  `clauseStart` is the address of the first halfword after the
header in force, from which R35 counts; `needHeader` says that the next halfword must begin a header (R32, R116).
`readyAt` is the cycle of the core before which a redirected, created or released fragment does not issue (R95, R96).  `pausedUntil` is
the cycle that ends a pause, or in which a hold began (R91); for a hold at a rendezvous it is the period of the first attempt (R176), and
`agedAt` is the period in which the fragment became aged (R93). -/
structure Frag where
  entry : Nat
  pc : Word
  lanes : Lane
  header : Option (BitVec 32)
  clauseStart : Word
  needHeader : Bool
  wait : WaitState
  hold : Hold
  rejoin : Nat
  age : Nat
  agedAt : Nat
  lastIssue : Nat
  pausedUntil : Nat
  readyAt : Nat
  deriving DecidableEq, Repr

/-- The causes of Table 15.4. -/
inductive Cause where
  | illegal
  | priv
  | misalign
  | space
  | remoteDirect
  | perm
  | class_
  | loadXlate
  | storeLanding
  | atomRemote
  | synonym
  | formatDivergence
  | scaleAxis
  | slot
  | gang
  | rfEcc
  | rgrowExceeds
  | peerLost
  | privLimit
  | software
  | breakpoint
  | double
  | watch
  | rendezvousAbandon
  | fupdState
  deriving DecidableEq, Repr

/-- A trap with the fields of its record (Table 15.3). -/
structure Trap where
  cause : Cause
  aux : Nat := 0
  lane : Nat := 32
  detail : Nat := 0
  addr : Word := 0
  pc : Word := 0
  seq : Nat := 0
  lanes : Lane := 0
  word : Word := 0
  deriving DecidableEq, Repr

/-! ## A thread group -/

/-- A return-stack entry (R106). -/
structure RetEntry where
  addr : Word
  lanes : Lane
  deriving DecidableEq, Repr

/-- The watch of MON (R246): context-tagged line number, and whether it has fired or was lost. -/
structure Watch where
  line : Nat
  fired : Bool
  lost : Bool
  deriving DecidableEq, Repr

/-- A failed remote record (R264) or one left by a lost peer (R267); `inTrap` for an atomic issued in trap mode (R370). -/
structure FailedRemote where
  order : Nat
  pc : Word
  peer : Nat
  lanes : Lane
  addr : Word
  retries : Nat
  detail : Nat
  flag : Option Nat
  lost : Bool
  inTrap : Bool
  deriving DecidableEq, Repr

/-- An engine failure record (R274); `inTrap` for a command issued in trap mode (R370). -/
structure FailedEngine where
  order : Nat
  ferry : Bool
  pc : Word
  detail : Nat
  addr : Word
  peer : Nat
  inTrap : Bool
  deriving DecidableEq, Repr

/-- A declined access that traps its group once nothing of it is parked (R202, R203): the fragment, and the length of
the instruction that the trap withholds, 0 for none, and whether it was issued in trap mode. -/
structure Declined where
  token : Nat
  trap : Trap
  entry : Nat
  len : Nat
  inTrap : Bool
  deriving DecidableEq, Repr

/-- An abandoned XRECV (R178): its place in the issue order, the flag it held, its PC, slot and partner field. -/
structure Abandoned where
  order : Nat
  flag : Nat
  pc : Word
  slot : Nat
  partner : Nat
  deriving DecidableEq, Repr

/-- Which group this is and where it runs.  `saving` is the reason for which it is being saved, as Table 15.11 codes it,
5 while it is being restored, 0 otherwise; `prio` is a base priority that a debugger wrote into its image (R379). -/
structure Ident where
  age : Nat
  launch : Word
  wg : Nat
  wgIndex : Nat
  num : Nat
  ctx : Nat
  queue : Nat
  core : Nat
  slot : Nat
  cls : Nat
  resident : Bool
  saving : Nat
  halted : Bool
  dbl : Bool
  prio : Option Nat := none
  deriving DecidableEq, Repr

/-- Registers of a group (Table 2.6).  Lane l of vector register n has the key 32 n + l; `poison` lists such keys,
with 512 + n for tv n (R372). -/
structure Regs where
  s : Cells Word
  ts : Cells Word
  v : Cells Lane
  tv : Cells Lane
  poison : List Nat
  alloc : Nat
  m : Cells Lane
  c : BitVec 4
  k : Cells (BitVec 128)
  deriving DecidableEq, Repr

/-- Where the lanes of a group are (R87, R106, R109) and its trap bank (R370). -/
structure Flow where
  live : Lane
  frags : List Frag
  rejoinE : Cells Lane
  rejoinA : Cells Lane
  ret : List RetEntry
  trapMode : Bool
  trapFrags : List Frag
  trapE : Cells Lane
  trapA : Cells Lane
  /-- The entry of the fragment that the trap stopped (TRAPFRAG), and the clause header it stopped at, for RTE. -/
  stopped : Nat
  stopHeader : Option (BitVec 32)
  /-- The address of that fragment where the stop withheld no instruction: the fragment then keeps its wait state
  (R368, R371). -/
  stopKept : Option Word
  deriving DecidableEq, Repr

/-- The GANG register (Table 12.6). -/
structure GangReg where
  valid : Bool
  pair : Bool
  cohort : Nat
  members : Lane
  deriving DecidableEq, Repr

/-- The special registers of a group that hold state (Table 15.2). -/
structure Special where
  fpctl : BitVec 2
  fpstat : BitVec 4
  lossScale : Lane
  guideW : Lane
  ackbar : Word
  privHwm : Word
  rsBase : Word
  rsDepth : Nat
  gang : GangReg
  trapVec : Word
  trapCause : BitVec 8
  trapPc : Word
  trapNpc : Word
  trapFrag : Word
  trapRec : List Word
  deriving DecidableEq, Repr

/-- One operation on a counter path: its number, and whether it is complete (R247). -/
structure InFlight where
  path : Path
  op : Nat
  done : Bool
  deriving DecidableEq, Repr

/-- A closed batch: the number of its AFENCE's operation and the array operations still to finish (R311). -/
structure Batch where
  num : Nat
  ops : List Nat
  deriving DecidableEq, Repr

/-- Work that a group has outstanding, and its records.  `tcFence` is the operation number of its last TCFENCE (R235);
`sendAbandon` lists the traps of abandoned XSENDs that are held for the end of trap mode, by entry (R178); `busy` gives, for
the registers that fixed-latency instructions write, the cycle from which the result is usable (R92, R95). -/
structure Work where
  inflight : List InFlight
  seq : Nat
  markEntry : Option Nat
  tcFence : Nat
  wherryCount : Nat
  wherryIds : List Nat
  batchCount : Nat
  openOps : List Nat
  batches : List Batch
  shard : Option Word
  failedRemote : List FailedRemote
  failedEngine : List FailedEngine
  declined : List Declined
  abandoned : List Abandoned
  watch : Option Watch
  triggered : Bool
  sendAbandon : List (Nat × Trap)
  issued : Nat
  packed : Nat
  divergent : Nat
  traps : Nat
  busy : Cells Nat
  deriving DecidableEq, Repr

/-! ## Pending results -/

/-- A load or atomic in flight (R185, R253): kind 0 LD, 1 LDS, 2 LDACQ, 3 ATOM, 4 RED.  `reg` is the key of the first
destination register, `before` the group's count of stores issued before it, `nc` the lanes on NC pages; `staged`
holds the lanes that have their data, `parked` the lanes that wait for the driver, `synonym` the lanes that met
SYNONYM.  A scalar access has the lane number 32. -/
structure Load where
  kind : Nat
  size : Nat
  signed : Bool
  reg : Nat
  scope : Nat
  stream : Bool
  op : Nat
  before : Nat
  addrs : List (Nat × Word)
  nc : List Nat
  operands : List (Nat × Word × Word)
  staged : List (Nat × List Byte)
  fp : BitVec 4
  parked : Lane
  synonym : Lane
  detail : Nat
  deriving DecidableEq, Repr

/-- What a variable-latency instruction still has to write (R39). -/
inductive PendKind where
  /-- Computed at issue: vector entries, scalar registers and FPSTAT flags. -/
  | result (vw : List (Nat × Lane)) (sw : List (Nat × Word)) (fp : BitVec 4)
  | load (l : Load)
  /-- A pending receive (R176): slot, partner field, lanes, first register, count. -/
  | xrecv (slot partner : Nat) (lanes : Lane) (reg count : Nat)
  /-- XAT: complete when its sub-operations are. -/
  | xat (subs : List Nat)
  /-- OGET and ADRAIN.v: complete when the object operation has read. -/
  | object (aop : Nat)
  /-- WSTAT: the register and the command named at issue (R285). -/
  | wstat (sd : Nat) (cmd : Option Nat)
  /-- CFLUSH or CINV of lines, with the pending landing records whose pinned bytes it waits for (R213). -/
  | flush (inv llc : Bool) (lines records : List Nat)
  deriving DecidableEq, Repr

/-- An instruction in flight: its number, group, the flag it keeps set and the bank of that flag, its counter path. -/
structure Pend where
  id : Nat
  age : Nat
  flag : Option Nat
  trapBank : Bool
  path : Option Path
  entry : Nat
  pc : Word
  lanes : Lane
  kind : PendKind
  deriving DecidableEq, Repr

/-- One lane of a landing record: lane, address, whether its page is NC, bytes, whether it has landed or faulted, and
whether it found no way of its L1 set and so goes to the LLC (R195).  `confirmed` says that its page is good, so that it waits for no probe,
but only for its order, or, in control space, for its home (R207, R223).  A byte is absent once a later store of the group to
it has landed. -/
structure LaneStore where
  lane : Nat
  addr : Word
  nc : Bool
  bytes : List (Option Byte)
  landed : Bool
  faulted : Bool
  direct : Bool
  confirmed : Bool
  deriving DecidableEq, Repr

/-- A landing record (Table 8.13).  `mark` is the release entry its bytes are marked with (R229), `fence` the number of
the TCFENCE before it (R235). -/
structure Landing where
  id : Nat
  age : Nat
  core : Nat
  slot : Nat
  entry : Nat
  pc : Word
  seq : Nat
  kind : Nat
  size : Nat
  detail : Nat
  ctx : Nat
  stream : Bool
  inTrap : Bool
  mark : Option Nat
  fence : Nat
  lanes : List LaneStore
  deriving DecidableEq, Repr

/-- What a fault response resumes (R202, R204, R273). -/
inductive ParkWhat where
  | load (op : Nat)
  /-- The load was resumed and has not finished. -/
  | resent (op : Nat)
  | instruction (entry len : Nat)
  | engine (cmd : Nat)
  deriving DecidableEq, Repr

/-- An access that waits for the driver: its token, group, kind and detail, and the trap that Decline gives. -/
structure Park where
  token : Nat
  age : Nat
  kind : Nat
  detail : Nat
  pc : Word
  addr : Word
  lanes : Lane
  what : ParkWhat
  deriving DecidableEq, Repr

/-- A fault record that waits to be written to the fault queue (R201). -/
structure FaultRec where
  core : Nat
  words : List Word
  deriving DecidableEq, Repr

/-! ## Memory and caches -/

/-- A byte of an LLC slice or of the control cache. -/
structure LlcByte where
  val : Byte
  dirty : Bool
  deriving DecidableEq, Repr

/-- A valid byte of an L1, with its dirty bit and the stamp of its write (R195, R230). -/
structure L1Byte where
  val : Byte
  dirty : Bool
  nc : Bool
  stamp : Nat
  deriving DecidableEq, Repr

/-- A run of translated pages: virtual page, count, frame (R199, R426). -/
structure PageRun where
  vpage : Nat
  count : Nat
  frame : Nat
  deriving DecidableEq, Repr

/-- The rights of a page (Table 8.4). -/
structure Rights where
  rd : Bool
  wr : Bool
  at_ : Bool
  ex : Bool
  cls : Nat
  deriving DecidableEq, Repr

/-- A permission-cache entry (R193). -/
structure PermEntry where
  ctx : Nat
  page : Nat
  rights : Rights
  deriving DecidableEq, Repr

/-- The memory of the package and its caches.  A physical key is a package physical address, 2^40 plus an LPDDR
address, or 2^41 plus a control offset homed elsewhere.  A virtual key is an address, with the context above bit 64
for the space of a context.  `xlate` lists the translations that each translation unit has installed, the latest first:
units 0 to 15 are the slices', 16 the control die's (R426).  While launches are accepted, `past` keeps what each write at the
LLC replaced, the latest first, under the count `writes`, for the fetches of R34.  `unmirrored` lists the control lines written
here that no mirror has applied yet (R396), and `fetches` counts the lines that other homes have supplied.  `late` lists the bytes
that an L1 wrote back to a line while a command owned it, with the number of the next operation then: the commands issued before
it do not overwrite them (R248). -/
structure Memory where
  phys : List Host.Cell
  llc : Cells LlcByte
  llcLanded : List Nat
  marks : Cells (Nat × Nat)
  xlate : List (Nat × PageRun)
  owners : List PageRun
  poison : List Nat
  writes : Nat
  past : List (Nat × List (Nat × Byte))
  unmirrored : List Nat
  fetches : Nat
  late : List (Nat × Nat)
  deriving DecidableEq, Repr

/-- A count that an engine or an acknowledgement still has to add to BYTES of a barrier object, where the object could not
take it at once (R266, R275): for which group and operation, by an agent of which core. -/
structure ObjectCount where
  wg : Nat
  ctx : Nat
  core : Nat
  age : Nat
  op : Nat
  addr : Word
  n : Int
  deriving DecidableEq, Repr

/-- A shootdown request (R214): mode 0 write-back, 1 discard, 2 rights.  `remote` is the package that sent it, `before`
the number of the next operation at its start, `waiting` the packages that have not answered. -/
structure Shootdown where
  id : Nat
  base : Word
  len : Nat
  mode : Nat
  ctx : Nat
  window : Bool
  remote : Option Nat
  started : Bool
  before : Nat
  waiting : List Nat
  drained : Bool
  deriving DecidableEq, Repr

/-! ## Engines -/

/-- A tile shape record as a command read it at issue, with its base address (R268, R269). -/
structure Shape where
  base : Word
  rowlen : Nat
  rows : Nat
  planes : Nat
  fmt : Nat
  t : Bool
  pitch : Nat
  ppitch : Nat
  deriving DecidableEq, Repr

/-- What a Wherry command does (Table 11.4, R323). -/
inductive WherryBody where
  | copy (dst src : Shape)
  | gather (dst src idx : Shape)
  | scatter (dst src idx : Shape)
  | fill (dst : Shape) (value : Word)
  | comp (stream : Word) (src : Shape)
  | decomp (dst : Shape) (stream : Word)
  | loado (slot : Nat) (ro : Bool) (src : Shape) (bits : BitVec 128)
  | stash (tile fmt : Nat) (bs8 : Bool) (mode : Nat) (plain transposed : Option (Shape × Word))
  /-- A gather or scatter whose index list is read: rows of the destination and of the source. -/
  | moves (dst src : Shape) (rows : List (Nat × Nat))
  /-- Bytes that are known and still to be written, a destination line at a time. -/
  | writes (l : List (Word × List Byte))
  /-- Bytes that a stream decoded to, written a block of 4 KiB at a time (R283). -/
  | blocks (l : List (Word × List Byte))
  deriving DecidableEq, Repr

/-- The states of a Wherry command (Table 11.6). -/
inductive WherryState where
  | queued
  | running
  | paused
  | complete
  | failed
  | cancelled
  deriving DecidableEq, Repr

/-- Bytes that a command has sent to another package and that are not acknowledged (R273, R275): all that it writes there of a line,
or of a decoded block, as runs by address; for a control line, to its home under a request tag.  `waiting` says that the package
was not ready, with the detail; the bytes go again at `retryAt`. -/
structure EnginePacket where
  pkg : Nat
  runs : List (Word × List Byte)
  tag : Option Nat
  retries : Nat
  retryAt : Nat
  waiting : Bool
  detail : Nat
  deriving DecidableEq, Repr

/-- A Wherry command (R270 to R277).  `buf` holds source bytes already read that are not yet used, `asked` says that
another package was asked for the next ones, and `waiting`, `retryAt` and `refusal` that it was not ready; `out` lists what
is sent and not acknowledged; `left` is what remains of its count. -/
structure Wherry where
  id : Nat
  core : Nat
  age : Nat
  wg : Nat
  ctx : Nat
  pc : Word
  major : Nat
  minor : Nat
  order : Nat
  stream : Bool
  bar : Option Word
  left : Nat
  state : WherryState
  detail : Nat
  done : Nat
  failAddr : Word
  aop : Option Nat
  retries : Nat
  buf : List Byte
  asked : Bool
  waiting : Bool
  retryAt : Nat
  refusal : Nat
  out : List EnginePacket
  inTrap : Bool
  body : WherryBody
  deriving DecidableEq, Repr

/-- A Ferry command (R286 to R292): kind 0 FRS, 1 FAG, 2 FAR, 3 FA2A, 4 FBC, 5 FUPD.  Once matched, `out` holds the
shards that its DST receives, `arrived` the positions of those written, `unacked` the packages that have not acknowledged what
it sent them, and `fp` the flags that it raises. -/
structure Ferry where
  id : Nat
  age : Nat
  wg : Nat
  ctx : Nat
  pc : Word
  kind : Nat
  list : Word
  src : Word
  dst : Word
  count : Nat
  width : Nat
  op : Nat
  tag : Nat
  members : List Nat
  order : Nat
  runLen : Nat
  update : List Word
  bar : Option Word
  shard : Option Word
  matched : Bool
  out : List (List Byte)
  arrived : List Nat
  unacked : List Nat
  fp : BitVec 4
  inTrap : Bool
  deriving DecidableEq, Repr

/-- A line request of a remote atomic (R262, R263): lane, address, operand and swap value of each lane; once it is
acknowledged the old value stands in the operand's place.  `tag` is its 16-bit request tag. -/
structure RemoteLine where
  tag : Nat
  lanes : List (Nat × Word × Word × Word)
  sent : Bool
  retries : Nat
  retryAt : Nat
  detail : Nat
  waiting : Bool
  acked : Bool
  failed : Bool
  deriving DecidableEq, Repr

/-- A sub-operation of XAT or XRED towards one peer (R259).  `entered` says that it has its entry of the core's
remote-atomic table; until it has, it is not sent and holds its fragment. -/
structure RemoteSub where
  id : Nat
  entered : Bool
  age : Nat
  core : Nat
  pc : Word
  isRed : Bool
  op : BitVec 3
  peer : Nat
  reg : Nat
  bank : Bool
  flag : Option Nat
  ackbar : Word
  limit : Nat
  fp : BitVec 4
  lines : List RemoteLine
  deriving DecidableEq, Repr

/-! ## Anvil -/

/-- An operand slot (Table 12.1). -/
structure Slot where
  data : Cells Byte
  owner : Option Nat
  ro : Option (Word × BitVec 128)
  tag : Nat
  deriving DecidableEq, Repr

/-- An accumulator tile (Table 12.1); entry (m, n) has the key 192 m + n. -/
structure Tile where
  data : Cells Lane
  owner : Option Nat
  i32 : Bool
  rv : Word
  deriving DecidableEq, Repr

/-- A member's part of an MMA (R309). -/
structure MmaPart where
  age : Nat
  num : Nat
  entry : Nat
  pc : Word
  lanes : Lane
  op : Nat
  tile : Nat
  slotA : Nat
  side : Nat
  rows : Word
  batch : Nat
  deriving DecidableEq, Repr

/-- What an operation does to slots and tiles (R300). -/
inductive ObjectOp where
  | mma (sparse : Bool) (fmt : BitVec 32) (bs run steps next : Nat) (parts : List MmaPart)
  | azero (tile : Nat)
  | drainO (tile slot : Nat) (fmt : Nat) (bs8 trans : Bool) (mode : Nat)
  | drainV (tile row0 rows reg : Nat) (lanes : Lane)
  | guided (tileC tileU : Nat) (w : Lane) (ageC ageU opC opU : Nat) (parts : List MmaPart)
  | oput (slot off : Nat) (data : List (Nat × Lane))
  | oget (slot off reg count : Nat) (lanes : Lane)
  | engine (slot tile : Option Nat) (cmd : Nat)
  deriving DecidableEq, Repr

/-- An operation that has reached its objects, in reach order on its core. -/
structure ObjectEntry where
  id : Nat
  age : Nat
  cls : Nat
  queued : Bool
  op : ObjectOp
  deriving DecidableEq, Repr

/-- A latched operation of a gang member (R314, R331). -/
structure Latched where
  age : Nat
  num : Nat
  entry : Nat
  pc : Word
  lanes : Lane
  op : Nat
  wg : Nat
  cohort : Nat
  pair : Bool
  members : Lane
  guided : Bool
  sparse : Bool
  tile : Nat
  fmt : BitVec 32
  step : Word
  rows : Word
  batch : Nat
  weight : Lane
  deriving DecidableEq, Repr

/-- What the save image of a group holds beside the group's own record and its operations in flight (Table 15.6): its
claimed tiles and slots with their poisoned words (as keys of core 0), its array operations, those of other groups in which it
takes part, and its latched operation; and the reason of the save (Table 15.11).  Of section 3, `places` gives the place of each
fragment by its split-table entry, and `blanks` the entries that are not valid and have been written; `rets` is section 4, the bottom
entry first; `prio` is the effective priority at the save; `age`, `dir` and `types` are what has been written to AGE, to entries of the
directory, and to TYPE of an operation by its number and request tag (R379). -/
structure Saved where
  reason : Nat
  tiles : List (Nat × Tile)
  slots : List (Nat × Slot)
  poison : List Nat
  aops : List ObjectEntry
  shares : List ObjectEntry
  latched : Option Latched
  places : Cells Nat
  blanks : List (Nat × Frag)
  rets : List RetEntry
  prio : Nat
  age : Nat
  dir : Cells Nat
  types : List ((Nat × Nat) × Nat)
  deriving DecidableEq, Repr

/-- A thread group; `saved` is present while it is in the save store. -/
structure Group where
  id : Ident
  regs : Regs
  flow : Flow
  sys : Special
  work : Work
  saved : Option Saved
  deriving DecidableEq, Repr

/-! ## Cores -/

/-- Stall accounting and issue state of a sub-core (R388, R92).  `next` is the first cycle that is not yet accounted for: a
sub-core that holds no group adds its cycles to bucket 0 when they are next looked at. -/
structure SubCore where
  next : Nat
  hist : Cells Nat
  reasons : Cells Nat
  lastFp64 : Option Nat
  deriving DecidableEq, Repr

/-- An RGROW on the grant list (R358).  `pressed` says that groups have begun to be evicted for it (R359). -/
structure GrowReq where
  age : Nat
  entry : Nat
  pc : Word
  count : Nat
  pressed : Bool := false
  deriving DecidableEq, Repr

/-- A core.  `running` is the array operation that ran the last K-step; `lost` counts the nominal periods in which its clock did
not tick, `phase` says that it does not tick in this one, and `acc` what its slower clock has gathered (R8, R407, R408); `tagCount` numbers
its remote-atomic requests, and `tagRest` lists the tags that other packages have answered, with the time from which each is used again
(R262; log 93). -/
structure Core where
  l1 : Cells L1Byte
  l1Landed : List Nat
  perms : List PermEntry
  relCount : Nat
  relEntries : List (Nat × Nat)
  slots : Cells Slot
  tiles : Cells Tile
  aops : List ObjectEntry
  latch : List Latched
  running : Option Nat
  grow : List GrowReq
  idle : Nat
  subs : Cells SubCore
  lost : Nat
  half : Bool
  phase : Bool
  acc : Nat
  counters : Cells Nat
  tagCount : Nat
  tagRest : List (Nat × Nat)
  deriving DecidableEq, Repr

/-! ## Workgroups, launches and queues -/

/-- A barrier (R240): its phase, the lanes of each group counted, the groups arrived, and each group's phase of last
arrival. -/
structure Barrier where
  phase : Nat
  lanes : Cells Lane
  arrived : Lane
  last : Cells Nat
  deriving DecidableEq, Repr

/-- A pending send (R176). -/
structure SendSide where
  age : Nat
  num : Nat
  entry : Nat
  pc : Word
  partner : Nat
  lanes : Lane
  count : Nat
  inTrap : Bool
  data : List (Nat × Lane)
  deriving DecidableEq, Repr

/-- A pending receive (R176). -/
structure RecvSide where
  age : Nat
  num : Nat
  partner : Nat
  op : Nat
  deriving DecidableEq, Repr

/-- A rendezvous slot. -/
structure Rendezvous where
  send : Option SendSide
  recv : Option RecvSide
  deriving DecidableEq, Repr

/-- A workgroup on its core.  Latch EL(g) has the key 2 g, ER(g) the key 2 g + 1; a listed latch is full. -/
structure Workgroup where
  id : Nat
  launch : Word
  queue : Nat
  ctx : Nat
  index : Nat
  core : Nat
  groups : Nat
  shSize : Nat
  cls : Nat
  prio : Nat
  ten : Bool
  tq : Nat
  session : Nat
  cohorts : List Word
  hasTable : Bool
  shared : Cells Byte
  barriers : Cells Barrier
  latches : Cells Lane
  slots : Cells Rendezvous
  exited : Lane
  sent : Bool
  saved : Bool
  deriving DecidableEq, Repr

/-- An accepted launch (R336, R342); `since` is the count of writes at the LLC when it was issued (R34). -/
structure Launch where
  id : Word
  queue : Nat
  ctx : Nat
  words : List Word
  cohorts : List Word
  next : Nat
  retired : Nat
  since : Nat
  deriving DecidableEq, Repr

/-- A launch queue (Table 14.5).  `placed` counts the workgroups placed in this round (R349). -/
structure Queue where
  stage : Cells Byte
  ctx : Nat
  weight : Nat
  placed : Nat
  retry : Nat
  prio : Nat
  rbusy : Bool
  gle : Bool
  en : Bool
  rf : Nat
  rh : Nat
  done : Nat
  trig : Nat
  rerr : Bool
  qerr : Nat
  accepted : Nat
  pending : List Launch
  started : List Launch
  deriving DecidableEq, Repr

/-! ## The package -/

/-- The registers of the memory window (Table 8.11) and of the control die that translation reads.  `sdWait` is a request of
the window (base, length, mode, context) that waits for a place in the shootdown unit (R214, R218). -/
structure MemWindow where
  mctBase : Word
  xlRoot : Word
  cxRoot : Word
  fqBase : Word
  fqSize : Word
  fqProd : Word
  fqCons : Word
  sdBase : Word
  sdLen : Word
  sdCtx : Nat
  sdMode : Nat
  sdOvr : Bool
  sdErr : Bool
  sdWait : Option (Word × Nat × Nat × Nat)
  reserved : Nat × Nat
  deriving DecidableEq, Repr

/-- The debug window (Table 15.7).  `stepping` is a group under a Step command, with the instructions that it had issued
when the command came (R380); `resuming` is a saved group that a Resume brings back; `halting` lists the groups that a debug stop
reaches once the remote atomics they have begun are sent (R259). -/
structure DebugWindow where
  tvtBase : Word
  trBase : Word
  sel : Word
  refused : Bool
  wpBase : Cells Word
  wpCtl : Cells Word
  stepping : Option (Nat × Nat)
  resuming : Option Nat
  halting : List Nat := []
  deriving DecidableEq, Repr

/-- The platform window (Table 16.2) but for what other records hold.  `margin` is the plan of each core; `throttle` counts
the 25 MHz steps by which the power limit lowers every clock (R408); `assay` is what each core's monitors need in mV
at 1,200 MHz (R406); `slew` is what remains to correct TIMENS by, in eighths of a ns (R401); `aer` holds the errors that each port
has reported, bit 0 correctable and bit 1 not (R392; log 98); `lowering` says that the power limit is lowering clocks (R408). -/
structure Platform where
  pwrLim : Nat
  pwrNow : Nat
  timeOfs : Word
  live : Cells Word
  home : Cells (BitVec 32)
  irqTgt : Cells Word
  nonce : Cells Byte
  hmDest : Word
  hmErr : Bool
  hmBusy : Bool
  pcieCtl : Cells Word
  rasCnt : Cells Word
  rasLogN : Word
  rasLog : Cells (BitVec 128)
  margin : Cells Word
  throttle : Nat
  lowering : Bool
  assay : Cells Nat
  slew : Int
  aer : Cells (BitVec 2)
  deriving DecidableEq, Repr

/-- Boot and identity (R402 to R405): the verified configuration record, the rollback counter and the epoch of the
protected flash, the measurements, and whether the package has joined the rack, has stepped its clock, and has had a queue with
EN = 1 (R401). -/
structure Boot where
  verified : Bool
  rollback : Nat
  record : List Byte
  measures : List Byte
  epoch : Nat
  joined : Bool
  stepped : Bool
  queued : Bool
  deriving DecidableEq, Repr

/-- The answer to a remote atomic that was performed here: its source package, core and tag, the time until which it is kept, the
old values and the flags. -/
structure Performed where
  src : Nat
  core : Nat
  tag : Nat
  until_ : Nat
  olds : List (Nat × Word)
  fp : BitVec 4
  deriving DecidableEq, Repr

/-- What this package asks of the home of a control line: to write those bytes of a run that are there, an atomic, or an update of a
barrier object. -/
inductive HomeOp where
  | write (bytes : List (Option Byte))
  | atomic (code : Nat) (a c : Word)
  | object (u : ObjectUpdate)
  deriving DecidableEq, Repr

/-- Who waits for the answer of a home: a lane of an atomic in flight, a copy command, a control core, a port, a lane of a
store, a fragment at an object instruction, a count on an object, or the device itself. -/
inductive AskWho where
  | lane (op lane : Nat)
  | engine (cmd : Nat)
  | core (pa : Nat)
  | port (port : Nat)
  | store (record lane : Nat)
  | object (age entry : Nat)
  | count (x : ObjectCount)
  | device
  deriving DecidableEq, Repr

/-- A coherent request of this package that its home has not answered, under its tag (R24, R398). -/
structure HomeAsk where
  tag : Nat
  off : Nat
  op : HomeOp
  who : AskWho
  deriving DecidableEq, Repr

/-- The fabric as the package sees it (R393 to R398): failed flits in a row at each port, ports that are down, when each
peer was last heard and the next heartbeat is due, in ns, the packages suspected and lost, the home granules whose
requests a rebuild stalls, those that this package took over from a lost home, the results of performed requests
(package, tag, bytes) that the requester has not acknowledged, and the answers to the remote atomics performed here, by
package, core and tag (R262).  `copies` lists the control lines whose copy the mirror has not acknowledged, and `replies` the
answers (package, tag, bytes, line) that wait for it (R396); `asks` are this package's own requests, `askTag` numbers them, and
`acks` are the tags whose answers it has and has not yet acknowledged (R398). -/
structure Fabric where
  crcFails : Cells Nat
  down : List Nat
  heard : Cells Nat
  beatAt : Nat
  suspected : List Nat
  isolated : Bool
  lost : List Nat
  rebuilding : List Nat
  taken : List Nat
  answered : List (Nat × Nat × List Byte)
  performed : List Performed
  copies : List Nat
  replies : List (Nat × Nat × List Byte × Nat)
  asks : List HomeAsk
  askTag : Nat
  acks : List Nat
  deriving DecidableEq, Repr

/-- A message that the package sends to another agent: an interrupt, a fabric packet, a PCIe completion.  `chunk` is the place of the
bytes of a Ferry packet among the packets of 4 KiB that carry a command's data (R394). -/
inductive Message where
  | interrupt (page : Word) (ident : Nat)
  | heartbeat
  | loss (pkg : Nat)
  | shootdown (base : Word) (len : Nat) (mode : Nat)
  | shootdownDone (pkg : Nat)
  | remoteLine (peer : Nat) (req : RemoteRequest)
  | remoteReply (pkg core tag line : Nat) (olds : List (Nat × Word)) (fp : BitVec 4)
  | remoteRefusal (pkg core tag line detail : Nat)
  | bulkRead (pkg : Nat) (addr : Word) (n : Nat)
  | bulk (pkg : Nat) (stream : Bool) (runs : List (Word × List Byte))
  | ferry (pkg : Nat) (list : Word) (tag engine chunk : Nat) (bytes : List Byte)
  | ferryFailed (pkg : Nat) (list : Word) (tag engine detail : Nat)
  | homeReply (pkg tag line : Nat) (bytes : List Byte)
  | homeFailure (pkg tag line detail : Nat)
  | read (value : Word)
  | accessFault (pa : Nat)
  | pcieAccess (port off size : Nat) (write : Option Word)
  | pcieCompletion (port : Nat) (bytes : List Byte)
  | pcieUnsupported (port : Nat)
  | hallmark (ok : Bool)
  | managementFailure
  | bulkAck (pkg : Nat) (addr : Word)
  | bulkRefusal (pkg : Nat) (addr : Word) (detail : Nat)
  | ferryAck (pkg : Nat) (list : Word) (tag engine : Nat)
  | homeFetch (pkg line : Nat)
  | homeRequest (pkg tag off : Nat) (op : HomeOp) (acks : List Nat)
  | mirrorCopy (pkg line : Nat) (bytes : List Byte) (result : Option (Nat × Nat × List Byte))
  | mirrorAck (pkg line : Nat)
  | snoopAnswer (pkg line : Nat)
  | timeSync (time : Word)
  /-- A packet on a virtual channel (its number in Table 16.5) and a plane (R393, R394). -/
  | onPlane (channel plane : Nat) (m : Message)
  deriving DecidableEq, Repr

/-- What reaches the package from other agents and is no row of the opcode table: acknowledgements and refusals of packets, a
read that another package's engine makes here, a home's answers, the mirror's and the home's messages of R396 and R398, a good
flit, PCIe requests that are not supported, an interrupt message of a device, a driver's write to the tables of the reserved
region. -/
inductive Arrival where
  | bulkAck (pkg : Nat) (addr : Word)
  | bulkRefused (pkg : Nat) (addr : Word) (detail : Nat)
  | bulkRead (pkg : Nat) (addr : Word) (n : Nat)
  | ferryAck (pkg : Nat) (list : Word) (tag : Nat)
  | homeAnswer (tag : Nat) (bytes : List Byte)
  | homeFailed (tag detail : Nat)
  | mirrorCopy (src line : Nat) (bytes : List Byte) (result : Option (Nat × Nat × List Byte))
  | mirrorAck (line : Nat)
  | snoop (src line : Nat)
  | flitGood (port : Nat)
  | pcieUnsupported (port : Nat)
  | pcieMsi (port : Nat) (page : Word) (ident : Nat)
  | tableWrite (addr : Nat) (bytes : List Byte)
  deriving DecidableEq, Repr

/-- The instruction that executes: its group, split-table entry, length in bytes and word, and whether it issues by
slice packing. -/
structure Cur where
  age : Nat
  entry : Nat
  len : Nat
  word : Nat
  packed : Bool
  deriving DecidableEq, Repr

/-- The state of the package.  `inbox` holds requests of other agents that wait to be served, oldest first, each with a mark
of whether it is being served.  `time8` is the ns counter in eighths of a ns; `ticks` counts periods of the nominal
clock; `arrivals` is what reaches the package beside the events of the opcode table, the oldest first. -/
structure State where
  pkg : Nat
  rackN : Nat
  time8 : Nat
  ticks : Nat
  mem : Memory
  win : MemWindow
  dbg : DebugWindow
  plat : Platform
  boot : Boot
  fabric : Fabric
  cores : Cells Core
  groups : Cells Group
  wgs : Cells Workgroup
  queues : Cells Queue
  pend : List Pend
  landing : List Landing
  parks : List Park
  faultWait : List FaultRec
  tokens : Nat
  shootdowns : List Shootdown
  wherry : List Wherry
  ferry : List Ferry
  remote : List RemoteSub
  arrivers : List (Nat × Nat × Nat)
  counts : List ObjectCount
  nextAge : Nat
  nextOp : Nat
  wstamp : Nat
  issueClock : Nat
  agenda : List Event
  arrivals : List Arrival
  inbox : List (Bool × Event)
  issuing : List (Nat × Nat × Bool)
  turn : Nat
  outbox : List Message
  freeCtr : Nat
  cur : Option Cur
  deriving DecidableEq, Repr

/-- Why the machine stops. -/
inductive Fault where
  /-- Raised by the meaning of an instruction word called where no fragment is current.  `step` never does so.
  Safe. -/
  | noFragment
  deriving DecidableEq, Repr

/-- Why an instruction has no meaning. -/
inductive Refusal where
  /-- Raised by the arm of an instruction that has no meaning yet.  Safe. -/
  | notModelled (mnemonic : String)
  deriving DecidableEq, Repr

/-! ## Reset -/

/-- A core after reset. -/
def Core.reset : Core where
  l1 := []
  l1Landed := []
  perms := []
  relCount := 0
  relEntries := []
  slots := []
  tiles := []
  aops := []
  latch := []
  running := none
  grow := []
  idle := 0
  subs := []
  lost := 0
  half := false
  phase := false
  acc := 0
  counters := []
  tagCount := 0
  tagRest := []

/-- A launch queue after reset (Tables 14.6 to 14.8). -/
def Queue.reset : Queue where
  stage := []
  ctx := 0
  weight := 1
  placed := 0
  retry := 8
  prio := 0
  rbusy := false
  gle := false
  en := false
  rf := 0
  rh := 0
  done := 0
  trig := 0
  rerr := false
  qerr := 0
  accepted := 0
  pending := []
  started := []

/-- The machine right after package reset: every register at the Reset column of its map, no group, no launch, memory
with nothing listed.  Fields marked config, rack and those with no reset value are 0 (logs 1 and 3). -/
def State.reset : State where
  pkg := 0
  rackN := 0
  time8 := 0
  ticks := 0
  mem := { phys := [], llc := [], llcLanded := [], marks := [], xlate := [], owners := [], poison := [], writes := 0,
           past := [], unmirrored := [], fetches := 0, late := [] }
  win := { mctBase := 0, xlRoot := 0, cxRoot := 0, fqBase := 0, fqSize := 0, fqProd := 0, fqCons := 0, sdBase := 0,
           sdLen := 0, sdCtx := 0, sdMode := 0, sdOvr := false, sdErr := false, sdWait := none, reserved := (0, 0) }
  dbg := { tvtBase := 0, trBase := 0, sel := 0, refused := false, wpBase := [], wpCtl := [],
             stepping := none, resuming := none, halting := [] }
  plat := { pwrLim := 3400, pwrNow := 0, timeOfs := 0, live := [], home := [], irqTgt := [], nonce := [], hmDest := 0,
            hmErr := false, hmBusy := false, pcieCtl := [], rasCnt := [], rasLogN := 0, rasLog := [], margin := [],
            throttle := 0, lowering := false, assay := [], slew := 0, aer := [] }
  boot := { verified := false, rollback := 0, record := [], measures := [], epoch := 0, joined := false, stepped := false, queued := false }
  fabric := { crcFails := [], down := [], heard := [], beatAt := 0, suspected := [], isolated := false, lost := [],
              rebuilding := [], taken := [], answered := [], performed := [], copies := [], replies := [], asks := [], askTag := 0,
              acks := [] }
  cores := []
  groups := []
  wgs := []
  queues := []
  pend := []
  landing := []
  parks := []
  faultWait := []
  tokens := 0
  shootdowns := []
  wherry := []
  ferry := []
  remote := []
  arrivers := []
  counts := []
  nextAge := 0
  nextOp := 0
  wstamp := 0
  issueClock := 0
  agenda := []
  arrivals := []
  inbox := []
  issuing := []
  turn := 0
  outbox := []
  freeCtr := 0
  cur := none

end Sys2Proof.Machine
end

