-- ==== Sys2Proof/Machine/Maps.lean ====
section
/-! DEFINITION. Operations on sparse maps (`Cells`): pairs of a key and a value, the keys strictly rising.

A map with a default lists no pair whose value is the default, so that equal contents are equal data. -/

namespace Sys2Proof.Machine.Map

variable {α : Type}

/-- The value listed for a key. -/
def find? : Cells α → Nat → Option α
  | [], _ => none
  | (j, a) :: m, k => if j = k then some a else find? m k

/-- The value of a key, where an unlisted key has the default. -/
def get (d : α) (m : Cells α) (k : Nat) : α := (find? m k).getD d

/-- List a value for a key, replacing the one it had. -/
def insert : Cells α → Nat → α → Cells α
  | [], k, a => [(k, a)]
  | (j, b) :: m, k, a =>
    if j = k then (k, a) :: m else if k < j then (k, a) :: (j, b) :: m else (j, b) :: insert m k a

/-- List no value for a key. -/
def erase : Cells α → Nat → Cells α
  | [], _ => []
  | (j, b) :: m, k => if j = k then erase m k else (j, b) :: erase m k

/-- Give a key a value; the default is not listed. -/
def set [DecidableEq α] (d : α) (m : Cells α) (k : Nat) (a : α) : Cells α :=
  if a = d then erase m k else insert m k a

/-- Change the value listed for a key, if there is one. -/
def modify (m : Cells α) (k : Nat) (f : α → α) : Cells α :=
  match find? m k with
  | none => m
  | some a => insert m k (f a)

/-- Every key of the map is above `lo`, and the keys rise strictly. -/
def risingFrom : Option Nat → Cells α → Bool
  | _, [] => true
  | none, (j, _) :: m => risingFrom (some j) m
  | some lo, (j, _) :: m => decide (lo < j) && risingFrom (some j) m

/-- The canonical form: keys strictly rising, and no default listed. -/
def canonical [DecidableEq α] (d : α) (m : Cells α) : Bool :=
  risingFrom none m && m.all fun p => !decide (p.2 = d)

/-- The values of `n` keys from `k`. -/
def getRun (d : α) (m : Cells α) (k : Nat) : Nat → List α
  | 0 => []
  | n + 1 => get d m k :: getRun d m (k + 1) n

/-- Give the keys from `k` the values of a list. -/
def setRun [DecidableEq α] (d : α) (m : Cells α) (k : Nat) : List α → Cells α
  | [] => m
  | a :: l => setRun d (set d m k a) (k + 1) l

end Sys2Proof.Machine.Map
end

