-- ==== Sys2Proof/Machine/Num.lean ====
section
/-! DEFINITION. Number formats, rounding and the helper functions of Table 3.12 (R65 to R83).

A code is a natural number below 2^width.  A decoded value is exact: a sign, a magnitude and a power of two. -/

namespace Sys2Proof.Machine

/-! ## Formats -/

/-- The formats of Table 3.1, LG6 and the matrix format INT8. -/
inductive Fmt where
  | e4m3
  | e5m2
  | e2m1
  | lg6
  | bf16
  | fp16
  | fp32
  | fp64
  | int8
  deriving DecidableEq, Repr

/-- The exact value of a code: NaN (or NaR), an infinity, or (-1)^neg × mag × 2^exp. -/
inductive Val where
  | nan
  | inf (neg : Bool)
  | fin (neg : Bool) (mag : Nat) (exp : Int)
  deriving DecidableEq, Repr

/-- The rounding modes of Table 3.9. -/
inductive Mode where
  | rne
  | rtz
  | rdn
  | rup
  | sr
  deriving DecidableEq, Repr

/-- The mode of a code of Table 3.9. -/
def Mode.ofCode : Nat → Mode
  | 0 => .rne
  | 1 => .rtz
  | 2 => .rdn
  | 3 => .rup
  | _ => .sr

/-- FPSTAT bits (Table 6.2). -/
abbrev Flags := BitVec 4

/-- invalid (R68). -/
def flagNV : Flags := 1#4
/-- overflow (R68). -/
def flagOF : Flags := 2#4
/-- underflow (R68). -/
def flagUF : Flags := 4#4
/-- divide-by-zero (R68). -/
def flagDZ : Flags := 8#4

/-- Width of a code (Table 3.1, R70). -/
def Fmt.width : Fmt → Nat
  | .e4m3 | .e5m2 | .int8 => 8
  | .e2m1 => 4
  | .lg6 => 6
  | .bf16 | .fp16 => 16
  | .fp32 => 32
  | .fp64 => 64

/-- Width of the fraction field (Table 3.1). -/
def Fmt.frac : Fmt → Nat
  | .e4m3 => 3
  | .e5m2 => 2
  | .e2m1 => 1
  | .bf16 => 7
  | .fp16 => 10
  | .fp32 => 23
  | .fp64 => 52
  | .lg6 | .int8 => 0

/-- Width of the exponent field (Table 3.1). -/
def Fmt.expBits : Fmt → Nat
  | .e4m3 => 4
  | .e5m2 => 5
  | .e2m1 => 2
  | .bf16 => 8
  | .fp16 => 5
  | .fp32 => 8
  | .fp64 => 11
  | .lg6 | .int8 => 0

/-- Exponent bias (Table 3.1). -/
def Fmt.bias : Fmt → Nat
  | .e4m3 => 7
  | .e5m2 => 15
  | .e2m1 => 1
  | .bf16 => 127
  | .fp16 => 15
  | .fp32 => 127
  | .fp64 => 1023
  | .lg6 | .int8 => 0

/-- The format has infinities (Table 3.1). -/
def Fmt.hasInf : Fmt → Bool
  | .e5m2 | .bf16 | .fp16 | .fp32 | .fp64 => true
  | .e4m3 | .e2m1 | .lg6 | .int8 => false

/-- Exponent of the smallest normal (Table 3.1). -/
def Fmt.emin (f : Fmt) : Int := 1 - (f.bias : Int)

/-- The code of the largest finite magnitude (Table 3.1). -/
def Fmt.largestCode : Fmt → Nat
  | .e4m3 => 0x7E
  | .e5m2 => 0x7B
  | .e2m1 => 0x7
  | .lg6 => 0x1F
  | .bf16 => 0x7F7F
  | .fp16 => 0x7BFF
  | .fp32 => 0x7F7FFFFF
  | .fp64 => 0x7FEFFFFFFFFFFFFF
  | .int8 => 127

/-- The canonical NaN (Table 3.1, R66); NaR for LG6; E2M1 and INT8 give 0. -/
def Fmt.nanCode : Fmt → Nat
  | .e4m3 => 0x7F
  | .e5m2 => 0x7E
  | .e2m1 => 0
  | .lg6 => 0x20
  | .bf16 => 0x7FC0
  | .fp16 => 0x7E00
  | .fp32 => 0x7FC00000
  | .fp64 => 0x7FF8000000000000
  | .int8 => 0

/-- The sign bit of a code that has one. -/
def Fmt.signBit (f : Fmt) (neg : Bool) : Nat := if neg then 2 ^ (f.width - 1) else 0

/-- The code of an infinity in a format that has them. -/
def Fmt.infCode (f : Fmt) (neg : Bool) : Nat := f.signBit neg + (2 ^ f.expBits - 1) * 2 ^ f.frac

/-- T of Table 3.6. -/
def lg6Table : Nat → Nat
  | 0 => 4096
  | 1 => 4871
  | 2 => 5793
  | _ => 6889

/-- The realised value of an LG6 code (R71); NaR is NaN. -/
def lg6Value (c : Nat) : Val :=
  let neg := decide (c / 32 % 2 = 1)
  if c % 32 = 0 then (if neg then .nan else .fin false 0 0)
  else .fin neg (lg6Table (c % 4)) (((c / 4 % 8 : Nat) : Int) - 16)

/-- The value of an IEEE-like code (R65). -/
def floatValue (f : Fmt) (c : Nat) : Val :=
  let neg := decide (c / 2 ^ (f.width - 1) % 2 = 1)
  let e := c / 2 ^ f.frac % 2 ^ f.expBits
  let m := c % 2 ^ f.frac
  let top := 2 ^ f.expBits - 1
  if f.hasInf && decide (e = top) then (if m = 0 then .inf neg else .nan)
  else if decide (f = .e4m3) && decide (e = top) && decide (m = 7) then .nan
  else if e = 0 then .fin neg m (f.emin - f.frac)
  else .fin neg (2 ^ f.frac + m) ((e : Int) - f.bias - f.frac)

/-- value(fmt, c) of Table 3.12. -/
def value (f : Fmt) (c : Nat) : Val :=
  match f with
  | .lg6 => lg6Value c
  | .int8 => if c % 256 < 128 then .fin false (c % 256) 0 else .fin true (256 - c % 256) 0
  | _ => floatValue f c

/-- The value is NaN. -/
def Val.isNan : Val → Bool
  | .nan => true
  | _ => false

/-- The value is an infinity. -/
def Val.isInf : Val → Bool
  | .inf _ => true
  | _ => false

/-- The value is a zero. -/
def Val.isZero : Val → Bool
  | .fin _ m _ => decide (m = 0)
  | _ => false

/-- The sign of a value. -/
def Val.isNeg : Val → Bool
  | .nan => false
  | .inf n => n
  | .fin n _ _ => n

/-- The value with the other sign. -/
def Val.negate : Val → Val
  | .nan => .nan
  | .inf n => .inf !n
  | .fin n m e => .fin (!n) m e

/-! ## Rounding (R78) -/

/-- num / den × 2^e as one quotient. -/
def scaled (num den : Nat) (e : Int) : Nat × Nat :=
  if e < 0 then (num, den * 2 ^ (-e).toNat) else (num * 2 ^ e.toNat, den)

/-- floor(log2 (num / den × 2^e)) for a positive quotient. -/
def floorLog2 (num den : Nat) (e : Int) : Int :=
  let k : Int := (Nat.log2 num : Int) - Nat.log2 den
  let (a, b) := scaled num den (-k)
  if b ≤ a then k + e else k - 1 + e

/-- The quotient rounded away from zero? (R78), for a discarded part rem / den. -/
def roundsUp (mode : Mode) (neg : Bool) (n rem den rb : Nat) : Bool :=
  match mode with
  | .rne => decide (den < 2 * rem) || (decide (den = 2 * rem) && decide (n % 2 = 1))
  | .rtz => false
  | .rdn => decide (0 < rem) && neg
  | .rup => decide (0 < rem) && !neg
  | .sr => decide (65536 ≤ rem * 65536 / den + rb)

/-- The overflow result of Table 3.10. -/
def overflowCode (f : Fmt) (mode : Mode) (neg : Bool) : Nat :=
  let big := f.signBit neg + f.largestCode
  if !f.hasInf then big
  else match mode with
    | .rne => f.infCode neg
    | .rtz => big
    | .rdn => if neg then f.infCode neg else big
    | .rup => if neg then big else f.infCode neg
    | .sr => big

/-- round of R78 for the positive quotient num / den × 2^e with a sign: the code and its flags. -/
def roundQuot (f : Fmt) (mode : Mode) (rb : Nat) (neg : Bool) (num den : Nat) (e : Int) : Nat × Flags :=
  let ex := max (floorLog2 num den e) f.emin
  let (a, b) := scaled num den (e - (ex - f.frac))
  let n := a / b
  let rem := a % b
  let n' := if roundsUp mode neg n rem b rb then n + 1 else n
  let code := (ex - f.emin).toNat * 2 ^ f.frac + n'
  let tiny := decide (floorLog2 num den e < f.emin) && decide (0 < rem)
  let uf := if tiny then flagUF else 0#4
  if f.largestCode < code then (overflowCode f mode neg, uf ||| flagOF)
  else (f.signBit neg + code, uf)

/-! ## LG6 (R72, R73) -/

/-- Magnitude of a non-zero LG6 magnitude code in units of 2^-16. -/
def lg6Mag (c : Nat) : Nat := if c % 32 = 0 then 0 else lg6Table (c % 4) * 2 ^ (c / 4 % 8)

/-- The candidate nearest to num / den in units of 2^-16; a tie goes to even f (R73). -/
def lg6Nearest (num den : Nat) : Nat → Nat → Nat
  | 0, best => best
  | k + 1, best =>
    let c := 31 - k
    let dist := fun x => if num < lg6Mag x * den then lg6Mag x * den - num else num - lg6Mag x * den
    let better := decide (dist c < dist best) || (decide (dist c = dist best) && decide (c % 2 = 0))
    lg6Nearest num den k (if better then c else best)

/-- to_lg6 (R73). -/
def toLg6 : Val → Nat × Flags
  | .nan => (0x20, 0#4)
  | .inf neg => ((if neg then 0x20 else 0) + 0x1F, flagOF)
  | .fin neg m e =>
    if m = 0 then (0, 0#4)
    else
      let (a, b) := scaled m 1 (e + 16)
      if lg6Mag 31 * b < a then ((if neg then 0x20 else 0) + 0x1F, flagOF)
      else
        let c := lg6Nearest a b 31 0
        if c = 0 then (0, flagUF) else ((if neg then 0x20 else 0) + c, 0#4)

/-- lg6mul (R72). -/
def lg6mul (a b : Nat) : Val :=
  if a = 0x20 ∨ b = 0x20 then .nan
  else if a % 32 = 0 ∨ b % 32 = 0 then .fin false 0 0
  else
    let fs := a % 4 + b % 4
    let e : Int := (a / 4 % 8 : Nat) + (b / 4 % 8 : Nat) - 8 + (if 4 ≤ fs then 1 else 0)
    .fin (decide (a / 32 % 2 ≠ b / 32 % 2)) (lg6Table (fs % 4)) (e - 12)

/-! ## Rounding a value into a format (R78, R79, Table 3.11) -/

/-- round of Table 3.12: R78 with the special values of Tables 3.10 and 3.11. -/
def roundVal (f : Fmt) (mode : Mode) (rb : Nat) (v : Val) : Nat × Flags :=
  if f = .lg6 then toLg6 v
  else match v with
    | .nan => (f.nanCode, if f = .e2m1 then flagNV else 0#4)
    | .inf neg => if f.hasInf then (f.infCode neg, 0#4) else (f.signBit neg + f.largestCode, flagOF)
    | .fin neg m e => if m = 0 then (f.signBit neg, 0#4) else roundQuot f mode rb neg m 1 e

/-- cvt_int (R80): the integer of the type as a code of width n, and the flags. -/
def cvtInt (v : Val) (n : Nat) (signed : Bool) (mode : Mode) : Nat × Flags :=
  let lo : Int := if signed then -(2 : Int) ^ (n - 1) else 0
  let hi : Int := if signed then (2 : Int) ^ (n - 1) - 1 else (2 : Int) ^ n - 1
  let code := fun (z : Int) => (z % (2 : Int) ^ n).toNat
  match v with
  | .nan => (0, flagNV)
  | .inf neg => (code (if neg then lo else hi), flagNV)
  | .fin neg m e =>
    let (a, b) := scaled m 1 e
    let q := a / b
    let r := if roundsUp mode neg q (a % b) b 0 then q + 1 else q
    let z : Int := if neg then -(r : Int) else r
    if z < lo then (code lo, flagNV) else if hi < z then (code hi, flagNV) else (code z, 0#4)

/-! ## Exact arithmetic with the special cases of IEEE 754 (R66, R67) -/

/-- The exact value of an integer times 2^e; a zero takes the given sign. -/
def Val.ofInt (z : Int) (e : Int) (zeroNeg : Bool) : Val :=
  if z = 0 then .fin zeroNeg 0 0 else .fin (decide (z < 0)) z.natAbs e

/-- Signed magnitude of a finite value in units of 2^lo. -/
def signedAt (neg : Bool) (m : Nat) (e lo : Int) : Int :=
  let x : Int := (m * 2 ^ (e - lo).toNat : Nat)
  if neg then -x else x

/-- The exact sum of two values; ∞ - ∞ is an invalid NaN; a zero sum has the sign of R67. -/
def addVal (mode : Mode) (a b : Val) : Val × Flags :=
  match a, b with
  | .nan, _ => (.nan, 0#4)
  | _, .nan => (.nan, 0#4)
  | .inf x, .inf y => if x = y then (.inf x, 0#4) else (.nan, flagNV)
  | .inf x, _ => (.inf x, 0#4)
  | _, .inf y => (.inf y, 0#4)
  | .fin na ma ea, .fin nb mb eb =>
    let lo := min ea eb
    let z := signedAt na ma ea lo + signedAt nb mb eb lo
    let zeroNeg := if ma = 0 ∧ mb = 0 ∧ na = nb then na else decide (mode = .rdn)
    (Val.ofInt z lo zeroNeg, 0#4)

/-- The exact product of two values; 0 × ∞ is an invalid NaN. -/
def mulVal (a b : Val) : Val × Flags :=
  match a, b with
  | .nan, _ => (.nan, 0#4)
  | _, .nan => (.nan, 0#4)
  | .inf x, .inf y => (.inf (x != y), 0#4)
  | .inf x, .fin y m _ => if m = 0 then (.nan, flagNV) else (.inf (x != y), 0#4)
  | .fin x m _, .inf y => if m = 0 then (.nan, flagNV) else (.inf (x != y), 0#4)
  | .fin x m e, .fin y n k => (.fin (x != y) (m * n) (e + k), 0#4)

/-- Round an exact result with the flags it has already raised. -/
def finishRound (f : Fmt) (mode : Mode) (r : Val × Flags) : Nat × Flags :=
  let (c, fl) := roundVal f mode 0 r.1
  (c, fl ||| r.2)

/-- fadd of Table 3.12 in a format. -/
def fadd (f : Fmt) (mode : Mode) (a b : Nat) : Nat × Flags :=
  finishRound f mode (addVal mode (value f a) (value f b))

/-- fsub of Table 3.12 in a format. -/
def fsub (f : Fmt) (mode : Mode) (a b : Nat) : Nat × Flags :=
  finishRound f mode (addVal mode (value f a) (value f b).negate)

/-- fmul of Table 3.12 in a format. -/
def fmul (f : Fmt) (mode : Mode) (a b : Nat) : Nat × Flags :=
  finishRound f mode (mulVal (value f a) (value f b))

/-- fma of Table 3.12 in a format, the product negated or not (R144); 0 × ∞ is invalid even when c is NaN. -/
def fma (f : Fmt) (mode : Mode) (neg : Bool) (a b c : Nat) : Nat × Flags :=
  let (p, fl) := mulVal (value f a) (value f b)
  let (s, fl') := addVal mode (if neg then p.negate else p) (value f c)
  finishRound f mode (s, fl ||| fl')

/-- Order of two values that are not NaN: -0 equals +0. -/
def leVal (a b : Val) : Bool :=
  match a, b with
  | .inf x, .inf y => x || !y
  | .inf x, _ => x
  | _, .inf y => !y
  | .fin na ma ea, .fin nb mb eb =>
    let lo := min ea eb
    decide (signedAt na ma ea lo ≤ signedAt nb mb eb lo)
  | _, _ => false

/-- Comparison with -0 below +0, as fmin and fmax take it (Table 3.12). -/
def leTotal (a b : Val) : Bool :=
  if a.isZero && b.isZero then a.isNeg || !b.isNeg else leVal a b

/-- fmin and fmax of Table 3.12. -/
def fminmax (f : Fmt) (wantMax : Bool) (a b : Nat) : Nat :=
  let va := value f a
  let vb := value f b
  if va.isNan && vb.isNan then f.nanCode
  else if va.isNan then b
  else if vb.isNan then a
  else if leTotal va vb != wantMax then a else b

/-- The integer of a code of width n, signed or not. -/
def intOf (n : Nat) (signed : Bool) (c : Nat) : Int :=
  let x := c % 2 ^ n
  if signed && decide (2 ^ (n - 1) ≤ x) then (x : Int) - (2 : Int) ^ n else x

/-! ## Block scales (R75, R76) -/

/-- bs8val (R75). -/
def bs8val (s : Nat) : Val := if s = 255 then .nan else .fin false 1 ((s : Int) - 127)

/-- |x| ≤ |y| for finite values. -/
def absLe (x y : Val) : Bool :=
  match x, y with
  | .fin _ m e, .fin _ n k => let lo := min e k; decide (m * 2 ^ (e - lo).toNat ≤ n * 2 ^ (k - lo).toNat)
  | _, _ => false

/-- The largest magnitude of a block of finite values. -/
def blockMax : List Val → Val → Val
  | [], best => best
  | x :: l, best => blockMax l (if absLe best x then x else best)

/-- bs8_scale (R76): the scale of a block. -/
def bs8Scale (f : Fmt) (blk : List Val) : Nat × Flags :=
  if blk.any fun x => x.isNan || x.isInf then (255, flagNV)
  else match blockMax blk (.fin false 0 0), value f f.largestCode with
    | .fin _ m e, .fin _ lm le =>
      if m = 0 then (0, 0#4)
      else
        -- the smallest n with 2^n × largest ≥ amax is the ceiling of log2 (amax / largest)
        let fl := floorLog2 m lm (e - le)
        let (a, b) := scaled m lm (e - le - fl)
        let n : Int := if a = b then fl else fl + 1
        ((min (max (127 + n) 0) 254).toNat, 0#4)
    | _, _ => (0, 0#4)

/-- bs8_element (R76). -/
def bs8Element (f : Fmt) (mode : Mode) (s : Nat) (x : Val) : Nat × Flags :=
  if s = 255 then (0, 0#4)
  else
    let y := match x with
      | .fin n m e => Val.fin n m (e - ((s : Int) - 127))
      | v => v
    if f = .int8 then cvtInt y 8 true mode else roundVal f mode 0 y

/-! ## The matrix summation order (R81 to R83) -/

/-- What a group sum collects: the finite part in units of 2^exp, the infinities met, NaN, whether a product is there
and whether all are −0, and the flags. -/
structure GroupSum where
  sum : Int
  exp : Int
  posInf : Bool
  negInf : Bool
  nan : Bool
  allNegZero : Bool
  flags : Flags
  deriving DecidableEq, Repr

/-- Nothing summed yet. -/
def GroupSum.start : GroupSum := ⟨0, 0, false, false, false, true, 0#4⟩

/-- Add one product to a group sum (R82). -/
def GroupSum.add (g : GroupSum) (p : Val × Flags) : GroupSum :=
  match p.1 with
  | .nan => { g with nan := true, flags := g.flags ||| p.2 }
  | .inf neg =>
    { g with posInf := g.posInf || !neg, negInf := g.negInf || neg, allNegZero := false, flags := g.flags ||| p.2 }
  | .fin neg m e =>
    let lo := min e g.exp
    { g with sum := signedAt false g.sum.natAbs g.exp lo * (if g.sum < 0 then -1 else 1) + signedAt neg m e lo,
             exp := lo, allNegZero := g.allNegZero && neg && decide (m = 0), flags := g.flags ||| p.2 }

/-- The exact group sum (R82).  DESIGN CHOICE (log 108): a sum that holds a NaN product and both infinities is NaN, and the
infinities raise nothing beside it. -/
def GroupSum.value (g : GroupSum) : Val × Flags :=
  if g.nan then (.nan, g.flags)
  else if g.posInf && g.negInf then (.nan, g.flags ||| flagNV)
  else if g.posInf then (.inf false, g.flags)
  else if g.negInf then (.inf true, g.flags)
  else (Val.ofInt g.sum g.exp g.allNegZero, g.flags)

/-- One product of anvil_dot: value or lg6mul, times the scales (R81, R82). -/
def anvilProduct (fa fb : Fmt) (a b : Nat) (sa sb : Option Nat) : Val × Flags :=
  let (p, fl) := if fa = .lg6 ∧ fb = .lg6 then (lg6mul a b, 0#4) else mulVal (value fa a) (value fb b)
  let scale := fun (v : Val) (s : Option Nat) => match s with
    | none => v
    | some c => match bs8val c, v with
      | .nan, _ => Val.nan
      | .fin _ _ k, .fin n m e => .fin n m (e + k)
      | _, w => w
  (scale (scale p sa) sb, fl)

/-- One group of anvil_dot: the group sum rounded, then added to the accumulator (R81). -/
def anvilGroup (acc : Nat) (ps : List (Val × Flags)) : Nat × Flags :=
  let (s, fl) := (ps.foldl GroupSum.add GroupSum.start).value
  let (r, fl1) := roundVal .fp32 .rne 0 s
  let (acc', fl2) := fadd .fp32 .rne acc r
  (acc', fl ||| fl1 ||| fl2)

end Sys2Proof.Machine
end

