-- ==== Sys2Proof/Machine/Regs.lean ====
section
/-! DEFINITION. Reads and writes of the registers of a thread group (R50 to R52, R87, R120, R372).

A vector register has a key: its number, or 512 + n for tvn.  Lane l of the register with key k is cell 32 k + l. -/

namespace Sys2Proof.Machine

/-! ## Lanes -/

/-- The lanes of a mask, in ascending order. -/
def lanesOf (m : Lane) : List Nat := (List.range 32).filter fun l => m.getLsbD l

/-- The mask that holds one lane. -/
def laneBit (l : Nat) : Lane := BitVec.ofNat 32 (2 ^ l)

/-- The mask of a list of lanes. -/
def maskOf (ls : List Nat) : Lane := ls.foldl (fun m l => m ||| laneBit l) 0

/-- The lowest lane of a mask, 32 for none. -/
def lowestLane (m : Lane) : Nat := (lanesOf m).headD 32

/-- The slices that the lanes of a mask occupy, as a mask of 8 bits (R5). -/
def slicesOf (m : Lane) : BitVec 8 :=
  (List.range 8).foldl (fun b i => if (m >>> (4 * i)).setWidth 4 = 0#4 then b else b ||| BitVec.ofNat 8 (2 ^ i)) 0

/-! ## Scalar registers -/

/-- Scalar register n of a 6-bit field: s63 reads zero; in trap mode 48 to 55 name ts0 to ts7 (R50, R52). -/
def Group.s (g : Group) (n : BitVec 6) : Word :=
  if n = 63#6 then 0
  else if g.flow.trapMode && decide (48 ≤ n.toNat) && decide (n.toNat ≤ 55) then Map.get 0 g.regs.ts (n.toNat - 48)
  else Map.get 0 g.regs.s n.toNat

/-- Write scalar register n; a write to s63 is discarded (R50, R52). -/
def Group.setS (g : Group) (n : BitVec 6) (w : Word) : Group :=
  if n = 63#6 then g
  else if g.flow.trapMode && decide (48 ≤ n.toNat) && decide (n.toNat ≤ 55) then
    { g with regs := { g.regs with ts := Map.set 0 g.regs.ts (n.toNat - 48) w } }
  else { g with regs := { g.regs with s := Map.set 0 g.regs.s n.toNat w } }

/-- The key that a pending write of scalar register n keeps: the number, 64 + i for tsi, 63 for the discarded one. -/
def Group.sKey (g : Group) (n : BitVec 6) : Nat :=
  if g.flow.trapMode && decide (48 ≤ n.toNat) && decide (n.toNat ≤ 55) then 64 + (n.toNat - 48) else n.toNat

/-- Write the scalar register of a key. -/
def Group.setSKey (g : Group) (k : Nat) (w : Word) : Group :=
  if k = 63 then g
  else if 64 ≤ k then { g with regs := { g.regs with ts := Map.set 0 g.regs.ts (k - 64) w } }
  else { g with regs := { g.regs with s := Map.set 0 g.regs.s k w } }

/-! ## Mask registers, condition bits, rejoin masks -/

/-- Mask register n. -/
def Group.m (g : Group) (n : Nat) : Lane := Map.get 0 g.regs.m n

/-- Write all 32 bits of mask register n. -/
def Group.setM (g : Group) (n : Nat) (v : Lane) : Group :=
  { g with regs := { g.regs with m := Map.set 0 g.regs.m n v } }

/-- Write the bits of mask register n that `lanes` names; the others stay (R136). -/
def Group.setMBits (g : Group) (n : Nat) (lanes v : Lane) : Group :=
  g.setM n ((g.m n &&& ~~~lanes) ||| (v &&& lanes))

/-- Condition bit n. -/
def Group.c (g : Group) (n : BitVec 2) : Bool := g.regs.c.getLsbD n.toNat

/-- Write condition bit n. -/
def Group.setC (g : Group) (n : BitVec 2) (b : Bool) : Group :=
  let bit : BitVec 4 := BitVec.ofNat 4 (2 ^ n.toNat)
  { g with regs := { g.regs with c := if b then g.regs.c ||| bit else g.regs.c &&& ~~~bit } }

/-- E of rejoin mask j, of the trap bank in trap mode (R109, R370). -/
def Group.rejoinE (g : Group) (j : Nat) : Lane :=
  Map.get 0 (if g.flow.trapMode then g.flow.trapE else g.flow.rejoinE) j

/-- A of rejoin mask j. -/
def Group.rejoinA (g : Group) (j : Nat) : Lane :=
  Map.get 0 (if g.flow.trapMode then g.flow.trapA else g.flow.rejoinA) j

/-- Write E and A of rejoin mask j. -/
def Group.setRejoin (g : Group) (j : Nat) (e a : Lane) : Group :=
  if g.flow.trapMode then
    { g with flow := { g.flow with trapE := Map.set 0 g.flow.trapE j e, trapA := Map.set 0 g.flow.trapA j a } }
  else { g with flow := { g.flow with rejoinE := Map.set 0 g.flow.rejoinE j e,
                                      rejoinA := Map.set 0 g.flow.rejoinA j a } }

/-! ## Vector registers -/

/-- The key of the vector register that a field names: in trap mode 120 to 127 name tv0 to tv7 (R52). -/
def Group.vKey (g : Group) (n : Nat) : Nat :=
  if g.flow.trapMode && decide (120 ≤ n) && decide (n ≤ 127) then 512 + (n - 120) else n

/-- Lane l of the vector register with key k. -/
def Group.cell (g : Group) (k l : Nat) : Lane :=
  if 512 ≤ k then Map.get 0 g.regs.tv (32 * (k - 512) + l) else Map.get 0 g.regs.v (32 * k + l)

/-- Lane l of the vector register that a field names. -/
def Group.v (g : Group) (n l : Nat) : Lane := g.cell (g.vKey n) l

/-- Write one cell whole, which clears its poison (R372). -/
def Group.setCell (g : Group) (p : Nat × Lane) : Group :=
  let left := g.regs.poison.filter fun k => k != p.1
  if 32 * 512 ≤ p.1 then
    { g with regs := { g.regs with tv := Map.set 0 g.regs.tv (p.1 - 32 * 512) p.2, poison := left } }
  else { g with regs := { g.regs with v := Map.set 0 g.regs.v p.1 p.2, poison := left } }

/-- Write cells in order. -/
def Group.setCells (g : Group) (l : List (Nat × Lane)) : Group := l.foldl Group.setCell g

/-- The cells of a run of registers in the given lanes, from a value for each lane and register of the run. -/
def runCells (key : Nat) (lanes : List Nat) (n : Nat) (f : Nat → Nat → Lane) : List (Nat × Lane) :=
  lanes.flatMap fun l => (List.range n).map fun j => (32 * (key + j) + l, f l j)

/-- A run of registers lies within the allocation, and in trap mode wholly within or without tv0 to tv7 (R51, R52). -/
def Group.runOk (g : Group) (r : Nat × Nat) : Bool :=
  if g.flow.trapMode && decide (120 ≤ r.1) && decide (r.1 ≤ 127) then decide (r.1 + r.2 ≤ 128)
  else decide (r.1 + r.2 ≤ g.regs.alloc) && (!g.flow.trapMode || decide (r.1 + r.2 ≤ 120))

/-- The key of register j of a run of a field. -/
def Group.runKey (g : Group) (n j : Nat) : Nat := g.vKey n + j

/-! ## FPSTAT -/

/-- OR flags into FPSTAT (R68). -/
def Group.orFp (g : Group) (fl : Flags) : Group := { g with sys := { g.sys with fpstat := g.sys.fpstat ||| fl } }

/-- FPCTL.RM (R137). -/
def Group.mode (g : Group) : Mode := Mode.ofCode g.sys.fpctl.toNat

/-! ## Fragments -/

/-- The split-table entries that may issue: the trap bank in trap mode (R370). -/
def Group.bank (g : Group) : List Frag := if g.flow.trapMode then g.flow.trapFrags else g.flow.frags

/-- Replace the split-table entries of the bank in use. -/
def Group.setBank (g : Group) (fs : List Frag) : Group :=
  if g.flow.trapMode then { g with flow := { g.flow with trapFrags := fs } }
  else { g with flow := { g.flow with frags := fs } }

/-- The fragment of an entry of the bank in use. -/
def Group.frag? (g : Group) (entry : Nat) : Option Frag := g.bank.find? fun f => f.entry == entry

/-- Change the fragment of an entry. -/
def Group.onFrag (g : Group) (entry : Nat) (h : Frag → Frag) : Group :=
  g.setBank (g.bank.map fun f => if f.entry == entry then h f else f)

end Sys2Proof.Machine
end

