-- ==== Sys2Proof/Machine/Links.lean ====
section
/-! DEFINITION. The links to other packages: virtual channels, planes, and sending a message (R393, R394). -/

namespace Sys2Proof.Machine

/-- Ports of the package; port k attaches to plane k (R393). -/
def portCount : Nat := 144

/-- The planes in use (R393). -/
def State.planes (s : State) : List Nat := (List.range portCount).filter fun k => !s.fabric.down.contains k

/-- How a message travels (Table 16.5). -/
inductive Carry where
  /-- It stays in the package or on the board. -/
  | local_
  /-- One plane of a channel, chosen by a number. -/
  | one (channel key : Nat)
  /-- Every live plane: TIM. -/
  | every
  /-- The lowest live plane and the next one: MGT. -/
  | twice
  deriving DecidableEq, Repr

/-- The number by which the plane of a Ferry packet is chosen: its engine and chunk. -/
def ferryKey (engine chunk : Nat) : Nat := engine + 8 * chunk

/-- Channel of a message, with the number by which its plane is chosen: the 128-byte line, the 4 KiB packet, the Ferry engine and
chunk.  A packet of several runs goes by the address of the first (log 117). -/
def Message.carry : Message → Carry
  | .homeFetch _ line => .one 0 line
  | .homeRequest _ _ off _ _ => .one 0 (off / 128)
  | .mirrorCopy _ line _ _ => .one 0 line
  | .homeReply _ _ line _ | .homeFailure _ _ line _ | .mirrorAck _ line | .snoopAnswer _ line => .one 2 line
  | .bulk _ _ runs => .one 3 ((runs.headD (0, [])).1.toNat / 4096)
  | .bulkRead _ a _ | .bulkAck _ a | .bulkRefusal _ a _ => .one 3 (a.toNat / 4096)
  | .remoteLine _ r => .one 4 ((r.lanes.map fun l => l.2.1.toNat / 128).headD 0)
  | .remoteReply _ _ _ line _ _ | .remoteRefusal _ _ _ line _ => .one 4 line
  | .ferry _ _ _ engine chunk _ => .one 5 (ferryKey engine chunk)
  | .ferryFailed _ _ _ engine _ | .ferryAck _ _ _ engine => .one 5 (ferryKey engine 0)
  | .timeSync _ => .every
  | .heartbeat | .loss _ | .shootdown _ _ _ | .shootdownDone _ => .twice
  | .interrupt _ _ | .read _ | .accessFault _ | .pcieAccess _ _ _ _ | .pcieCompletion _ _ | .pcieUnsupported _
  | .hallmark _ | .managementFailure | .onPlane _ _ _ => .local_

/-- The packets in which a message leaves the package, given the live planes: none where no plane is live. -/
def Message.packets (planes : List Nat) (m : Message) : List Message :=
  match m.carry with
  | .local_ => [m]
  | .one channel key => (planes[Config.planeOf channel key % planes.length]?).toList.map fun k => .onPlane channel k m
  | .every => planes.map fun k => .onPlane 6 k m
  | .twice => (planes.take 2).map fun k => .onPlane 7 k m

/-- Send a message to another agent. -/
def State.send (s : State) (m : Message) : State := { s with outbox := s.outbox ++ m.packets s.planes }

end Sys2Proof.Machine
end

