-- ==== Sys2Proof/Machine/Spaces.lean ====
section
/-! DEFINITION. Addresses: the spaces, virtual keys, lines, pages, slices, frames, and little-endian bytes (R6, R16, R22, R198).

A virtual key names a byte of tensor, control or private space: the address, with the context above bit 64 for private
space.  A physical key names a byte behind the caches: an HBM physical address, 2^40 + an LPDDR physical address, or
2^41 + the offset of a control-space byte that another package homes. -/

namespace Sys2Proof.Machine

/-! ## Address spaces -/

/-- The spaces of Table 1.4. -/
inductive Space where
  | tensor
  | control
  | priv
  | shared
  | window
  deriving DecidableEq, Repr

/-- The space of an address, if its layout is that of Table 1.4 (R16). -/
def space? (a : Word) : Option Space :=
  let n := a.toNat
  match n / 2 ^ 61 with
  | 0 => if n / 2 ^ 57 % 16 = 0 then some .tensor else none
  | 2 => if n / 2 ^ 48 % 2 ^ 13 = 0 then some .control else none
  | 4 => if n / 2 ^ 48 % 2 ^ 13 = 0 then some .priv else none
  | 6 => if n / 2 ^ 20 % 2 ^ 41 = 0 then some .shared else none
  | 7 => some .window
  | _ => none

/-- Bits [47:0] of an address. -/
def offset48 (a : Word) : Nat := a.toNat % 2 ^ 48

/-- Bits [56:48] of an address: the package number of a tensor address. -/
def pkgOf (a : Word) : Nat := a.toNat / 2 ^ 48 % 512

/-- The address of a tensor offset of this package. -/
def State.tensorAddr (s : State) (off : Nat) : Word := BitVec.ofNat 64 (s.pkg * 2 ^ 48 + off % 2 ^ 48)

/-- The address of a control offset. -/
def controlAddr (off : Nat) : Word := BitVec.ofNat 64 (2 ^ 62 + off % 2 ^ 48)

/-- The virtual key of an address in tensor, control or private space, for a context. -/
def vkey (ctx : Nat) (a : Word) : Nat :=
  if a.toNat / 2 ^ 61 = 4 then a.toNat + (ctx + 1) * 2 ^ 64 else a.toNat

/-- The space of a virtual key. -/
def keySpace (vk : Nat) : Space :=
  if 2 ^ 64 ≤ vk then .priv else if vk / 2 ^ 61 = 2 then .control else .tensor

/-- The 128-byte line of a key. -/
def lineOf (vk : Nat) : Nat := vk / 128

/-- The 64 KiB page of a key. -/
def pageOf (vk : Nat) : Nat := vk / 65536

/-- The LLC slice of an offset: the exclusive OR of its nine 4-bit fields from [15:12] to [47:44] (R22). -/
def sliceOf (off : Nat) : Nat := (List.range 9).foldl (fun x i => x ^^^ off / 2 ^ (12 + 4 * i) % 16) 0

/-- The translation unit of a key: that of its slice, or, for control space, the control die's, number 16 (R22, R194; that
private space is interleaved as tensor space is: log 79). -/
def unitOf (vk : Nat) : Nat := if keySpace vk = .control then 16 else sliceOf (vk % 2 ^ 48)

/-- The physical key of a byte in a 64 KiB frame.  An HBM frame holds sixteen 4 KiB pieces, one in each stack, and each
piece lies in the stack under the slice that caches it; piece and offset are numbered stack by stack (R22, R198; log 79).
An LPDDR frame is one run. -/
def frameKey (frame vk : Nat) : Nat :=
  if keySpace vk = .control then frame * 65536 + vk % 65536
  else frame * 65536 + sliceOf (vk % 2 ^ 48) * 4096 + vk % 4096

/-- The keys of n bytes from a key. -/
def keyRun (vk n : Nat) : List Nat := (List.range n).map fun i => vk + i

/-! ## Little-endian bytes -/

/-- The value of bytes, lowest first (R6). -/
def bytesVal : List Byte → Nat
  | [] => 0
  | b :: l => b.toNat + 256 * bytesVal l

/-- n bytes of a value, lowest first. -/
def valBytes : Nat → Nat → List Byte
  | 0, _ => []
  | n + 1, v => BitVec.ofNat 8 v :: valBytes n (v / 256)

end Sys2Proof.Machine
end

