-- ==== Sys2Proof/Machine/Shapes.lean ====
section
/-! DEFINITION. Tile shape records, and the destination bytes and lines of a Wherry command (R248, R268, R269, R276). -/

namespace Sys2Proof.Machine

/-- Width in bits of an element format, none for a reserved code (Table 11.2). -/
def fmtWidth : Nat → Option Nat
  | 0 | 1 | 6 | 8 => some 8
  | 2 => some 4
  | 3 => some 6
  | 4 | 5 | 9 => some 16
  | 7 | 10 => some 32
  | 11 => some 64
  | _ => none

/-- Record k as 128 bits. -/
def Group.kRec (g : Group) (k : Nat) : BitVec 128 := Map.get 0 g.regs.k k

/-- A shape record with its base address, as a command reads it at issue (Table 11.1). -/
def Group.shape (g : Group) (k : Nat) : Shape :=
  let r := (g.kRec k).toNat
  { base := g.s (BitVec.ofNat 6 (r / 2 ^ 53 % 64)), rowlen := r % 2 ^ 16, rows := r / 2 ^ 16 % 2 ^ 16,
    planes := r / 2 ^ 32 % 2 ^ 16, fmt := r / 2 ^ 48 % 16, t := decide (r / 2 ^ 52 % 2 = 1),
    pitch := r / 2 ^ 64 % 2 ^ 32, ppitch := r / 2 ^ 96 % 2 ^ 32 }

/-- Width of the elements; 0 for a reserved format. -/
def Shape.width (k : Shape) : Nat := (fmtWidth k.fmt).getD 0

/-- The row bytes (R269). -/
def Shape.rowBytes (k : Shape) : Nat := k.rowlen * k.width / 8

/-- The extent. -/
def Shape.extent (k : Shape) : Nat := (k.planes - 1) * k.ppitch + (k.rows - 1) * k.pitch + k.rowBytes

/-- The total bytes. -/
def Shape.total (k : Shape) : Nat := k.planes * k.rows * k.rowBytes

/-- The element count. -/
def Shape.count (k : Shape) : Nat := k.planes * k.rows * k.rowlen

/-- The record makes its command ILLEGAL (R269). -/
def Shape.bad (k : Shape) (dst : Bool) : Bool :=
  k.rowlen == 0 || k.rows == 0 || k.planes == 0 || (fmtWidth k.fmt).isNone || decide (k.rowlen * k.width % 8 ≠ 0)
    || decide (2 ^ 40 ≤ k.total)
    || (dst && ((decide (1 < k.rows) && decide (k.pitch < k.rowBytes))
      || (decide (1 < k.planes) && decide (k.ppitch < (k.rows - 1) * k.pitch + k.rowBytes))))

/-- Offset from the base address of byte j of the sequence: rows are whole bytes. -/
def Shape.byteOff (k : Shape) (j : Nat) : Nat :=
  let q := j / k.rowBytes
  q / k.rows * k.ppitch + q % k.rows * k.pitch + j % k.rowBytes

/-- Address of byte j of the sequence. -/
def Shape.byteAddr (k : Shape) (j : Nat) : Word := k.base + BitVec.ofNat 64 (k.byteOff j)

/-- The runs of bytes from the first of `from_` bytes of the sequence on, row by row: address and length. -/
def Shape.runs (k : Shape) (from_ : Nat) : List (Word × Nat) :=
  (List.range (k.planes * k.rows)).filterMap fun q =>
    let skip := from_ - q * k.rowBytes
    if k.rowBytes ≤ skip then none
    else some (k.byteAddr (q * k.rowBytes) + BitVec.ofNat 64 skip, k.rowBytes - skip)

/-- Greatest length of the stream that WCOMP writes for so many source bytes (R281). -/
def streamMax (total : Nat) : Nat :=
  let b := total / 4096
  64 + (4 * b + 63) / 64 * 64 + 4104 * b

/-- Runs without their first n bytes. -/
def runsAfter : Nat → List (Word × Nat) → List (Word × Nat)
  | _, [] => []
  | n, (a, k) :: l => if k ≤ n then runsAfter (n - k) l else (a + BitVec.ofNat 64 n, k - n) :: l

/-- The runs of destination bytes that a command has still to write (R276, R323). -/
def Wherry.left_ (w : Wherry) : List (Word × Nat) :=
  match w.body with
  | .copy d _ | .fill d _ => d.runs w.done
  | .gather d _ _ | .scatter d _ _ | .decomp d _ | .moves d _ _ => d.runs 0
  | .writes l | .blocks l => runsAfter w.done (l.map fun p => (p.1, p.2.length))
  | .comp a src => [(a, streamMax src.total)]
  | .loado _ _ _ _ => []
  | .stash _ _ bs8 _ p t => (p.toList ++ t.toList).flatMap fun k => k.1.runs 0 ++ (if bs8 then [(k.2, 384)] else [])

/-- Where a packet's bytes begin, and how many they are. -/
def EnginePacket.addr (p : EnginePacket) : Word := (p.runs.headD (0, [])).1

/-- Bytes of a packet. -/
def EnginePacket.size (p : EnginePacket) : Nat := (p.runs.map fun r => r.2.length).sum

/-- A Wherry command is in flight (Table 11.6). -/
def Wherry.active (w : Wherry) : Bool :=
  match w.state with
  | .queued | .running | .paused => true
  | .complete | .failed | .cancelled => false

/-- An incomplete command owns a line of local tensor or private space (R248, R276). -/
def Wherry.owns (w : Wherry) (line : Nat) : Bool :=
  w.active && w.left_.any fun r =>
    let vk := vkey w.ctx r.1
    decide (line ≤ lineOf (vk + r.2 - 1)) && decide (lineOf vk ≤ line)

/-- The runs of its destination that a matched Ferry command has still to write, one for each shard. -/
def Ferry.toCome (c : Ferry) : List (Nat × Nat) :=
  let n := (c.out.headD []).length
  if !c.matched || n = 0 then []
  else ((List.range c.out.length).filter fun q => !c.arrived.contains q).map fun q => (c.dst.toNat + q * n, n)

/-- A matched Ferry command owns a line of its destination until the shards that lie in it are written (R289). -/
def Ferry.owns (c : Ferry) (line : Nat) : Bool :=
  c.toCome.any fun r => decide (lineOf r.1 ≤ line) && decide (line ≤ lineOf (r.1 + r.2 - 1))

/-- A command issued before operation `before` owns the line. -/
def State.wherryOwns (s : State) (before line : Nat) : Bool :=
  (s.wherry.any fun w => decide (w.id < before) && w.owns line)
    || s.ferry.any fun c => decide (c.id < before) && c.owns line

end Sys2Proof.Machine
end

