-- ==== Sys2Proof/Machine/Memory.lean ====
section
/-! DEFINITION. Translation, caches and the bytes behind them (R16 to R23, R191 to R199, R222, R223, R395, R426, R427). -/

namespace Sys2Proof.Machine

/-! ## Physical bytes -/

/-- The byte of a physical key; an unlisted byte reads 0 (log 1). -/
def State.phys (s : State) (k : Nat) : Byte := Map.get 0 s.mem.phys k

/-- The canonical form of physical memory: addresses strictly rising, no listed byte equal to an unlisted one. -/
def Memory.wf (m : Memory) : Bool := Map.canonical 0 m.phys

/-- The 8 bytes at a physical key as a value. -/
def State.phys64 (s : State) (k : Nat) : Nat := bytesVal (Map.getRun 0 s.mem.phys k 8)

/-! ## Poisoned granules (R410) -/

/-- Key of a poisoned 32-byte granule of HBM or control memory. -/
def poisonPhys (k : Nat) : Nat := k / 32

/-- Key of a poisoned 32-byte granule of an LLC slice or of the control cache. -/
def poisonLlc (vk : Nat) : Nat := 2 ^ 100 + vk / 32

/-- Key of a poisoned word of a core's L1, of shared memory, of a slot or of a tile. -/
def poisonL1 (core vk : Nat) : Nat := 2 ^ 110 + core * 2 ^ 80 + vk / 4

/-- Key of a poisoned word of shared memory. -/
def poisonShared (wg off : Nat) : Nat := 2 ^ 120 + wg * 2 ^ 20 + off / 4

/-- Key of a poisoned word of a slot: `index` is 16,384 × slot + offset. -/
def poisonSlot (core index : Nat) : Nat := 2 ^ 130 + core * 2 ^ 24 + index / 4

/-- Key of a poisoned word of a tile: `index` is 49,152 × tile + offset. -/
def poisonTile (core index : Nat) : Nat := 2 ^ 140 + core * 2 ^ 24 + index / 4

/-! ## Translation (R197 to R199, R395, R426) -/

/-- A walk's end: the run of pages of its leaf, or the detail of Table 8.10. -/
abbrev Walk := Except Nat PageRun

/-- Index of a level of the translation tables (R197). -/
def walkIndex (level off : Nat) : Nat :=
  match level with
  | 1 => off / 2 ^ 39 % 512
  | 2 => off / 2 ^ 30 % 512
  | 3 => off / 2 ^ 21 % 512
  | _ => off / 2 ^ 16 % 32

/-- 64 KiB pages of a leaf at a level. -/
def leafPages (level : Nat) : Nat :=
  match level with
  | 2 => 2 ^ 14
  | 3 => 32
  | _ => 1

/-- Bytes of LPDDR: 256 GiB (R15). -/
def lpddrBytes : Nat := 2 ^ 38

/-- One level of the walk after another: `base` is the physical key of 0 in the tables' memory, `page` the virtual page
of offset 0 of the space.  DESIGN CHOICE (log 113): a table or frame that would lie beyond the LPDDR gives detail 2. -/
def walkLevels (s : State) (base page off : Nat) : Nat → Nat → Nat → Walk
  | 0, _, _ => .error 2
  | fuel + 1, level, table =>
    let e := s.phys64 (base + table + 8 * walkIndex level off)
    let addr := e / 2 ^ 12 % 2 ^ 28 * 2 ^ 12
    if base ≠ 0 ∧ lpddrBytes ≤ table then .error 2
    else match e % 4 with
    | 0 => .error 1
    | 1 => if level = 4 then .error 2 else walkLevels s base page off fuel (level + 1) addr
    | 2 =>
      let n := leafPages level
      if level = 1 ∨ addr % (n * 65536) ≠ 0 ∨ (base ≠ 0 ∧ lpddrBytes < addr + n * 65536) then .error 2
      else if base = 0 ∧ addr < s.win.reserved.1 + s.win.reserved.2 ∧ s.win.reserved.1 < addr + n * 65536 then .error 3
      else .ok { vpage := page + off / 65536 / n * n, count := n, frame := (base + addr) / 65536 }
    | _ => .error 2

/-- HOMEMAP entry of a control offset (R395). -/
def State.homeEntry (s : State) (off : Nat) : Nat := (Map.get 0 s.plat.home (off / 2 ^ 30)).toNat

/-- A control offset has a home: o[47:46] is zero and its granule is valid (R395). -/
def State.homeValid (s : State) (off : Nat) : Bool :=
  decide (off / 2 ^ 46 = 0) && decide (s.homeEntry off / 2 ^ 31 = 1)

/-- This package is the home of a control offset. -/
def State.homedHere (s : State) (off : Nat) : Bool := s.homeValid off && decide (s.homeEntry off % 512 = s.pkg)

/-- The home of a control offset. -/
def State.homePkg (s : State) (off : Nat) : Nat := s.homeEntry off % 512

/-- A virtual key in control space that another package homes. -/
def State.farKey (s : State) (vk : Nat) : Bool :=
  decide (keySpace vk = .control) && s.homeValid (vk % 2 ^ 48) && !s.homedHere (vk % 2 ^ 48)

/-- The mirror of a control offset (R395). -/
def State.mirrorPkg (s : State) (off : Nat) : Nat := s.homeEntry off / 2 ^ 9 % 512

/-- Another package keeps the copy of an offset: with one package in the rack it is its own mirror (R404). -/
def State.mirrored (s : State) (off : Nat) : Bool := s.mirrorPkg off != s.pkg

/-- A write or atomic of a control byte goes to its home as a request: another package homes it, or this one does and the mirror,
which must hold it first, is another (R24, R223, R396; log 6). -/
def State.asksHome (s : State) (vk : Nat) : Bool :=
  decide (keySpace vk = .control) && s.homeValid (vk % 2 ^ 48) && (!s.homedHere (vk % 2 ^ 48) || s.mirrored (vk % 2 ^ 48))

/-- Walk the control tables for a control offset.  A line homed elsewhere has a key of its own.  The bytes of a granule taken
over from a lost home lie in the frames that held the mirror's copy, under the same key, once CXROOT's tables admit them
(R395, R398; log 6). -/
def State.walkControl (s : State) (off : Nat) : Walk :=
  let page := 2 ^ 62 / 65536
  let own : PageRun := { vpage := page + off / 65536, count := 1, frame := (2 ^ 41 + off) / 65536 }
  if !s.homeValid off then .error 1
  else if s.homedHere off then
    match walkLevels s (2 ^ 40) page off 4 1 (s.win.cxRoot.toNat % 2 ^ 40) with
    | .ok r => .ok (if s.fabric.taken.contains (off / 2 ^ 30) then own else r)
    | .error d => .error d
  else .ok own

/-- The frame that an installed translation gives a virtual page. -/
def findPage : List PageRun → Nat → Option Nat
  | [], _ => none
  | r :: l, vp => if r.vpage ≤ vp ∧ vp < r.vpage + r.count then some (r.frame + (vp - r.vpage)) else findPage l vp

/-- The translations that a unit has installed. -/
def Memory.unit (m : Memory) (u : Nat) : List PageRun := m.xlate.filterMap fun p => if p.1 = u then some p.2 else none

/-- Every frame of a run is without owner or owned by the page that the run gives it (R199). -/
def ownersAgree (owners : List PageRun) (r : PageRun) : Bool :=
  owners.all fun o =>
    !(decide (o.frame < r.frame + r.count) && decide (r.frame < o.frame + o.count))
      || decide (o.vpage + r.frame = r.vpage + o.frame)

/-- A control byte as the package reads its own tables and queues: the control cache, else its memory; nothing where
the translation fails, its frame has another owner, or the byte is poisoned. -/
def State.controlByte (s : State) (off : Nat) : Option Byte :=
  let vk := 2 ^ 62 + off % 2 ^ 48
  match Map.find? s.mem.llc vk with
  | some b => if s.mem.poison.contains (poisonLlc vk) then none else some b.val
  | none =>
    let frame := match findPage (s.mem.unit (unitOf vk)) (pageOf vk) with
      | some f => some f
      | none => match s.walkControl (off % 2 ^ 48) with
        | .ok r => if ownersAgree s.mem.owners r then some (r.frame + (pageOf vk - r.vpage)) else none
        | .error _ => none
    match frame with
    | none => none
    | some f =>
      let k := frameKey f vk
      if s.mem.poison.contains (poisonPhys k) then none
      else some (if s.farKey vk then Config.homeByte s.mem.fetches vk else s.phys k)

/-- n control bytes from an offset as a value. -/
def State.controlRead (s : State) (off : Nat) : Nat → Option Nat
  | 0 => some 0
  | n + 1 => match s.controlByte off, s.controlRead (off + 1) n with
    | some b, some v => some (b.toNat + 256 * v)
    | _, _ => none

/-- The memory context table entry of a context: RTROOT, PXROOT or PHWM at byte 0, 8 or 16 (Table 8.5). -/
def State.contextWord (s : State) (ctx at_ : Nat) : Option Nat :=
  s.controlRead (s.win.mctBase.toNat + 32 * ctx + at_) 8

/-- Walk the tables for a virtual key (R197).  DESIGN CHOICE (log 114): where the context's PXROOT cannot be read, the walk of
private space fails with detail 1. -/
def State.walk (s : State) (vk : Nat) : Walk :=
  let off := vk % 2 ^ 48
  match keySpace vk with
  | .control => s.walkControl off
  | .priv =>
    match s.contextWord (vk / 2 ^ 64 - 1) 8 with
    | none => .error 1
    | some root => walkLevels s 0 (pageOf (vk / 2 ^ 48 * 2 ^ 48)) off 4 1 (root / 4096 % 2 ^ 28 * 4096)
  | _ => walkLevels s 0 (pageOf (vk / 2 ^ 48 * 2 ^ 48)) off 4 1 (s.win.xlRoot.toNat % 2 ^ 40)

/-- Install a translation in a unit and record its owners (R199, R426). -/
def Memory.install (m : Memory) (u : Nat) (r : PageRun) : Memory :=
  { m with xlate := (u, r) :: m.xlate, owners := if m.owners.contains r then m.owners else r :: m.owners }

/-- Translate a virtual key, walking and installing where no translation is installed: the physical key and the state,
or a detail of Table 8.10, 5 for SYNONYM (R199, R207). -/
def State.translate (s : State) (vk : Nat) : Except Nat (Nat × State) :=
  if keySpace vk = .control ∧ s.homeValid (vk % 2 ^ 48) = false then .error 1
  else match findPage (s.mem.unit (unitOf vk)) (pageOf vk) with
  | some f => .ok (frameKey f vk, s)
  | none => match s.walk vk with
    | .error d => .error d
    | .ok r =>
      if ownersAgree s.mem.owners r then
        .ok (frameKey (r.frame + (pageOf vk - r.vpage)) vk, { s with mem := s.mem.install (unitOf vk) r })
      else .error 5

/-! ## LLC slices and the control cache -/

/-- Fill the absent bytes of a line, at physical key `pk` of its first byte: from memory, or, for a line homed elsewhere
(`far`), with what its home supplies.  Poison travels with a granule of which a byte is filled (R410). -/
def Memory.fill (m : Memory) (line pk : Nat) (far : Bool) : Memory :=
  let cells := (List.range 128).foldl (fun (c : Cells LlcByte) i =>
    match Map.find? c (line * 128 + i) with
    | some _ => c
    | none =>
      let b := if far then Config.homeByte m.fetches (line * 128 + i) else Map.get 0 m.phys (pk + i)
      Map.insert c (line * 128 + i) { val := b, dirty := false }) m.llc
  let bad := (List.range 4).filterMap fun g =>
    let vk := line * 128 + 32 * g
    let filled := (List.range 32).any fun i => (Map.find? m.llc (vk + i)).isNone
    if m.poison.contains (poisonPhys (pk + 32 * g)) && filled then some (poisonLlc vk) else none
  { m with llc := cells, llcLanded := if m.llcLanded.contains line then m.llcLanded else line :: m.llcLanded,
           poison := bad.filter (fun p => !m.poison.contains p) ++ m.poison,
           fetches := if far then m.fetches + 1 else m.fetches }

/-- Fill a line that translates; one homed elsewhere is asked of its home (R23, R394). -/
def State.fillLine (s : State) (line pk : Nat) : State :=
  let far := s.farKey (line * 128)
  let s1 : State := { s with mem := s.mem.fill line pk far }
  if far then s1.send (.homeFetch (s.homePkg (line * 128 % 2 ^ 48)) line) else s1

/-- Have bytes of the LLC slice or the control cache present, filling the line on a miss (R194). -/
def State.llcPresent (s : State) (vk : Nat) : Except Nat State :=
  match Map.find? s.mem.llc vk with
  | some _ => .ok s
  | none => match s.translate (lineOf vk * 128) with
    | .error d => .error d
    | .ok (pk, s') => .ok (s'.fillLine (lineOf vk) pk)

/-- Have every byte of a line present at the LLC slice or the control cache. -/
def State.llcWhole (s : State) (line : Nat) : Except Nat State :=
  if (List.range 128).all fun i => (Map.find? s.mem.llc (line * 128 + i)).isSome then .ok s
  else match s.translate (line * 128) with
    | .error d => .error d
    | .ok (pk, s') => .ok (s'.fillLine line pk)

/-- Read a byte at the LLC slice or the control cache: detail 12 where its granule is poisoned (R410). -/
def State.llcRead (s : State) (vk : Nat) : Except Nat (Byte × State) :=
  match s.llcPresent vk with
  | .error d => .error d
  | .ok s' =>
    if s'.mem.poison.contains (poisonLlc vk) then .error 12
    else .ok (((Map.find? s'.mem.llc vk).map (·.val)).getD 0, s')

/-- Read bytes at the LLC slice or the control cache. -/
def State.llcReads (s : State) (vk : Nat) : Nat → Except Nat (List Byte × State)
  | 0 => .ok ([], s)
  | n + 1 => match s.llcRead vk with
    | .error d => .error d
    | .ok (b, s') => match s'.llcReads (vk + 1) n with
      | .error d => .error d
      | .ok (l, s'') => .ok (b :: l, s'')

/-- Fire a group's watch of a line. -/
def Group.fireWatch (g : Group) (core : Option Nat) (line : Nat) : Group :=
  { g with work := { g.work with watch := g.work.watch.map fun w =>
      if w.line = line ∧ (core = none ∨ core = some g.id.core) then { w with fired := true } else w } }

/-- Fire the watches of a line: of the groups of one core, or of all (R246). -/
def State.fireWatch (s : State) (core : Option Nat) (line : Nat) : State :=
  { s with groups := s.groups.map fun p => (p.1, p.2.fireWatch core line) }

/-- Clear the poison of the granules that a write covers whole (R410). -/
def clearPoison (poison : List Nat) (keys : List Nat) : List Nat :=
  poison.filter fun p =>
    !(keys.any (fun k => poisonLlc k == p) && decide (32 ≤ (keys.filter fun k => poisonLlc k == p).eraseDups.length))

/-- What a byte at the LLC holds before a write, if its page translates. -/
def State.oldByte (s : State) (vk : Nat) : Option Byte :=
  match Map.find? s.mem.llc vk with
  | some b => some b.val
  | none => match s.translate (lineOf vk * 128) with
    | .ok (pk, _) => if s.farKey vk then none else some (Map.get 0 s.mem.phys (pk + vk % 128))
    | .error _ => none

/-- The counts of LLC writes at which the accepted launches were issued. -/
def State.launchMarks (s : State) : List Nat :=
  s.queues.flatMap fun q => (q.2.pending ++ q.2.started).map (·.since)

/-- What the LLC keeps of the bytes that a write replaces, for fetches of the accepted launches (R34). -/
def State.pastWith (s : State) (keys : List Nat) : List (Nat × List (Nat × Byte)) :=
  match s.launchMarks with
  | [] => []
  | marks => (s.mem.writes, keys.filterMap fun k => (s.oldByte k).map fun b => (k, b))
      :: s.mem.past.filter fun e => marks.any fun m => decide (m ≤ e.1)

/-- The control lines that no mirror has applied, with those of the keys written (R396). -/
def Memory.written (m : Memory) (keys : List Nat) : List Nat :=
  let lines := ((keys.filter fun k => keySpace k == .control).map lineOf).eraseDups
  lines.filter (fun line => !m.unmirrored.contains line) ++ m.unmirrored

/-- Write bytes at the LLC slice or the control cache, where they become visible to every agent (R223), and fire the
watches of their lines. -/
def State.llcWrite (s : State) (l : List (Nat × Byte)) : State :=
  let m := s.mem
  let cells := l.foldl (fun c p => Map.insert c p.1 { val := p.2, dirty := true }) m.llc
  let poison := if m.poison.isEmpty then m.poison else clearPoison m.poison (l.map (·.1))
  let s' := { s with mem := { m with llc := cells, poison := poison, writes := m.writes + 1, past := s.pastWith (l.map (·.1)),
                                     unmirrored := m.written (l.map (·.1)) } }
  (l.map fun p => lineOf p.1).eraseDups.foldl (fun t line => t.fireWatch none line) s'

/-- The dirty bytes of a line at the LLC. -/
def Memory.dirtyOf (m : Memory) (line : Nat) : List (Nat × Byte) :=
  m.llc.filterMap fun (k, b) => if lineOf k = line ∧ b.dirty then some (k, b.val) else none

/-- Poison behind granule g of a line, whose dirty keys are given, after they are written to memory: a whole granule clears
it, and dirty bytes of a poisoned granule bring it along (R410). -/
def Memory.granulePoison (m : Memory) (line pk : Nat) (keys poison : List Nat) (g : Nat) : List Nat :=
  let mine := keys.filter fun k => poisonLlc k == poisonLlc (line * 128 + 32 * g)
  let key := poisonPhys (pk + 32 * g)
  if mine.isEmpty then poison
  else if m.poison.contains (poisonLlc (line * 128 + 32 * g)) then (if poison.contains key then poison else key :: poison)
  else if mine.length = 32 then poison.filter (· != key)
  else poison

/-- Write the dirty bytes of a line to memory, if its page translates (R427); the line stays, clean.  A line that another package
homes is never dirty here: each write of it goes to its home (R223, R396; log 6). -/
def State.llcWriteback (s : State) (line : Nat) : State :=
  match s.mem.dirtyOf line with
  | [] => s
  | dirty => match s.translate (line * 128) with
    | .error _ => s
    | .ok (pk, s') =>
      let llc := s'.mem.llc.map fun (k, b) => (k, if lineOf k = line then { b with dirty := false } else b)
      let phys := dirty.foldl (fun p (k, b) => Map.set 0 p (pk + k % 128) b) s'.mem.phys
      let poison := (List.range 4).foldl (fun p g => s'.mem.granulePoison line pk (dirty.map (·.1)) p g) s'.mem.poison
      { s' with mem := { s'.mem with phys := phys, llc := llc, poison := poison } }

/-- Drop a line of the LLC, with its landed mark and its release mark. -/
def Memory.llcDrop (m : Memory) (line : Nat) : Memory :=
  { m with llc := m.llc.filter (fun p => lineOf p.1 ≠ line), llcLanded := m.llcLanded.filter (· ≠ line),
           marks := Map.erase m.marks line,
           poison := m.poison.filter fun p => !((List.range 4).any fun g => poisonLlc (line * 128 + 32 * g) == p) }

/-! ## Cores -/

/-- A core; an unlisted core is as after reset. -/
def State.core (s : State) (c : Nat) : Core := Map.get Core.reset s.cores c

/-- Replace a core. -/
def State.setCore (s : State) (c : Nat) (k : Core) : State := { s with cores := Map.set Core.reset s.cores c k }

/-- Change a core. -/
def State.onCore (s : State) (c : Nat) (f : Core → Core) : State := s.setCore c (f (s.core c))

/-- CYCLE of a core: its cycles since package reset (R366). -/
def State.cycleOf (s : State) (c : Nat) : Nat := (s.ticks - (s.core c).lost) % 2 ^ 64

/-- Change a group. -/
def State.onGroup (s : State) (age : Nat) (f : Group → Group) : State :=
  { s with groups := Map.modify s.groups age f }

/-- Change a workgroup. -/
def State.onWg (s : State) (wg : Nat) (f : Workgroup → Workgroup) : State :=
  { s with wgs := Map.modify s.wgs wg f }

/-- Add n to a core counter of Table 15.13, modulo 2^64 (R389). -/
def Core.count (c : Core) (id n : Nat) : Core :=
  { c with counters := Map.set 0 c.counters id ((Map.get 0 c.counters id + n) % 2 ^ 64) }

/-! ## L1 (R194, R195, R223) -/

/-- The line is marked landed in the core's L1 or at the LLC (R206). -/
def State.lineLanded (s : State) (core line : Nat) : Bool :=
  (s.core core).l1Landed.contains line || s.mem.llcLanded.contains line

/-- Poison without the words of a core's L1 that a write covers whole (R410). -/
def Memory.clearL1 (m : Memory) (core : Nat) (keys : List Nat) : List Nat :=
  if m.poison.isEmpty then m.poison
  else m.poison.filter fun p => !(keys.any fun k => poisonL1 core k == p && decide (k % 4 = 0)
    && keys.contains (k + 1) && keys.contains (k + 2) && keys.contains (k + 3))

/-- Write landed bytes into a core's L1 as dirty bytes and fire the core's watches.  A byte that becomes dirty has a new
stamp; one that is dirty already keeps the stamp of the first write since its last write-back, so that a recall finds
it (R227, R230). -/
def State.l1Write (s : State) (core : Nat) (nc : Bool) (l : List (Nat × Byte)) : State :=
  let c := s.core core
  let stamp := fun (k : Nat) => match Map.find? c.l1 k with
    | some b => if b.dirty then b.stamp else s.wstamp
    | none => s.wstamp
  let cells := l.foldl (fun m p => Map.insert m p.1 { val := p.2, dirty := true, nc := nc, stamp := stamp p.1 }) c.l1
  let s0 : State := { s with mem := { s.mem with poison := s.mem.clearL1 core (l.map fun p => p.1) } }
  let s' := { s0.setCore core { c with l1 := cells } with wstamp := s.wstamp + 1 }
  (l.map fun p => lineOf p.1).eraseDups.foldl (fun t line => t.fireWatch (some core) line) s'

/-- Give the bytes that a core's L1 already holds new values, which also go to the LLC, so that a dirty byte becomes clean
(R194, R220). -/
def State.l1Update (s : State) (core : Nat) (l : List (Nat × Byte)) : State :=
  s.onCore core fun c =>
    { c with l1 := l.foldl (fun m p => Map.modify m p.1 fun b => { b with val := p.2, dirty := false }) c.l1 }

/-- The dirty bytes of a core's L1 that a test selects. -/
def Core.dirty (c : Core) (sel : Nat → L1Byte → Bool) : List (Nat × Byte) :=
  c.l1.filterMap fun (k, b) => if b.dirty && sel k b then some (k, b.val) else none

/-- Poison after dirty bytes of a core's L1 have been written back: a poisoned word brings its poison to its granule at the
LLC (R410; log 80). -/
def Memory.carryPoison (m : Memory) (core : Nat) (before keys : List Nat) : Memory :=
  if before.isEmpty then m
  else
    let bad := ((keys.filter fun k => before.contains (poisonL1 core k)).map poisonLlc).eraseDups
    { m with poison := bad.filter (fun p => !m.poison.contains p) ++ m.poison.filter fun p => !keys.any fun k => poisonL1 core k == p }

/-- The bytes that are written back to lines which a command owns come after the command's write of them (R248): they are noted
under the number of the next operation; a note is kept as long as a command before it owns its line (log 130). -/
def State.lateWith (s : State) (keys : List Nat) : List (Nat × Nat) :=
  ((keys.filter fun k => s.wherryOwns s.nextOp (lineOf k)).map fun k => (k, s.nextOp))
    ++ s.mem.late.filter fun p => s.wherryOwns p.2 (lineOf p.1)

/-- A byte was written back under the ownership of a command issued as operation `id`, which leaves it as it is (R248). -/
def Memory.isLate (m : Memory) (id k : Nat) : Bool := m.late.any fun p => p.1 == k && decide (id < p.2)

/-- The bytes of a command that it still writes here: not those that reached the LLC after its issue (R248). -/
def State.stillWrites (s : State) (id : Nat) (cells : List (Nat × Byte)) : List (Nat × Byte) :=
  cells.filter fun p => !s.mem.isLate id p.1

/-- Write back the dirty bytes of a core's L1 that a test selects; they stay, clean. -/
def State.l1Writeback (s : State) (core : Nat) (sel : Nat → L1Byte → Bool) : State :=
  let c := s.core core
  match c.dirty sel with
  | [] => s
  | l =>
    let t := (s.setCore core { c with l1 := c.l1.map fun (k, b) => (k, if sel k b then { b with dirty := false } else b) }).llcWrite l
    { t with mem := { t.mem.carryPoison core s.mem.poison (l.map fun p => p.1) with late := s.lateWith (l.map fun p => p.1) } }

/-- Drop the bytes of a core's L1 that a test selects, and the landed marks of lines no byte of which stays. -/
def State.l1Drop (s : State) (core : Nat) (sel : Nat → L1Byte → Bool) : State :=
  let gone := ((s.core core).l1.filter fun p => sel p.1 p.2).map (·.1)
  let poison := if s.mem.poison.isEmpty then s.mem.poison
    else s.mem.poison.filter fun p => !gone.any fun k => poisonL1 core k == p
  State.onCore { s with mem := { s.mem with poison := poison } } core fun c =>
    let l1 := c.l1.filter fun p => !sel p.1 p.2
    { c with l1 := l1, l1Landed := c.l1Landed.filter fun line => l1.any fun p => lineOf p.1 == line }

/-- Fill the absent bytes of a line of a core's L1 from the LLC, which holds the line. -/
def State.l1Fill (s : State) (core line : Nat) (nc : Bool) : State :=
  let c := s.core core
  let cells := (List.range 128).foldl (fun (m : Cells L1Byte) i =>
    match Map.find? m (line * 128 + i), Map.find? s.mem.llc (line * 128 + i) with
    | none, some b => Map.insert m (line * 128 + i) { val := b.val, dirty := false, nc := nc, stamp := 0 }
    | _, _ => m) c.l1
  s.setCore core { c with l1 := cells, l1Landed := if c.l1Landed.contains line then c.l1Landed else line :: c.l1Landed }

/-- Read a byte through a core's L1 (NC, DC and private, R194): a miss fetches the line from the LLC. -/
def State.l1Read (s : State) (core vk : Nat) (nc alloc : Bool) : Except Nat (Byte × State) :=
  match Map.find? (s.core core).l1 vk with
  | some b => .ok (b.val, s)
  | none => match s.llcRead vk with
    | .error d => .error d
    | .ok (b, s') => .ok (b, if alloc then s'.l1Fill core (lineOf vk) nc else s')

/-- Read bytes through a core's L1. -/
def State.l1Reads (s : State) (core vk : Nat) (nc alloc : Bool) : Nat → Except Nat (List Byte × State)
  | 0 => .ok ([], s)
  | n + 1 => match s.l1Read core vk nc alloc with
    | .error d => .error d
    | .ok (b, s') => match s'.l1Reads core (vk + 1) nc alloc n with
      | .error d => .error d
      | .ok (l, s'') => .ok (b :: l, s'')

/-- A load's bytes through a core's L1, all of one line: one miss is counted where a byte is not there (R194, R389). -/
def State.l1Load (s : State) (core vk : Nat) (nc alloc : Bool) (n : Nat) : Except Nat (List Byte × State) :=
  let hit := (keyRun vk n).all fun k => (Map.find? (s.core core).l1 k).isSome
  (if hit then s else s.onCore core fun c => c.count 0x0300 1).l1Reads core vk nc alloc n

/-! ## The release table (R229, R230) -/

/-- Stamp with which an entry of a release table was recorded, if it is in use. -/
def relStamp? : List (Nat × Nat) → Nat → Option Nat
  | [], _ => none
  | (e, t) :: l, k => if e = k then some t else relStamp? l k

/-- The entries of a release table after a given one; all of them where it is free. -/
def relAfter (l : List (Nat × Nat)) (k : Nat) : List (Nat × Nat) := (l.dropWhile fun p => p.1 != k).drop 1

/-- The byte of an L1 counts as NC: of an NC page, or of private space, which is written as NC is (Table 8.6; log 28). -/
def isNcByte (k : Nat) (b : L1Byte) : Bool := b.nc || keySpace k == .priv

/-- A core works off a recall of one of its entries: it writes back every landed NC dirty byte written before the entry
was recorded, and frees the entry and every older one; an entry already free asks for nothing (R230). -/
def State.recall (s : State) (core entry : Nat) : State :=
  match relStamp? (s.core core).relEntries entry with
  | none => s
  | some stamp =>
    (s.l1Writeback core fun k b => isNcByte k b && decide (b.stamp < stamp))
      |>.onCore core fun c => { c with relEntries := relAfter c.relEntries entry }

/-- Record an entry, recalling the oldest where all 64 are in use: its number, and the state (R229, R230). -/
def State.recordEntry (s : State) (core : Nat) : Nat × State :=
  let s1 := match (s.core core).relEntries with
    | (e, _) :: _ => if 64 ≤ (s.core core).relEntries.length then s.recall core e else s
    | [] => s
  let e := (s1.core core).relCount % 65536
  (e, s1.onCore core fun c => { c with relCount := (c.relCount + 1) % 65536, relEntries := c.relEntries ++ [(e, s1.wstamp)] })

/-- Clear the marks of an entry of a core. -/
def State.clearMarks (s : State) (core entry : Nat) : State :=
  { s with mem := { s.mem with marks := s.mem.marks.filter fun p => p.2 != (core, entry) } }

/-- Mark a line with an entry of a core.  A mark of the same core that was recorded later stays: a recall of it asks for all that
the earlier one would (R227, R229, R230). -/
def State.markLine (s : State) (line core entry : Nat) : State :=
  let used := (s.core core).relEntries
  let later := match Map.find? s.mem.marks line with
    | some (c, e) => c == core && (relStamp? used e).isSome
        && ((relStamp? used entry).isNone || (relAfter used entry).any fun p => p.1 == e)
    | none => false
  if later then s else { s with mem := { s.mem with marks := Map.insert s.mem.marks line (core, entry) } }

/-- The mark on a line is recalled and cleared. -/
def State.recallLine (s : State) (line : Nat) : State :=
  match Map.find? s.mem.marks line with
  | none => s
  | some (c, e) =>
    let s1 := (s.recall c e).clearMarks c e
    s1.onCore c fun k => k.count 0x0302 1

/-! ## Rights (R191 to R193) -/

/-- No rights. -/
def noRights : Rights := { rd := false, wr := false, at_ := false, ex := false, cls := 0 }

/-- The rights of a leaf, if its class is legal for the space (R23, R192). -/
def leafRights (control : Bool) (e : Nat) : Rights :=
  let cls := e / 64 % 4
  if (control && decide (cls = 2)) || (!control && decide (cls < 2)) then
    { rd := decide (e / 4 % 2 = 1), wr := decide (e / 8 % 2 = 1), at_ := decide (e / 16 % 2 = 1),
      ex := decide (e / 32 % 2 = 1), cls := cls }
  else noRights

/-- Index of a level of the rights table: level 0 takes key[41:36], the others nine bits each (R191). -/
def rightsIndex (level key : Nat) : Nat := if level = 0 then key / 2 ^ 36 % 64 else key / 2 ^ (36 - 9 * level) % 512

/-- Read n control bytes as an SC load of the package does: through the control cache, which is filled.  Nothing where
the read cannot complete. -/
def State.controlLoad (s : State) (off n : Nat) : Option (Nat × State) :=
  match s.llcReads (2 ^ 62 + off % 2 ^ 48) n with
  | .ok (l, t) => some (bytesVal l, t)
  | .error _ => none

/-- One level of the rights walk after another (R192). -/
def rightsLevels (control : Bool) (key : Nat) : Nat → Nat → Nat → State → Rights × State
  | 0, _, _, s => (noRights, s)
  | fuel + 1, level, table, s =>
    match s.controlLoad (table + 8 * rightsIndex level key) 8 with
    | none => (noRights, s)
    | some (e, t) =>
      if e % 2 = 0 then (noRights, t)
      else if e / 2 % 2 = 1 then (if level = 0 then noRights else leafRights control e, t)
      else if level = 4 then (noRights, t)
      else rightsLevels control key fuel (level + 1) (e / 2 ^ 12 % 2 ^ 36 * 2 ^ 12) t

/-- A walk of a context's rights table for a tensor or control address: the rights that it finds, and the state with the
tables' lines in the control cache (R191, R192). -/
def State.rightsWalk (s : State) (ctx : Nat) (a : Word) : Rights × State :=
  let n := a.toNat
  let control := decide (n / 2 ^ 61 = 2)
  let key := (if control then 2 ^ 41 else 0) + n / 2 ^ 16 % 2 ^ 41
  match s.controlLoad (s.win.mctBase.toNat + 32 * ctx) 8 with
  | none => (noRights, s)
  | some (root, t) => rightsLevels control key 5 0 (root / 512 * 512 % 2 ^ 48) t

/-- The rights that a walk finds. -/
def State.walkRights (s : State) (ctx : Nat) (a : Word) : Rights := (s.rightsWalk ctx a).1

/-- The cached rights of a page. -/
def Core.perm? (c : Core) (ctx page : Nat) : Option Rights :=
  (c.perms.find? fun e => e.ctx == ctx && e.page == page).map (·.rights)

/-- The rights of a tensor or control address on a core: its permission cache, else a walk, which is cached and counted
(R192, R193, R389). -/
def State.rights (s : State) (core ctx : Nat) (a : Word) : Rights × State :=
  let page := pageOf a.toNat
  match (s.core core).perm? ctx page with
  | some r => (r, s)
  | none =>
    let r := s.walkRights ctx a
    (r, (s.rightsWalk ctx a).2.onCore core fun c =>
      { (c.count 0x0303 1) with perms := if r = noRights then c.perms
                                         else { ctx := ctx, page := page, rights := r } :: c.perms })

end Sys2Proof.Machine
end

