-- ==== Sys2Proof/Machine/Records.lean ====
section
/-! DEFINITION. What the device itself writes for others to read: interrupts (R392), fault records (R200, R201), trace
records (R385, R386) and RAS counters (R410, R411). -/

namespace Sys2Proof.Machine

/-- The package's ns counter (R384). -/
def State.timeNs (s : State) : Nat := s.time8 / 8 % 2 ^ 64

/-- Which of the eight Ferry engines works on a command. -/
def Ferry.engine (c : Ferry) : Nat := Config.ferryEngine c.id % 8

/-- Tell the other participants of a Ferry command that it has failed here (R289, R345). -/
def State.tellFailure (s : State) (c : Ferry) (detail : Nat) : State :=
  (c.members.filter fun p => p != s.pkg).foldl (fun t p => t.send (.ferryFailed p c.list c.tag c.engine detail)) s

/-- Signal interrupt source n: an enabled source sends one message (R392, Table 16.3). -/
def State.signal (s : State) (n : Nat) : State :=
  let t := (Map.get 0 s.plat.irqTgt n).toNat
  if t / 2 ^ 11 % 2 = 1 then s.send (.interrupt (BitVec.ofNat 64 (t / 2 ^ 12 * 2 ^ 12)) (t % 2 ^ 11)) else s

/-! ## Requests of other agents that wait -/

/-- The requests that came before an event which is being served again, or before one that arrives. -/
def State.before (s : State) (e : Event) : List Event :=
  (s.inbox.takeWhile fun p => p != (true, e)).map fun p => p.2

/-- An event that was waiting is served. -/
def State.served (s : State) (e : Event) : State := { s with inbox := s.inbox.erase (true, e) }

/-- An event waits: where it stood, or behind the others. -/
def State.keep (s : State) (e : Event) : State :=
  if s.inbox.contains (true, e) then
    { s with inbox := s.inbox.map fun p => if p == (true, e) then (false, e) else p }
  else { s with inbox := s.inbox ++ [(false, e)] }

/-- Serve the waiting event of a place again: it is marked. -/
def State.serve (s : State) (i : Nat) : State :=
  { s with inbox := ((List.range s.inbox.length).zip s.inbox).map fun p => (p.1 == i, p.2.2) }

/-- RAS counters whose events are logged (R411). -/
def rasLogged : List Nat := [1, 3, 5, 7, 9, 10, 12, 14, 16, 17, 18, 20]

/-- Count an event in RAS counter i, and log it where R411 says so. -/
def State.ras (s : State) (i die unit loc : Nat) : State :=
  let s1 := { s with plat := { s.plat with rasCnt := Map.set 0 s.plat.rasCnt i (Map.get 0 s.plat.rasCnt i + 1) } }
  if rasLogged.contains i then
    let e := s.timeNs + i * 2 ^ 64 + die % 256 * 2 ^ 72 + unit % 2 ^ 16 * 2 ^ 80 + loc % 2 ^ 32 * 2 ^ 96
    let n := s1.plat.rasLogN.toNat
    { s1 with plat := { s1.plat with rasLog := Map.set 0 s1.plat.rasLog (n % 64) (BitVec.ofNat 128 e),
                                     rasLogN := BitVec.ofNat 64 (n + 1) } }.signal 2
  else s1

/-! ## Requests to the home of a control line (R24, R276, R396, R398) -/

/-- Something waits for the answer of a home. -/
def State.asking (s : State) (who : AskWho) : Bool := s.fabric.asks.any fun a => a.who == who

/-- The control core of an access. -/
def eventCore : Event → Option Nat
  | .controlCoreAccess core _ _ _ | .launchPortWrite core _ _ _ _ | .registerWrite core _ _ => some core
  | _ => none

/-- An access of a control core waits for the core's earlier ones: its window accesses are strongly ordered, and a fence
orders the others; the model keeps them all in order (log 103). -/
def State.coreBlocked (s : State) (e : Event) (core : Nat) : Bool :=
  ((s.before e).any fun b => eventCore b == some core) || s.asking (.core core)

/-- A request to a home as this package itself performs it. -/
def HomeAsk.request (a : HomeAsk) (pkg : Nat) : HomeRequest :=
  { src := pkg, tag := a.tag, off := a.off, size := 0, acks := [],
    op := match a.op with
      | .write l => .store l
      | .atomic code x y => .atomic code x y
      | .object u => .object u }

/-- Ask the home of a control line for a write, an atomic or an update of a barrier object, under a new tag, with the
acknowledgements that are due.  Another package's line leaves the control cache here; a request to this package as the home, whose
mirror must hold the line first, waits among those of the others (R396). -/
def State.askHome (s : State) (off : Nat) (op : HomeOp) (who : AskWho) : State :=
  let a : HomeAsk := { tag := s.fabric.askTag, off := off, op := op, who := who }
  let f := { s.fabric with asks := s.fabric.asks ++ [a], askTag := s.fabric.askTag + 1 }
  if s.homedHere off then { s with fabric := f, inbox := s.inbox ++ [(false, .controlHomeRequest (a.request s.pkg))] }
  else
    State.send { s with mem := s.mem.llcDrop (lineOf (2 ^ 62 + off)), fabric := { f with acks := [] } }
      (.homeRequest (s.homePkg off) a.tag off op s.fabric.acks)

/-- Bytes as a run from the lowest of their keys on, absent where none is written: of several for one key, the last. -/
def storeRun (l : List (Nat × Byte)) : Nat × List (Option Byte) :=
  let first := ((l.map (·.1)).min?).getD 0
  let last := ((l.map (·.1)).max?).getD 0
  (first, (List.range (last + 1 - first)).map fun i => ((l.reverse).find? fun p => p.1 == first + i).map (·.2))

/-- Ask the home of control bytes, all in one line, to write them, by one request. -/
def State.askBytes (s : State) (l : List (Nat × Byte)) (who : AskWho) : State :=
  let r := storeRun l
  s.askHome (r.1 % 2 ^ 48) (.write r.2) who

/-! ## Control-space writes of the device -/

/-- Every control byte of a run translates. -/
def State.controlReady (s : State) (off n : Nat) : Bool :=
  [off, off + n - 1].all fun o =>
    match s.translate (2 ^ 62 + o % 2 ^ 48) with
    | .ok _ => true
    | .error _ => false

/-- Write control bytes as the device does: in the control cache, or by requests to their home (R223). -/
def State.controlWrite (s : State) (off : Nat) (l : List Byte) : State :=
  let cells := (List.range l.length).zip l |>.map fun p => (2 ^ 62 + (off + p.1) % 2 ^ 48, p.2)
  let far := cells.filter fun p => s.asksHome p.1
  if far.isEmpty then s.llcWrite cells
  else
    let near := cells.filter fun p => !s.asksHome p.1
    (far.map fun p => lineOf p.1).eraseDups.foldl (fun t line => t.askBytes (far.filter fun p => lineOf p.1 == line) .device)
      (if near.isEmpty then s else s.llcWrite near)

/-! ## The fault queue (R201) -/

/-- log2 of the record count; 0 where the queue does not exist (Table 8.11). -/
def State.fqLog (s : State) : Nat :=
  let n := s.win.fqSize.toNat % 32
  if 6 ≤ n ∧ n ≤ 16 then n else 0

/-- The eight words of a fault record (Table 8.9). -/
def faultWords (kind detail ctx core slot token : Nat) (pc addr : Word) (lanes : Lane) (word5 : Word) : List Word :=
  [BitVec.ofNat 64 (kind * 2 ^ 56 + detail % 256 * 2 ^ 48 + ctx % 4096 * 2 ^ 36 + core % 512 * 2 ^ 27 + slot % 64 * 2 ^ 21),
   BitVec.ofNat 64 (token % 2 ^ 32), pc, addr, lanes.setWidth 64, word5, 0, 0]

/-- Write one record to the queue, if it exists, has room and its page translates. -/
def State.fqWrite? (s : State) (words : List Word) : Option State :=
  let off := s.win.fqBase.toNat + 64 * (s.win.fqProd.toNat % 2 ^ s.fqLog)
  if s.fqLog = 0 ∨ (s.win.fqProd - s.win.fqCons).toNat = 2 ^ s.fqLog ∨ s.controlReady off 64 = false then none
  else
    let s' := s.controlWrite off (words.flatMap fun w => valBytes 8 w.toNat)
    some ({ s' with win := { s'.win with fqProd := s'.win.fqProd + 1 } }.signal 0)

/-- Write the records that wait in their cores, those of one core in their order (R201).  DESIGN CHOICE (log 94): with
FQSIZE = 0 those that already wait keep waiting, neither declined nor discarded. -/
def State.fqDrain (s : State) : State :=
  let (s', left, _) := s.faultWait.foldl (fun (acc : State × List FaultRec × List Nat) r =>
    let (t, kept, stuck) := acc
    if stuck.contains r.core then (t, kept ++ [r], stuck)
    else match t.fqWrite? r.words with
      | some t' => (t', kept, stuck)
      | none => (t, kept ++ [r], r.core :: stuck)) (s, [], [])
  { s' with faultWait := left }

/-- Raise a fault record, which takes the next token, and write what can be written.  With FQSIZE = 0 nothing is
written (R201). -/
def State.raiseRecord (s : State) (kind detail ctx core slot : Nat) (pc addr : Word) (lanes : Lane) (word5 : Word) :
    State :=
  let words := faultWords kind detail ctx core slot s.tokens pc addr lanes word5
  let s1 := { s with tokens := (s.tokens + 1) % 2 ^ 32 }
  if s.fqLog = 0 then s1
  else State.fqDrain { s1 with faultWait := s1.faultWait ++ [FaultRec.mk core words] }

/-! ## Trace (R385, R386) -/

/-- Read n bytes of tensor space at an offset as the device does: nothing where the walk fails. -/
def State.tensorRead (s : State) (off n : Nat) : Option (Nat × State) :=
  match s.llcReads (s.tensorAddr off).toNat n with
  | .ok (l, s') => some (bytesVal l, s')
  | .error _ => none

/-- Write a little-endian value of n bytes in tensor space at an offset, at the LLC. -/
def State.tensorWrite (s : State) (off n v : Nat) : State :=
  s.llcWrite ((List.range n).zip (valBytes n v) |>.map fun p => ((s.tensorAddr (off + p.1)).toNat, p.2))

/-- Offset of a trace session entry (R385). -/
def State.sessionOff (s : State) (session : Nat) : Nat := s.dbg.trBase.toNat + 64 * session

/-- Write one record to a session at index PROD, and count it (R386). -/
def State.tracePut (s : State) (session base size prod : Nat) (words : List Nat) : State :=
  let s1 := s.tensorWrite (base + 32 * (prod % 2 ^ size)) 32
    (words.foldr (fun w acc => w % 2 ^ 64 + 2 ^ 64 * acc) 0)
  s1.tensorWrite (s1.sessionOff session + 24) 8 ((prod + 1) % 2 ^ 64)

/-- A trace record of an event: dropped and counted where the session is not open or has no room; `reset` may use the
last free place (R386, R387).  Nothing is traced with TRBASE = 0 or SESSION = 0. -/
def State.traceRecord (s : State) (session : Nat) (reset : Bool) (pc : Word) (lanes : Lane) (who kind : Nat)
    (payload : Word) : State :=
  if s.dbg.trBase = 0 ∨ session = 0 then s
  else match s.tensorRead (s.sessionOff session) 64 with
    | none => s
    | some (e, s') =>
      let base := e % 2 ^ 64
      let size := e / 2 ^ 64 % 32
      let open_ := decide (e / 2 ^ 128 % 2 ^ 32 = 1)
      let prod := e / 2 ^ 192 % 2 ^ 64
      let cons := e / 2 ^ 256 % 2 ^ 64
      let dropped := e / 2 ^ 320 % 2 ^ 64
      let used := (prod + 2 ^ 64 - cons) % 2 ^ 64
      if open_ && decide (used < 2 ^ size - (if reset then 0 else 1)) then
        s'.tracePut session base size prod
          [s.timeNs, pc.toNat, lanes.toNat + who % 2 ^ 16 * 2 ^ 32 + kind % 256 * 2 ^ 48, payload.toNat]
      else s'.tensorWrite (s'.sessionOff session + 40) 8 ((dropped + 1) % 2 ^ 64)

/-- The workgroup of a group. -/
def State.wgOf (s : State) (g : Group) : Option Workgroup := Map.find? s.wgs g.id.wg

/-- The trace session of a group's launch. -/
def State.sessionOf (s : State) (g : Group) : Nat := ((s.wgOf g).map (·.session)).getD 0

/-- WHO of a trace record (Table 15.10). -/
def Group.who (g : Group) : Nat := g.id.core % 512 + g.id.slot % 64 * 2 ^ 9 + (if g.flow.trapMode then 2 ^ 15 else 0)

end Sys2Proof.Machine
end

