-- ==== Sys2Proof/Machine/Ops.lean ====
section
/-! DEFINITION. What every instruction shares: the fragment that issues it, how it completes, how it is held, and taking
and leaving a trap (R4, R39, R54, R200 to R204, R247, R368 to R371). -/

namespace Sys2Proof.Machine

/-! ## The issuing fragment -/

/-- What an instruction reads of the fragment that issues it: the group and the fragment as they stand at issue, the
instruction's length in bytes and its word, the issue-order position, and whether it issues by slice packing. -/
structure Ctx where
  age : Nat
  entry : Nat
  g : Group
  f : Frag
  len : Nat
  word : Nat
  packed : Bool
  clock : Nat
  now : Nat
  deriving DecidableEq, Repr

/-- The fragment of `cur`. -/
def State.ctx? (s : State) : Option Ctx :=
  match s.cur with
  | none => none
  | some u =>
    match Map.find? s.groups u.age with
    | none => none
    | some g =>
      match g.frag? u.entry with
      | none => none
      | some f => some { age := u.age, entry := u.entry, g := g, f := f, len := u.len, word := u.word,
                         packed := u.packed, clock := s.issueClock, now := s.cycleOf g.id.core }

/-- Address of the instruction. -/
def Ctx.pc (c : Ctx) : Word := c.f.pc

/-- Address of the next instruction. -/
def Ctx.npc (c : Ctx) : Word := c.f.pc + BitVec.ofNat 64 c.len

/-- The core that holds the group. -/
def Ctx.core (c : Ctx) : Nat := c.g.id.core

/-- The context of the group. -/
def Ctx.ctx (c : Ctx) : Nat := c.g.id.ctx

/-- The guard of a clause header on the group's masks: the lanes it leaves active (R4, R36). -/
def guardMask (h : BitVec 32) (g : Group) : Lane :=
  if h.getLsbD 30 then
    let m := g.m (h.toNat / 2 ^ 27 % 8)
    if h.getLsbD 31 then ~~~m else m
  else BitVec.allOnes 32

/-- The active lanes of a vector instruction (R4, R42). -/
def Ctx.active (c : Ctx) : Lane :=
  match c.f.header with
  | none => c.f.lanes
  | some h => c.f.lanes &&& guardMask h c.g

/-- The active lanes in ascending order. -/
def Ctx.lanes (c : Ctx) : List Nat := lanesOf c.active

/-- Flag A of the header in force (R36). -/
def Ctx.flagA (c : Ctx) : Option Nat :=
  match c.f.header with
  | none => none
  | some h => if h.toNat / 2 ^ 19 % 16 < 12 then some (h.toNat / 2 ^ 19 % 16) else none

/-- Flag B of the header in force (R36). -/
def Ctx.flagB (c : Ctx) : Option Nat :=
  match c.f.header with
  | none => none
  | some h => if h.toNat / 2 ^ 23 % 16 < 12 then some (h.toNat / 2 ^ 23 % 16) else none

/-! ## How an instruction ends without its effect -/

/-- An instruction that does not take its effect: it takes a trap, its fragment is held and issues it again, or the
group parks at it for the driver (R204, R428). -/
inductive Stop where
  | trap (t : Trap)
  /-- A deferred record surfaces: the trap clears the record of this place in the issue order (R265, R274). -/
  | deferred (t : Trap) (order : Nat)
  | hold (h : Hold)
  /-- GANG: the instruction disturbs the gang whose members have latched operations (R316). -/
  | disturb
  | park (kind detail : Nat) (lanes : Lane) (addr : Word)
  deriving DecidableEq, Repr

/-- ILLEGAL with its record (Table 15.4). -/
def Ctx.illegal (c : Ctx) : Stop := .trap { cause := .illegal, word := BitVec.ofNat 64 c.word }

/-- PRIV with its record. -/
def Ctx.priv (c : Ctx) : Stop := .trap { cause := .priv, word := BitVec.ofNat 64 c.word }

/-- A cause that names a lane and an address (R19). -/
def addrTrap (cause : Cause) (lane : Nat) (a : Word) : Stop := .trap { cause := cause, lane := lane, addr := a }

/-- A cause that names the instruction and an address: PRIVATE-LIMIT and SYNONYM (Table 15.4). -/
def Ctx.pcTrap (c : Ctx) (cause : Cause) (a : Word) : Stop := .trap { cause := cause, pc := c.pc, addr := a }

/-- Go on only if the condition holds. -/
def need (b : Bool) (s : Stop) : Except Stop Unit := if b then .ok () else .error s

/-- The register runs lie within the allocation (R51, R52). -/
def Ctx.checkRuns (c : Ctx) (rs : List (Nat × Nat)) : Except Stop Unit := need (rs.all c.g.runOk) c.illegal

/-- A kind-A instruction needs a flag A (R40). -/
def Ctx.needA (c : Ctx) : Except Stop Unit := need c.flagA.isSome c.illegal

/-- A kind-B instruction needs a flag B (R40). -/
def Ctx.needB (c : Ctx) : Except Stop Unit := need c.flagB.isSome c.illegal

/-- A privileged instruction issues in trap mode only (R54). -/
def Ctx.needTrapMode (c : Ctx) : Except Stop Unit := need c.g.flow.trapMode c.priv

/-- An instruction that takes ILLEGAL in trap mode. -/
def Ctx.needUser (c : Ctx) : Except Stop Unit := need (!c.g.flow.trapMode) c.illegal

/-- The least number of a list. -/
def least? : List Nat → Option Nat
  | [] => none
  | x :: l => match least? l with
    | none => some x
    | some y => some (min x y)

/-- RF-ECC where a poisoned entry is read: the cells read are given by register key and lane (R372). -/
def Ctx.checkCells (c : Ctx) (reads : Nat → Nat → Bool) : Except Stop Unit :=
  match least? (c.g.regs.poison.filter fun p => reads (p / 32) (p % 32)) with
  | none => .ok ()
  | some p => .error (.trap { cause := .rfEcc, aux := p / 32, lane := p % 32 })

/-- RF-ECC for runs of register fields read in the given lanes. -/
def Ctx.checkEcc (c : Ctx) (lanes : Lane) (rs : List (Nat × Nat)) : Except Stop Unit :=
  c.checkCells fun k l => lanes.getLsbD l && rs.any fun r => decide (c.g.vKey r.1 ≤ k) && decide (k < c.g.vKey r.1 + r.2)

/-! ## Completion -/

/-- The group has issued one more instruction, which is not complete (R389). -/
def Group.countIssue (g : Group) : Group := { g with work := { g.work with issued := g.work.issued + 1 } }

/-- The fragment goes to the next instruction, and the group has issued one more (R93, R389). -/
def Ctx.advance (c : Ctx) (g : Group) : Group :=
  let g1 := g.onFrag c.entry fun f => { f with pc := c.npc, lastIssue := c.clock, age := 0, hold := .none }
  { g1 with work := { g1.work with issued := g1.work.issued + 1,
                                   packed := g1.work.packed + (if c.packed then 1 else 0) } }

/-- The fragment goes to a target, which must begin a clause header (R32) and issues no earlier than 3 cycles from now
(R95), and the group has issued one more. -/
def Ctx.jump (c : Ctx) (g : Group) (target : Word) : Group :=
  let g1 := g.onFrag c.entry fun f =>
    { f with pc := target, needHeader := true, lastIssue := c.clock, age := 0, hold := .none, readyAt := c.now + 3 }
  { g1 with work := { g1.work with issued := g1.work.issued + 1,
                                   packed := g1.work.packed + (if c.packed then 1 else 0) } }

/-- An instruction that counted as issued when it was held has no effect after all (R368, R373). -/
def Group.uncountIssue (g : Group) : Group := { g with work := { g.work with issued := g.work.issued - 1 } }

/-- Put a group into the state. -/
def Ctx.put (c : Ctx) (s : State) (g : Group) : State := { s with groups := Map.insert s.groups c.age g }

/-- The instruction completes with this group, and its fragment goes to the next instruction.  DESIGN CHOICE (log 122): a result of fixed
latency is written here, at the issue, and so before a pending result that lands later on the same register; R41 leaves the order of
the two writes to the hardware. -/
def Ctx.done (c : Ctx) (s : State) (g : Group) : State := c.put s (c.advance g)

/-- The instruction completes on the group as the state holds it, changed by `f`. -/
def Ctx.finish (c : Ctx) (s : State) (f : Group → Group) : State := s.onGroup c.age fun g => c.advance (f g)

/-! ## Counters and results in flight (R39, R247) -/

/-- Value of an in-flight counter: the operations from the oldest one not yet complete onwards.  DESIGN CHOICE (log 107): its 10
bits stay at 1,023 where there are more (R15). -/
def Work.counter (w : Work) (p : Path) : Nat :=
  min 1023 ((w.inflight.filter fun e => e.path == p).dropWhile (·.done)).length

/-- Count an operation on a path. -/
def Work.start (w : Work) (p : Path) (op : Nat) : Work :=
  { w with inflight := w.inflight ++ [{ path := p, op := op, done := false }] }

/-- An operation of a path is complete; what is complete at the front of the path is forgotten. -/
def Work.finish (w : Work) (p : Path) (op : Nat) : Work :=
  let l := w.inflight.map fun e => if e.path == p && e.op == op then { e with done := true } else e
  let keep := (l.filter fun e => e.path == p).dropWhile (·.done)
  { w with inflight := (l.filter fun e => e.path != p) ++ keep }

/-- Count an operation of a group on a path. -/
def State.startOp (s : State) (age : Nat) (p : Path) (op : Nat) : State :=
  s.onGroup age fun g => { g with work := g.work.start p op }

/-- An operation of a group on a path is complete. -/
def State.finishOp (s : State) (age : Nat) (p : Path) (op : Nat) : State :=
  s.onGroup age fun g => { g with work := g.work.finish p op }

/-- The flag reads set: an instruction issued under it has still to write a result (R39).  Trap mode has flags of its
own (R370). -/
def State.flagSet (s : State) (age : Nat) (bank : Bool) (i : Nat) : Bool :=
  s.pend.any fun p => p.age == age && p.trapBank == bank && p.flag == some i

/-- An instruction as it is put in flight. -/
def Ctx.pendOf (c : Ctx) (s : State) (flag : Option Nat) (path : Option Path) (kind : PendKind) : Pend where
  id := s.nextOp
  age := c.age
  flag := flag
  trapBank := c.g.flow.trapMode
  path := path
  entry := c.entry
  pc := c.pc
  lanes := c.active
  kind := kind

/-- Put an instruction in flight: it keeps a flag set, and counts on a path, until it completes. -/
def Ctx.launch (c : Ctx) (s : State) (flag : Option Nat) (path : Option Path) (kind : PendKind) : State :=
  let s1 := { s with nextOp := s.nextOp + 1, pend := s.pend ++ [c.pendOf s flag path kind] }
  match path with
  | none => s1
  | some q => s1.startOp c.age q s.nextOp

/-- An instruction in flight is complete: its flag and its path no longer count it. -/
def State.landPend (s : State) (p : Pend) : State :=
  let s1 := { s with pend := s.pend.filter fun q => q.id != p.id }
  match p.path with
  | none => s1
  | some q => s1.finishOp p.age q p.id

/-! ## Taking a trap (R367 to R370) -/

/-- Codes of Table 15.4. -/
def Cause.code : Cause → Nat
  | .illegal => 0x01
  | .priv => 0x02
  | .misalign => 0x03
  | .space => 0x04
  | .remoteDirect => 0x05
  | .perm => 0x06
  | .class_ => 0x07
  | .loadXlate => 0x08
  | .storeLanding => 0x09
  | .atomRemote => 0x0A
  | .synonym => 0x0B
  | .formatDivergence => 0x0C
  | .scaleAxis => 0x0D
  | .slot => 0x0E
  | .gang => 0x0F
  | .rfEcc => 0x10
  | .rgrowExceeds => 0x11
  | .peerLost => 0x12
  | .privLimit => 0x13
  | .software => 0x14
  | .breakpoint => 0x15
  | .double => 0x16
  | .watch => 0x17
  | .rendezvousAbandon => 0x18
  | .fupdState => 0x19

/-- Words 0 to 7 of the trap record (Table 15.3). -/
def Trap.record (t : Trap) : List Word :=
  [BitVec.ofNat 64 (t.aux % 2 ^ 32 * 2 ^ 32 + t.lane % 64 * 2 ^ 16 + t.detail % 256 * 2 ^ 8 + t.cause.code),
   t.addr, t.pc, BitVec.ofNat 64 (t.seq % 2 ^ 32 * 2 ^ 32 + t.lanes.toNat), t.word, 0, 0, 0]

/-- Where a group stops: the fragment's entry and lanes, the address of the stopping instruction and the address after
it, the clause header if that is what it stops at, and whether the stop withholds no instruction, so that the fragment
keeps its wait state (R368). -/
structure StopPoint where
  entry : Nat
  lanes : Lane
  pc : Word
  npc : Word
  header : Option (BitVec 32)
  kept : Bool
  deriving DecidableEq, Repr

/-- A program counter from a register that software writes whole: bit 0 reads as zero (R32; log 82). -/
def evenPc (a : Word) : Word := a &&& ~~~1

/-- The trap fragment (R368). -/
def trapFragment (g : Group) (clock : Nat) : Frag :=
  { entry := 0, pc := evenPc g.sys.trapVec, lanes := g.flow.live, header := none, clauseStart := evenPc g.sys.trapVec,
    needHeader := true, wait := .ready, hold := .none, rejoin := 0, age := 0, agedAt := 0, lastIssue := clock, pausedUntil := 0, readyAt := 0 }

/-- The group in trap mode: the trap registers written, and one trap fragment with every lane that has not exited.  A
fragment whose instruction is withheld is ready to issue it again; a stop that withholds none leaves every wait state. -/
def Group.enterTrap (g : Group) (p : StopPoint) (t : Trap) (clock : Nat) : Group :=
  let frags := g.flow.frags.map fun f =>
    if !p.kept && f.entry == p.entry && f.pc == p.pc then { f with wait := .ready, hold := .none } else f
  { g with
    flow := { g.flow with trapMode := true, frags := frags, trapFrags := [trapFragment g clock], trapE := [],
                          trapA := [], stopped := p.entry, stopHeader := p.header, stopKept := if p.kept then some p.pc else none },
    sys := { g.sys with trapCause := BitVec.ofNat 8 t.cause.code, trapPc := p.pc, trapNpc := p.npc,
                        trapFrag := BitVec.ofNat 64 (p.entry % 128 + p.lanes.toNat * 2 ^ 32), trapRec := t.record },
    work := { g.work with traps := g.work.traps + 1 } }

/-- The group halted by a fault in trap mode: DOUBLE, with the record of the inner fault (R370).  The fragment that met it waits for
nothing, and keeps no place at a rendezvous (R176). -/
def Group.enterDouble (g : Group) (p : StopPoint) (t : Trap) : Group :=
  let g := g.setBank (g.bank.map fun f => if !p.kept && f.entry == p.entry && f.pc == p.pc then { f with hold := .none } else f)
  { g with id := { g.id with halted := true, dbl := true },
           sys := { g.sys with trapCause := BitVec.ofNat 8 Cause.double.code, trapRec := t.record } }

/-- No other fragment of the group issues after the stopping point (R368). -/
def State.stopIssue (s : State) (age : Nat) : State := { s with issuing := s.issuing.filter fun e => e.1 != age }

/-- A group takes a trap: it enters trap mode, or, in trap mode or with TRAPVEC = 0, it halts as DOUBLE and a fault
record of kind 5 is raised (R368, R370, R383, R386). -/
def State.takeTrap (s : State) (age : Nat) (p : StopPoint) (t : Trap) : State :=
  match Map.find? s.groups age with
  | none => s
  | some g =>
    let s1 := s.stopIssue age
    if g.flow.trapMode || decide (g.sys.trapVec = 0) then
      let s2 := { s1 with groups := Map.insert s1.groups age (g.enterDouble p t) }
      let s3 := s2.raiseRecord 5 t.cause.code g.id.ctx g.id.core g.id.slot p.pc 0 0 (BitVec.ofNat 64 age)
      s3.traceRecord (s.sessionOf g) false p.pc p.lanes g.who 8 4
    else
      let s2 := { s1 with groups := Map.insert s1.groups age (g.enterTrap p t s.issueClock) }
      s2.traceRecord (s.sessionOf g) false p.pc p.lanes g.who 6 (BitVec.ofNat 64 t.cause.code)

/-- The stopping point of an instruction. -/
def Ctx.stopPoint (c : Ctx) : StopPoint :=
  { entry := c.entry, lanes := c.f.lanes, pc := c.pc, npc := c.npc,
    header := if c.word % 128 = 1 ∧ c.len = 4 then some (BitVec.ofNat 32 c.word) else none, kept := false }

/-- The wait state of a held fragment: 5 where it waits for split-table entries (R91). -/
def Hold.wait : Hold → WaitState
  | .entries _ => .splitHold
  | _ => .held

/-- When a hold that begins now began: the order of attempts at a rendezvous is that of the periods (R176), for the other holds the
core's cycles count. -/
def State.holdStart (s : State) (core : Nat) : Hold → Nat
  | .sendSide _ _ | .recvSide _ => s.ticks
  | _ => s.cycleOf core

/-- Hold a fragment; it issues the instruction again once the reason is over.  A hold for the same reason goes on. -/
def Ctx.heldState (c : Ctx) (s : State) (h : Hold) : State :=
  s.onGroup c.age fun g => g.onFrag c.entry fun f =>
    { f with wait := h.wait, hold := h, pausedUntil := if f.hold = h then f.pausedUntil else s.holdStart c.core h }

/-! ## Parked accesses (R200 to R204, R428) -/

/-- The access keeps its group parked: a load, or an instruction that waits for the driver. -/
def Park.stops (p : Park) : Bool :=
  match p.what with
  | .load _ | .resent _ => true
  | .instruction _ _ => true
  | .engine _ => false

/-- The group is parked. -/
def State.parked (s : State) (age : Nat) : Bool := s.parks.any fun p => p.age == age && p.stops

/-- The trap that Decline gives (R202 to R204). -/
def Park.declineTrap (p : Park) : Trap :=
  if p.kind = 2 then { cause := .privLimit, pc := p.pc, addr := p.addr }
  else { cause := .loadXlate, pc := p.pc, lanes := p.lanes, addr := p.addr, detail := p.detail }

/-- The fragment at which a group stands when it stops with no instruction withheld: the one named if it is there,
else the one in the lowest entry. -/
def Group.standing (g : Group) (entry : Nat) : StopPoint :=
  match (g.frag? entry).or (g.bank.head?) with
  | some f => { entry := f.entry, lanes := f.lanes, pc := f.pc, npc := f.pc, header := none, kept := true }
  | none => { entry := entry, lanes := 0, pc := 0, npc := 0, header := none, kept := true }

/-- An instruction of the group has sub-operations still to send: its fragment is held, and no other of the group issues
(R259). -/
def State.sending (s : State) (age : Nat) : Bool := s.remote.any fun r => r.age == age && !r.entered

/-- Put a declined access in its place: the lowest token first (R202). -/
def insertDeclined : List Declined → Declined → List Declined
  | [], d => [d]
  | e :: l, d => if d.token < e.token then d :: e :: l else e :: insertDeclined l d

/-- Deliver the declined access of lowest token, once nothing of the group is parked, and every sub-operation of a remote atomic that it
has begun is sent (R259); a fragment that met the access at
its instruction has it withheld (R202, R203).  In trap mode an access made there is a fault in trap mode, and the
others stay held until the group leaves trap mode. -/
def State.deliverDeclined (s : State) (age : Nat) : State :=
  if s.parked age || s.sending age then s
  else match Map.find? s.groups age with
    | none => s
    | some g => match g.work.declined.find? fun d => !g.flow.trapMode || d.inTrap with
      | none => s
      | some d =>
        let p := g.standing d.entry
        let p' := { p with npc := p.pc + BitVec.ofNat 64 d.len, kept := decide (d.len = 0) }
        let left := g.work.declined.erase d
        let g' := { g with work := { g.work with declined := left } }
        State.takeTrap { s with groups := Map.insert s.groups age g' } age p' d.trap

/-- A declined access: its trap is held until it can be delivered. -/
def State.decline (s : State) (age token : Nat) (t : Trap) (entry len : Nat) (inTrap : Bool) : State :=
  let d : Declined := { token := token, trap := t, entry := entry, len := len, inTrap := inTrap }
  State.deliverDeclined
    (s.onGroup age fun g => { g with work := { g.work with declined := insertDeclined g.work.declined d } }) age

/-- A trap that comes of itself at a fragment, at which an instruction of so many bytes is withheld (0 for none), lands once the remote
atomics that the group has begun are sent (R259). -/
def State.trapSent (s : State) (age : Nat) (p : StopPoint) (len : Nat) (inTrap : Bool) (t : Trap) : State :=
  if s.sending age then s.decline age (2 ^ 32) t p.entry len inTrap else s.takeTrap age p t

/-- The group parks at an instruction, with a fault record that names its unfinished lanes, none for a scalar access
(Table 8.9); with FQSIZE = 0 it is declined at once (R201, R204). -/
def Ctx.parkState (c : Ctx) (s : State) (kind detail : Nat) (lanes : Lane) (a : Word) : State :=
  let p : Park := { token := s.tokens, age := c.age, kind := kind, detail := detail, pc := c.pc, addr := a, lanes := lanes,
                    what := .instruction c.entry c.len }
  let s1 := s.stopIssue c.age
  let s2 := s1.raiseRecord kind detail c.ctx c.core c.g.id.slot c.pc a lanes 0
  if s.fqLog = 0 then s2.decline c.age s.tokens p.declineTrap c.entry c.len c.g.flow.trapMode
  else { s2 with parks := s2.parks ++ [p] }

/-! ## Disturbing a gang (R316, R334, R335) -/

/-- The operations that the other members of the group's gang have latched. -/
def State.partners (s : State) (g : Group) : List Latched :=
  if g.sys.gang.valid then
    (s.core g.id.core).latch.filter fun l => l.wg == g.id.wg && l.cohort == g.sys.gang.cohort && l.pair == g.sys.gang.pair
      && l.age != g.id.age
  else []

/-- Forget an open operation that had no effect (R311). -/
def Work.forgetOp (w : Work) (op : Nat) : Work :=
  { w with openOps := w.openOps.filter (· != op), batches := w.batches.map fun b => { b with ops := b.ops.filter (· != op) } }

/-- A latched operation leaves the latch without effect, and has not issued; its fragment stands at it, ready. -/
def State.unlatch (s : State) (core : Nat) (l : Latched) : State :=
  (s.onCore core fun c => { c with latch := c.latch.filter fun k => k.age != l.age }).onGroup l.age fun g =>
    { g.uncountIssue with
             work := g.uncountIssue.work.forgetOp l.op,
             flow := { g.flow with frags := g.flow.frags.map fun f =>
               if f.entry == l.entry then { f with wait := .ready, hold := .none } else f } }

/-- The stopping point at a latched operation. -/
def State.latchPoint (s : State) (l : Latched) : StopPoint :=
  let lanes := match Map.find? s.groups l.age with
    | some g => ((g.flow.frags.find? fun f => f.entry == l.entry).map (·.lanes)).getD 0
    | none => 0
  { entry := l.entry, lanes := lanes, pc := l.pc, npc := l.pc + 4, header := none, kept := false }

/-- A group takes a trap at its latched operation, which has no effect. -/
def State.trapLatched (s : State) (core : Nat) (l : Latched) (t : Trap) : State :=
  (s.unlatch core l).trapSent l.age (s.latchPoint l) 4 false t

/-- GANG by a disturbance, with the disturbing member's GROUP (Table 15.4). -/
def gangTrap (num word : Nat) : Trap := { cause := .gang, aux := num, word := BitVec.ofNat 64 word }

/-- A disturbance: the partners trap at their latched operations, the disturber's own one is withdrawn, and the disturber
traps at its instruction. -/
def Ctx.disturbState (c : Ctx) (s : State) : State :=
  let s1 := ((s.core c.core).latch.filter fun l => l.age == c.age).foldl (fun t l => t.unlatch c.core l) s
  let s2 := (s.partners c.g).foldl (fun t l => t.trapLatched c.core l (gangTrap c.g.id.num 1)) s1
  s2.takeTrap c.age c.stopPoint (gangTrap c.g.id.num 1)

/-- A disturbing instruction takes GANG while another member has an operation latched. -/
def Ctx.checkDisturb (c : Ctx) (s : State) : Except Stop Unit := need (s.partners c.g).isEmpty .disturb

/-! ## Running a meaning -/

/-- Forget the deferred record of a place in the issue order. -/
def Group.clearRecord (g : Group) (order : Nat) : Group :=
  { g with work := { g.work with failedRemote := g.work.failedRemote.filter (·.order != order),
                                 failedEngine := g.work.failedEngine.filter (·.order != order),
                                 abandoned := g.work.abandoned.filter (·.order != order) } }

/-- The state in which an instruction that did not take its effect leaves the machine. -/
def Ctx.stopped (c : Ctx) (s : State) : Stop → State
  | .trap t => s.takeTrap c.age c.stopPoint t
  | .deferred t order => (s.onGroup c.age (·.clearRecord order)).takeTrap c.age c.stopPoint t
  | .hold h => c.heldState s h
  | .disturb => c.disturbState s
  | .park kind detail lanes a => c.parkState s kind detail lanes a

/-- Execute an instruction of the current fragment: its effect, or what stops it.  A machine with no current fragment
has none to execute. -/
def run (s : State) (body : Ctx → Except Stop State) : Host.Outcome State Fault Refusal :=
  match s.ctx? with
  | none => .fault .noFragment
  | some c => match body c with
    | .ok s' => .next s'
    | .error e => .next (c.stopped s e)

/-! ## Returning from a trap (R371) -/

/-- Leave trap mode: the bank is emptied, and the stopped fragment resumes as `h` gives. -/
def Group.leaveTrap (g : Group) (h : Frag → Frag) : Group :=
  { g with flow := { g.flow with
      trapMode := false, trapFrags := [], trapE := [], trapA := [], stopHeader := none, stopKept := none,
      frags := g.flow.frags.map fun f => if f.entry == g.flow.stopped then h f else f } }

/-- A fragment goes to an address, ready.  A rendezvous operation, a latched operation or an RGROW of it that is pending survives, and
holds it there until it is made (R180; log 82). -/
def Frag.redirect (f : Frag) (target : Word) : Frag :=
  match f.hold with
  | .deposits _ _ | .transfer _ | .latched | .rgrow => { f with pc := target }
  | _ => { f with pc := target, wait := .ready, hold := .none }

/-- A fragment resumes at an address; where the stop withheld no instruction and the address is still that of the stop, it
stands in its kept wait state, or wherever its pending operation has taken it (R180, R371; log 82). -/
def resumeWith (g : Group) (target : Word) (f : Frag) : Frag :=
  if g.flow.stopKept = some target then f else f.redirect (evenPc target)

/-- RTE.retry: the fragment resumes at TRAPPC under the header in force. -/
def resumeRetry (g : Group) (f : Frag) : Frag := resumeWith g g.sys.trapPc f

/-- RTE.skip: the fragment resumes at TRAPNPC; at a header it starts the body. -/
def resumeSkip (g : Group) (f : Frag) : Frag :=
  match g.flow.stopHeader with
  | some h => { f with pc := evenPc g.sys.trapNpc, wait := .ready, hold := .none, header := some h,
                       clauseStart := evenPc g.sys.trapNpc, needHeader := false }
  | none => resumeWith g g.sys.trapNpc f

/-- RTE.r: the fragment goes to the target. -/
def resumeAt (target : Word) (f : Frag) : Frag :=
  { f.redirect target with needHeader := true }

/-- What is held for the end of trap mode: a declined access first (R202), then the abandonments of XSENDs in
order, one at the end of each trap mode (R178). -/
def State.afterTrapMode (s : State) (age : Nat) : State :=
  let s1 := s.deliverDeclined age
  match Map.find? s1.groups age with
  | none => s1
  | some g => match g.work.sendAbandon with
    | [] => s1
    | (entry, t) :: rest =>
      if g.flow.trapMode then s1
      else
        let g' := { g with work := { g.work with sendAbandon := rest } }
        let p := g'.standing entry
        State.takeTrap { s1 with groups := Map.insert s1.groups age g' } age { p with npc := p.pc + 4, kept := false } t

/-- Return from trap mode: `kind` is the trace payload of Table 15.11. -/
def Ctx.returnFromTrap (c : Ctx) (s : State) (kind : Nat) (h : Frag → Frag) : State :=
  let g := (c.advance c.g).leaveTrap h
  let s1 := (c.put s g).traceRecord (s.sessionOf c.g) false c.pc c.f.lanes c.g.who 7 (BitVec.ofNat 64 kind)
  s1.afterTrapMode c.age

end Sys2Proof.Machine
end

