-- ==== Sys2Proof/Machine/Operands.lean ====
section
/-! DEFINITION. The operand forms of the formats (R48, R74, R120, R141, R184): broadcast sources, register runs and
pairs, lane addresses, immediates. -/

namespace Sys2Proof.Machine

/-- The sign-extended immediate of a field (R11). -/
def simm {n : Nat} (i : BitVec n) : Word := i.signExtend 64

/-- The sign-extended immediate of a lane form. -/
def limm {n : Nat} (i : BitVec n) : Lane := i.signExtend 32

/-- Bits [31:0] of a scalar register, as a broadcast source (R48). -/
def Group.s32 (g : Group) (n : BitVec 6) : Lane := (g.s n).setWidth 32

/-- The vb operand of format V3 for a lane: a vector register, or with X = 1 the broadcast scalar (R48, R120). -/
def Ctx.srcB (c : Ctx) (x : Bool) (b : BitVec 7) (l : Nat) : Lane :=
  if x then c.g.s32 (b.setWidth 6) else c.g.v b.toNat l

/-- The vector registers that the vb operand reads: a run of n, or none. -/
def runB (x : Bool) (b : BitVec 7) (n : Nat) : List (Nat × Nat) := if x then [] else [(b.toNat, n)]

/-- Register j of the run that a vector field names, for a lane (R52, R155). -/
def Group.vRun (g : Group) (n j l : Nat) : Lane := g.cell (g.runKey n j) l

/-- The 64-bit value of a register pair of a lane (Table 3.8). -/
def Group.pair (g : Group) (n l : Nat) : Nat := (g.vRun n 1 l).toNat * 2 ^ 32 + (g.vRun n 0 l).toNat

/-- Element k of the vb operand as a pair: a register pair, or with X = 1 the words of the scalar (R141). -/
def Ctx.srcPair (c : Ctx) (x : Bool) (b : BitVec 7) (k l : Nat) : Lane :=
  if x then (if k = 0 then (c.g.s (b.setWidth 6)).setWidth 32 else ((c.g.s (b.setWidth 6)) >>> 32).setWidth 32)
  else c.g.vRun b.toNat k l

/-- The 64-bit value of the vb operand as a pair. -/
def Ctx.srcPair64 (c : Ctx) (x : Bool) (b : BitVec 7) (l : Nat) : Nat :=
  (c.srcPair x b 1 l).toNat * 2 ^ 32 + (c.srcPair x b 0 l).toNat

/-- The effective address of a lane in format M (R184): no offset for vo = 0x7F. -/
def Ctx.laneAddr (c : Ctx) (ox : Bool) (vo : BitVec 7) (sb : BitVec 6) (l : Nat) : Word :=
  if vo = 0x7F#7 then c.g.s sb
  else if ox then c.g.s sb + (c.g.v vo.toNat l).signExtend 64
  else c.g.s sb + (c.g.v vo.toNat l).setWidth 64

/-- The lane offset register of format M, as a run (R183). -/
def runOff (vo : BitVec 7) : List (Nat × Nat) := if vo = 0x7F#7 then [] else [(vo.toNat, 1)]

/-- The address and lane of each active lane in format M. -/
def Ctx.laneAddrs (c : Ctx) (ox : Bool) (vo : BitVec 7) (sb : BitVec 6) : List (Nat × Word) :=
  c.lanes.map fun l => (l, c.laneAddr ox vo sb l)

/-- The address of format MI (R188). -/
def Ctx.scalarAddr (c : Ctx) (i : BitVec 13) (sb : BitVec 6) : Word := c.g.s sb + simm i * 8

/-- The target of a branch: its own address plus 2 × the signed offset (R48, R102). -/
def Ctx.target {n : Nat} (c : Ctx) (o : BitVec n) : Word := c.pc + simm o * 2

/-! ## Vector instructions of fixed latency (R120, R141) -/

/-- A vector instruction: runs read and the run written are checked, entries read are checked for poison, and each
active lane's results, read before any is written, go to the run of the destination with the flags of FPSTAT. -/
def vectorOp (s : State) (rd : List (Nat × Nat)) (d n : Nat) (f : Ctx → Nat → Nat → Lane × Flags) :
    Host.Outcome State Fault Refusal :=
  run s fun c => do
    c.checkRuns ((d, n) :: rd)
    c.checkEcc c.active rd
    let cells := runCells (c.g.vKey d) c.lanes n fun l j => (f c l j).1
    let fl := c.lanes.foldl (fun a l => (List.range n).foldl (fun b j => b ||| (f c l j).2) a) 0#4
    .ok (c.done s ((c.g.setCells cells).orFp fl))

/-- A vector instruction that writes one register and raises no flag. -/
def vectorInt (s : State) (rd : List (Nat × Nat)) (d : Nat) (f : Ctx → Nat → Lane) :
    Host.Outcome State Fault Refusal :=
  run s fun c => do
    c.checkRuns ((d, 1) :: rd)
    c.checkEcc c.active rd
    .ok (c.done s (c.g.setCells (runCells (c.g.vKey d) c.lanes 1 fun l _ => f c l)))

/-- A vector instruction that writes the active lanes' bits of a mask register (R129, R136, R147). -/
def vectorMask (s : State) (rd : List (Nat × Nat)) (m : Nat) (f : Ctx → Nat → Bool) : Host.Outcome State Fault Refusal :=
  run s fun c => do
    c.checkRuns rd
    c.checkEcc c.active rd
    .ok (c.done s (c.g.setMBits m c.active (maskOf (c.lanes.filter (f c)))))

/-! ## Kind-B instructions (R39) -/

/-- A kind-B vector instruction that reads the runs of `rd` and is legal only where those of `runs` and its destination are: its
results are computed from the values read at issue, and written when it completes.  `sw` gives the scalar registers written, by
key. -/
def kindBOver (s : State) (runs rd : List (Nat × Nat)) (d n : Nat) (sw : Ctx → List (Nat × Word)) (fp : Ctx → Flags)
    (f : Ctx → Nat → Nat → Lane) : Host.Outcome State Fault Refusal :=
  run s fun c => do
    c.checkRuns ((d, n) :: runs)
    c.needB
    c.checkEcc c.active rd
    let cells := runCells (c.g.vKey d) c.lanes n fun l j => f c l j
    .ok (c.launch (c.done s c.g) c.flagB none (.result cells (sw c) (fp c)))

/-- A kind-B vector instruction: checked as `vectorOp`. -/
def kindB (s : State) (rd : List (Nat × Nat)) (d n : Nat) (sw : Ctx → List (Nat × Word)) (fp : Ctx → Flags)
    (f : Ctx → Nat → Nat → Lane) : Host.Outcome State Fault Refusal :=
  kindBOver s rd rd d n sw fp f

end Sys2Proof.Machine
end

