-- ==== Sys2Proof/Machine/Flags.lean ====
section
/-! DEFINITION. Conditions and flag computations: compares (Tables 4.5 and 6.7), carries (R126), the flags of the active
lanes together (R68). -/

namespace Sys2Proof.Machine

/-- The condition of Table 4.5 on two words of a width. -/
def cmpHolds {n : Nat} (k : BitVec 4) (a b : BitVec n) : Bool :=
  match k.toNat with
  | 0 => a == b
  | 1 => a != b
  | 2 => BitVec.slt a b
  | 3 => !BitVec.slt a b
  | 4 => BitVec.ult a b
  | 5 => !BitVec.ult a b
  | 6 => BitVec.slt b a
  | 7 => !BitVec.slt b a
  | 8 => BitVec.ult b a
  | 9 => !BitVec.ult b a
  | 10 => a &&& b == 0#n
  | _ => a &&& b != 0#n

/-- The condition of Table 6.7 on two FP32 codes; a NaN makes the pair unordered. -/
def fcmpHolds (k : BitVec 4) (a b : Lane) : Bool :=
  let x := value .fp32 a.toNat
  let y := value .fp32 b.toNat
  let un := x.isNan || y.isNan
  match k.toNat with
  | 0 => !un && leVal x y && leVal y x
  | 1 => un || !(leVal x y && leVal y x)
  | 2 => !un && leVal x y && !leVal y x
  | 3 => !un && leVal x y
  | 4 => !un && leVal y x && !leVal x y
  | 5 => !un && leVal y x
  | 6 => un
  | _ => !un

/-- The flags that the active lanes raise, together (R68). -/
def Ctx.allFlags (c : Ctx) (f : Nat → Flags) : Flags := c.lanes.foldl (fun a l => a ||| f l) 0#4

/-- A result's code and flags as a lane entry and its flags. -/
def laneOf (r : Nat × Flags) : Lane × Flags := (BitVec.ofNat 32 r.1, r.2)

/-- The carry out of an addition of two lane entries and a carry (R126). -/
def carryOut (a b : Lane) (c : Bool) : Bool := decide (2 ^ 32 ≤ a.toNat + b.toNat + c.toNat)

/-- The borrow out of a subtraction (R126). -/
def borrowOut (a b : Lane) (c : Bool) : Bool := decide (a.toNat < b.toNat + c.toNat)

end Sys2Proof.Machine
end

