-- ==== Sys2Proof/Machine/Scalar.lean ====
section
/-! DEFINITION. Scalar arithmetic: majors 0x01, 0x02 and 0x03 (R97 to R101). -/

namespace Sys2Proof.Machine

/-! ## The operations of R98 -/

/-- (ai × bi)[127:64]. -/
def mulHighSigned (a b : Word) : Word := BitVec.ofInt 64 (a.toInt * b.toInt / 2 ^ 64)

/-- (an × bn)[127:64]. -/
def mulHighUnsigned (a b : Word) : Word := BitVec.ofNat 64 (a.toNat * b.toNat / 2 ^ 64)

/-- floor(an / bn), all ones for bn = 0. -/
def divUnsigned (a b : Word) : Word := if b = 0 then BitVec.allOnes 64 else a / b

/-- The shift count b[5:0]. -/
def shift6 (b : Word) : Nat := b.toNat % 64

/-- The smaller of two words as .i64. -/
def minSigned (a b : Word) : Word := if BitVec.slt b a then b else a

/-- The larger of two words as .i64. -/
def maxSigned (a b : Word) : Word := if BitVec.slt a b then b else a

/-- The smaller of two words as .n64. -/
def minUnsigned (a b : Word) : Word := if BitVec.ult b a then b else a

/-- The larger of two words as .n64. -/
def maxUnsigned (a b : Word) : Word := if BitVec.ult a b then b else a

/-- The number of leading zero bits of a value of a width. -/
def leadingZeros (width n : Nat) : Nat := if n = 0 then width else width - 1 - Nat.log2 n

/-- The number of one bits among the lowest k bits. -/
def popCount : Nat → Nat → Nat
  | 0, _ => 0
  | k + 1, n => n % 2 + popCount k (n / 2)

/-- pos and w of a 64-bit field: b[5:0], and b[14:8] limited to 64 − pos. -/
def field64 (b : Word) : Nat × Nat :=
  let pos := b.toNat % 64
  (pos, min (b.toNat / 256 % 128) (64 - pos))

/-- SBFX.n64. -/
def extractUnsigned (a b : Word) : Word :=
  let (pos, w) := field64 b
  BitVec.ofNat 64 (a.toNat / 2 ^ pos % 2 ^ w)

/-- SBFX.i64. -/
def extractSigned (a b : Word) : Word :=
  let (pos, w) := field64 b
  let x := a.toNat / 2 ^ pos % 2 ^ w
  if w = 0 then 0 else if 2 ^ (w - 1) ≤ x then BitVec.ofInt 64 ((x : Int) - 2 ^ w) else BitVec.ofNat 64 x

/-- SBFI: d with bits [pos + w − 1 : pos] := a[w − 1 : 0]. -/
def insertField (d a b : Word) : Word :=
  let (pos, w) := field64 b
  let mask := (2 ^ w - 1) * 2 ^ pos
  (d &&& ~~~(BitVec.ofNat 64 mask)) ||| (BitVec.ofNat 64 (a.toNat % 2 ^ w * 2 ^ pos))

/-! ## Shapes -/

/-- s[sd] := f of s[sa], s[sb] and s[sd]. -/
def scalarOp (s : State) (b a d : BitVec 6) (f : Word → Word → Word → Word) : Host.Outcome State Fault Refusal :=
  run s fun c => .ok (c.done s (c.g.setS d (f (c.g.s a) (c.g.s b) (c.g.s d))))

/-- s[sd] := f of s[sa]. -/
def scalarUnary (s : State) (a d : BitVec 6) (f : Word → Word) : Host.Outcome State Fault Refusal :=
  run s fun c => .ok (c.done s (c.g.setS d (f (c.g.s a))))

/-! ## Major 0x01 -/

/-- SADD (R98). -/
def execSadd (b a d : BitVec 6) (s : State) : Host.Outcome State Fault Refusal := scalarOp s b a d fun x y _ => x + y

/-- SSUB (R98). -/
def execSsub (b a d : BitVec 6) (s : State) : Host.Outcome State Fault Refusal := scalarOp s b a d fun x y _ => x - y

/-- SMUL (R98). -/
def execSmul (b a d : BitVec 6) (s : State) : Host.Outcome State Fault Refusal := scalarOp s b a d fun x y _ => x * y

/-- SMULH.i64 (R98). -/
def execSmulhI64 (b a d : BitVec 6) (s : State) : Host.Outcome State Fault Refusal :=
  scalarOp s b a d fun x y _ => mulHighSigned x y

/-- SMULH.n64 (R98). -/
def execSmulhN64 (b a d : BitVec 6) (s : State) : Host.Outcome State Fault Refusal :=
  scalarOp s b a d fun x y _ => mulHighUnsigned x y

/-- SDIVN (R98). -/
def execSdivn (b a d : BitVec 6) (s : State) : Host.Outcome State Fault Refusal :=
  scalarOp s b a d fun x y _ => divUnsigned x y

/-- SAND (R98). -/
def execSand (b a d : BitVec 6) (s : State) : Host.Outcome State Fault Refusal := scalarOp s b a d fun x y _ => x &&& y

/-- SOR (R98). -/
def execSor (b a d : BitVec 6) (s : State) : Host.Outcome State Fault Refusal := scalarOp s b a d fun x y _ => x ||| y

/-- SXOR (R98). -/
def execSxor (b a d : BitVec 6) (s : State) : Host.Outcome State Fault Refusal := scalarOp s b a d fun x y _ => x ^^^ y

/-- SSHL (R98). -/
def execSshl (b a d : BitVec 6) (s : State) : Host.Outcome State Fault Refusal :=
  scalarOp s b a d fun x y _ => x <<< shift6 y

/-- SSHR (R98). -/
def execSshr (b a d : BitVec 6) (s : State) : Host.Outcome State Fault Refusal :=
  scalarOp s b a d fun x y _ => x >>> shift6 y

/-- SSRA (R98). -/
def execSsra (b a d : BitVec 6) (s : State) : Host.Outcome State Fault Refusal :=
  scalarOp s b a d fun x y _ => x.sshiftRight (shift6 y)

/-- SMIN.i64 (R98). -/
def execSminI64 (b a d : BitVec 6) (s : State) : Host.Outcome State Fault Refusal :=
  scalarOp s b a d fun x y _ => minSigned x y

/-- SMIN.n64 (R98). -/
def execSminN64 (b a d : BitVec 6) (s : State) : Host.Outcome State Fault Refusal :=
  scalarOp s b a d fun x y _ => minUnsigned x y

/-- SMAX.i64 (R98). -/
def execSmaxI64 (b a d : BitVec 6) (s : State) : Host.Outcome State Fault Refusal :=
  scalarOp s b a d fun x y _ => maxSigned x y

/-- SMAX.n64 (R98). -/
def execSmaxN64 (b a d : BitVec 6) (s : State) : Host.Outcome State Fault Refusal :=
  scalarOp s b a d fun x y _ => maxUnsigned x y

/-- SSEL (R98): a where the condition bit is 1, else b. -/
def execSsel (k : BitVec 2) (b a d : BitVec 6) (s : State) : Host.Outcome State Fault Refusal :=
  run s fun c => .ok (c.done s (c.g.setS d (if c.g.c k then c.g.s a else c.g.s b)))

/-- SCLZ (R98). -/
def execSclz (a d : BitVec 6) (s : State) : Host.Outcome State Fault Refusal :=
  scalarUnary s a d fun x => BitVec.ofNat 64 (leadingZeros 64 x.toNat)

/-- SPOPC (R98). -/
def execSpopc (a d : BitVec 6) (s : State) : Host.Outcome State Fault Refusal :=
  scalarUnary s a d fun x => BitVec.ofNat 64 (popCount 64 x.toNat)

/-- SBFX.n64 (R98). -/
def execSbfxN64 (b a d : BitVec 6) (s : State) : Host.Outcome State Fault Refusal :=
  scalarOp s b a d fun x y _ => extractUnsigned x y

/-- SBFX.i64 (R98). -/
def execSbfxI64 (b a d : BitVec 6) (s : State) : Host.Outcome State Fault Refusal :=
  scalarOp s b a d fun x y _ => extractSigned x y

/-- SBFI (R98). -/
def execSbfi (b a d : BitVec 6) (s : State) : Host.Outcome State Fault Refusal :=
  scalarOp s b a d fun x y z => insertField z x y

/-- SCMP (R98, R99): writes one condition bit. -/
def execScmp (b a : BitVec 6) (k : BitVec 4) (n : BitVec 2) (s : State) : Host.Outcome State Fault Refusal :=
  run s fun c => .ok (c.done s (c.g.setC n (cmpHolds k (c.g.s a) (c.g.s b))))

/-- SMOV (R98). -/
def execSmov (a d : BitVec 6) (s : State) : Host.Outcome State Fault Refusal := scalarUnary s a d id

/-! ## Major 0x02: the operand b is the sign-extended immediate (R100) -/

/-- SADD with an immediate. -/
def execSaddImm (imm : BitVec 9) (a d : BitVec 6) (s : State) : Host.Outcome State Fault Refusal :=
  scalarUnary s a d fun x => x + simm imm

/-- SMUL with an immediate. -/
def execSmulImm (imm : BitVec 9) (a d : BitVec 6) (s : State) : Host.Outcome State Fault Refusal :=
  scalarUnary s a d fun x => x * simm imm

/-- SAND with an immediate. -/
def execSandImm (imm : BitVec 9) (a d : BitVec 6) (s : State) : Host.Outcome State Fault Refusal :=
  scalarUnary s a d fun x => x &&& simm imm

/-- SOR with an immediate. -/
def execSorImm (imm : BitVec 9) (a d : BitVec 6) (s : State) : Host.Outcome State Fault Refusal :=
  scalarUnary s a d fun x => x ||| simm imm

/-- SXOR with an immediate. -/
def execSxorImm (imm : BitVec 9) (a d : BitVec 6) (s : State) : Host.Outcome State Fault Refusal :=
  scalarUnary s a d fun x => x ^^^ simm imm

/-- SSHL with an immediate. -/
def execSshlImm (imm a d : BitVec 6) (s : State) : Host.Outcome State Fault Refusal :=
  scalarUnary s a d fun x => x <<< imm.toNat

/-- SSHR with an immediate. -/
def execSshrImm (imm a d : BitVec 6) (s : State) : Host.Outcome State Fault Refusal :=
  scalarUnary s a d fun x => x >>> imm.toNat

/-- SSRA with an immediate. -/
def execSsraImm (imm a d : BitVec 6) (s : State) : Host.Outcome State Fault Refusal :=
  scalarUnary s a d fun x => x.sshiftRight imm.toNat

/-- SMIN.i64 with an immediate. -/
def execSminImm (imm : BitVec 9) (a d : BitVec 6) (s : State) : Host.Outcome State Fault Refusal :=
  scalarUnary s a d fun x => minSigned x (simm imm)

/-- SMAX.i64 with an immediate. -/
def execSmaxImm (imm : BitVec 9) (a d : BitVec 6) (s : State) : Host.Outcome State Fault Refusal :=
  scalarUnary s a d fun x => maxSigned x (simm imm)

/-- SCMP with an immediate. -/
def execScmpImm (imm : BitVec 9) (a : BitVec 6) (k : BitVec 4) (n : BitVec 2) (s : State) :
    Host.Outcome State Fault Refusal :=
  run s fun c => .ok (c.done s (c.g.setC n (cmpHolds k (c.g.s a) (simm imm))))

/-! ## Major 0x03 (R101) -/

/-- SLI: s[sd] := sext(imm18, 64). -/
def execSli (imm : BitVec 18) (d : BitVec 6) (s : State) : Host.Outcome State Fault Refusal :=
  run s fun c => .ok (c.done s (c.g.setS d (simm imm)))

/-- SLIH: bits [16h + 15 : 16h] of s[sd] := imm16. -/
def execSlih (h : BitVec 2) (imm : BitVec 16) (d : BitVec 6) (s : State) : Host.Outcome State Fault Refusal :=
  run s fun c =>
    let mask := BitVec.ofNat 64 (0xFFFF * 2 ^ (16 * h.toNat))
    .ok (c.done s (c.g.setS d ((c.g.s d &&& ~~~mask) ||| BitVec.ofNat 64 (imm.toNat * 2 ^ (16 * h.toNat)))))

end Sys2Proof.Machine
end

