-- ==== Sys2Proof/Machine/Integer.lean ====
section
/-! DEFINITION. Vector integer, logic and mask instructions: majors 0x08 to 0x0F and 0x1F (R120 to R136), and the 16-bit
integer forms (R44 to R46). -/

namespace Sys2Proof.Machine

/-! ## The operations of R123 to R126 on one lane -/

/-- (ai × bi)[63:32] (R123). -/
def laneMulHigh (a b : Lane) : Lane := BitVec.ofInt 32 (a.toInt * b.toInt / 2 ^ 32)

/-- The smaller as .i32. -/
def laneMin (a b : Lane) : Lane := if BitVec.slt b a then b else a

/-- The larger as .i32. -/
def laneMax (a b : Lane) : Lane := if BitVec.slt a b then b else a

/-- |ai - bi| (R123). -/
def laneAbsDiff (a b : Lane) : Lane := BitVec.ofNat 32 (a.toInt - b.toInt).natAbs

/-- Byte k of a lane entry, sign-extended. -/
def byteInt (a : Lane) (k : Nat) : Int := (BitVec.extractLsb' (8 * k) 8 a).toInt

/-- VDOT4.i8 (R123). -/
def laneDot4 (d a b : Lane) : Lane :=
  BitVec.ofInt 32 (d.toInt + byteInt a 0 * byteInt b 0 + byteInt a 1 * byteInt b 1 + byteInt a 2 * byteInt b 2
    + byteInt a 3 * byteInt b 3)

/-- The shift count b[4:0] (R124). -/
def shift5 (b : Lane) : Nat := b.toNat % 32

/-- VFSHL: cat(d, a)[63 - sh : 32 - sh] (Table 5.3). -/
def laneFunnelLeft (d a b : Lane) : Lane := BitVec.extractLsb' (32 - shift5 b) 32 (d ++ a)

/-- VFSHR: cat(a, d)[31 + sh : sh] (Table 5.3). -/
def laneFunnelRight (d a b : Lane) : Lane := BitVec.extractLsb' (shift5 b) 32 (a ++ d)

/-- Bits of a lane entry in the opposite order (R125). -/
def laneReverse (a : Lane) : Lane := (List.range 32).foldl (fun r k => if a.getLsbD k then r ||| laneBit (31 - k) else r) 0

/-- pos and w of a 32-bit field: b[4:0], and b[13:8] limited to 32 - pos (R126). -/
def field32 (b : Lane) : Nat × Nat :=
  let pos := b.toNat % 32
  (pos, min (b.toNat / 256 % 64) (32 - pos))

/-- VBFX.n32 (R126). -/
def laneExtractUnsigned (a b : Lane) : Lane :=
  let (pos, w) := field32 b
  BitVec.ofNat 32 (a.toNat / 2 ^ pos % 2 ^ w)

/-- VBFX.i32 (R126). -/
def laneExtractSigned (a b : Lane) : Lane :=
  let (pos, w) := field32 b
  let x := a.toNat / 2 ^ pos % 2 ^ w
  if w = 0 then 0 else if 2 ^ (w - 1) ≤ x then BitVec.ofInt 32 ((x : Int) - 2 ^ w) else BitVec.ofNat 32 x

/-- VBFI (R126). -/
def laneInsert (d a b : Lane) : Lane :=
  let (pos, w) := field32 b
  (d &&& ~~~(BitVec.ofNat 32 ((2 ^ w - 1) * 2 ^ pos))) ||| BitVec.ofNat 32 (a.toNat % 2 ^ w * 2 ^ pos)

/-- One bit of VLOP3: the truth-table bit that three inputs select (R128). -/
def laneLop3 (t : BitVec 8) (d a b : Lane) : Lane :=
  (List.range 32).foldl (fun r k =>
    if t.getLsbD (4 * (a.getLsbD k).toNat + 2 * (b.getLsbD k).toNat + (d.getLsbD k).toNat) then r ||| laneBit k else r) 0

/-! ## Shapes -/

/-- A form of format V3: va and vb read (R120). -/
def laneOp (s : State) (x : Bool) (b a d : BitVec 7) (f : Lane → Lane → Lane) : Host.Outcome State Fault Refusal :=
  vectorInt s ((a.toNat, 1) :: runB x b 1) d.toNat fun c l => f (c.g.v a.toNat l) (c.srcB x b l)

/-- A form of format V3 that also reads vd. -/
def laneOp3 (s : State) (x : Bool) (b a d : BitVec 7) (f : Lane → Lane → Lane → Lane) :
    Host.Outcome State Fault Refusal :=
  vectorInt s ((d.toNat, 1) :: (a.toNat, 1) :: runB x b 1) d.toNat
    fun c l => f (c.g.v d.toNat l) (c.g.v a.toNat l) (c.srcB x b l)

/-- A form that reads va alone. -/
def laneUnary (s : State) (a d : BitVec 7) (f : Lane → Lane) : Host.Outcome State Fault Refusal :=
  vectorInt s [(a.toNat, 1)] d.toNat fun c l => f (c.g.v a.toNat l)

/-- The source of a 16-bit form: v0 to v31, or with X = 1 bits [31:0] of s0 to s31 (R44, R45). -/
def shortRun (x : Bool) (src : BitVec 5) : List (Nat × Nat) := if x then [] else [(src.toNat, 1)]

/-- The source of a 16-bit form for a lane. -/
def Ctx.shortSrc (c : Ctx) (x : Bool) (src : BitVec 5) (l : Nat) : Lane :=
  if x then c.g.s32 (src.setWidth 6) else c.g.v src.toNat l

/-- A 16-bit form: vd is its first source and its destination (R44, R45). -/
def shortOp (s : State) (x : Bool) (src d : BitVec 5) (f : Lane → Lane → Lane) : Host.Outcome State Fault Refusal :=
  vectorInt s ((d.toNat, 1) :: shortRun x src) d.toNat fun c l => f (c.g.v d.toNat l) (c.shortSrc x src l)

/-! ## 16-bit forms (Table 2.3) -/

/-- VMOV; with X = 0 and vd = vs it reads and writes nothing (R46). -/
def execVmov16 (x : Bool) (src d : BitVec 5) (s : State) : Host.Outcome State Fault Refusal :=
  if !x && src == d then run s fun c => .ok (c.done s c.g)
  else vectorInt s (shortRun x src) d.toNat fun c l => c.shortSrc x src l

/-- VADD vd, vs (Table 2.3). -/
def execVadd16 (x : Bool) (src d : BitVec 5) (s : State) : Host.Outcome State Fault Refusal :=
  shortOp s x src d fun a b => a + b

/-- VSUB vd, vs (Table 2.3). -/
def execVsub16 (x : Bool) (src d : BitVec 5) (s : State) : Host.Outcome State Fault Refusal :=
  shortOp s x src d fun a b => a - b

/-- VMUL vd, vs (Table 2.3). -/
def execVmul16 (x : Bool) (src d : BitVec 5) (s : State) : Host.Outcome State Fault Refusal :=
  shortOp s x src d fun a b => a * b

/-- VAND vd, vs (Table 2.3). -/
def execVand16 (x : Bool) (src d : BitVec 5) (s : State) : Host.Outcome State Fault Refusal :=
  shortOp s x src d fun a b => a &&& b

/-- VOR vd, vs (Table 2.3). -/
def execVor16 (x : Bool) (src d : BitVec 5) (s : State) : Host.Outcome State Fault Refusal :=
  shortOp s x src d fun a b => a ||| b

/-- VXOR vd, vs (Table 2.3). -/
def execVxor16 (x : Bool) (src d : BitVec 5) (s : State) : Host.Outcome State Fault Refusal :=
  shortOp s x src d fun a b => a ^^^ b

/-- VSHL vd, vs (Table 2.3). -/
def execVshl16 (x : Bool) (src d : BitVec 5) (s : State) : Host.Outcome State Fault Refusal :=
  shortOp s x src d fun a b => a <<< shift5 b

/-- VSHR vd, vs (Table 2.3). -/
def execVshr16 (x : Bool) (src d : BitVec 5) (s : State) : Host.Outcome State Fault Refusal :=
  shortOp s x src d fun a b => a >>> shift5 b

/-- VSRA vd, vs (Table 2.3). -/
def execVsra16 (x : Bool) (src d : BitVec 5) (s : State) : Host.Outcome State Fault Refusal :=
  shortOp s x src d fun a b => a.sshiftRight (shift5 b)

/-- VADDI vd, imm (Table 2.3). -/
def execVaddi16 (imm d : BitVec 5) (s : State) : Host.Outcome State Fault Refusal :=
  vectorInt s [(d.toNat, 1)] d.toNat fun c l => c.g.v d.toNat l + limm imm

/-! ## Major 0x08 (R123) -/

/-- VADD. -/
def execVadd (x : Bool) (b a d : BitVec 7) (s : State) : Host.Outcome State Fault Refusal :=
  laneOp s x b a d fun a b => a + b

/-- VSUB. -/
def execVsub (x : Bool) (b a d : BitVec 7) (s : State) : Host.Outcome State Fault Refusal :=
  laneOp s x b a d fun a b => a - b

/-- VMUL. -/
def execVmul (x : Bool) (b a d : BitVec 7) (s : State) : Host.Outcome State Fault Refusal :=
  laneOp s x b a d fun a b => a * b

/-- VMULH.i32. -/
def execVmulh (x : Bool) (b a d : BitVec 7) (s : State) : Host.Outcome State Fault Refusal :=
  laneOp s x b a d laneMulHigh

/-- VMIN.i32. -/
def execVmin (x : Bool) (b a d : BitVec 7) (s : State) : Host.Outcome State Fault Refusal :=
  laneOp s x b a d laneMin

/-- VMAX.i32. -/
def execVmax (x : Bool) (b a d : BitVec 7) (s : State) : Host.Outcome State Fault Refusal :=
  laneOp s x b a d laneMax

/-- VABSD.i32. -/
def execVabsd (x : Bool) (b a d : BitVec 7) (s : State) : Host.Outcome State Fault Refusal :=
  laneOp s x b a d laneAbsDiff

/-- VDOT4.i8. -/
def execVdot4 (x : Bool) (b a d : BitVec 7) (s : State) : Host.Outcome State Fault Refusal :=
  laneOp3 s x b a d laneDot4

/-! ## Major 0x09 (R124) -/

/-- VAND. -/
def execVand (x : Bool) (b a d : BitVec 7) (s : State) : Host.Outcome State Fault Refusal :=
  laneOp s x b a d fun a b => a &&& b

/-- VOR. -/
def execVor (x : Bool) (b a d : BitVec 7) (s : State) : Host.Outcome State Fault Refusal :=
  laneOp s x b a d fun a b => a ||| b

/-- VXOR. -/
def execVxor (x : Bool) (b a d : BitVec 7) (s : State) : Host.Outcome State Fault Refusal :=
  laneOp s x b a d fun a b => a ^^^ b

/-- VSHL. -/
def execVshl (x : Bool) (b a d : BitVec 7) (s : State) : Host.Outcome State Fault Refusal :=
  laneOp s x b a d fun a b => a <<< shift5 b

/-- VSHR. -/
def execVshr (x : Bool) (b a d : BitVec 7) (s : State) : Host.Outcome State Fault Refusal :=
  laneOp s x b a d fun a b => a >>> shift5 b

/-- VSRA. -/
def execVsra (x : Bool) (b a d : BitVec 7) (s : State) : Host.Outcome State Fault Refusal :=
  laneOp s x b a d fun a b => a.sshiftRight (shift5 b)

/-- VFSHL. -/
def execVfshl (x : Bool) (b a d : BitVec 7) (s : State) : Host.Outcome State Fault Refusal :=
  laneOp3 s x b a d laneFunnelLeft

/-- VFSHR. -/
def execVfshr (x : Bool) (b a d : BitVec 7) (s : State) : Host.Outcome State Fault Refusal :=
  laneOp3 s x b a d laneFunnelRight

/-! ## Major 0x0A (R125, R126) -/

/-- VPOPC. -/
def execVpopc (a d : BitVec 7) (s : State) : Host.Outcome State Fault Refusal :=
  laneUnary s a d fun a => BitVec.ofNat 32 (popCount 32 a.toNat)

/-- VCLZ. -/
def execVclz (a d : BitVec 7) (s : State) : Host.Outcome State Fault Refusal :=
  laneUnary s a d fun a => BitVec.ofNat 32 (leadingZeros 32 a.toNat)

/-- VBREV. -/
def execVbrev (a d : BitVec 7) (s : State) : Host.Outcome State Fault Refusal :=
  laneUnary s a d laneReverse

/-- VNOT. -/
def execVnot (a d : BitVec 7) (s : State) : Host.Outcome State Fault Refusal :=
  laneUnary s a d fun a => ~~~a

/-- VBFX.n32. -/
def execVbfxN32 (x : Bool) (b a d : BitVec 7) (s : State) : Host.Outcome State Fault Refusal :=
  laneOp s x b a d laneExtractUnsigned

/-- VBFX.i32. -/
def execVbfxI32 (x : Bool) (b a d : BitVec 7) (s : State) : Host.Outcome State Fault Refusal :=
  laneOp s x b a d laneExtractSigned

/-- VBFI. -/
def execVbfi (x : Bool) (b a d : BitVec 7) (s : State) : Host.Outcome State Fault Refusal :=
  laneOp3 s x b a d laneInsert

/-- A carry form: the result of each active lane from its carry bit of m7, which takes the carry-out (R126). -/
def carryOp (s : State) (x : Bool) (b a d : BitVec 7) (f : Lane → Lane → Bool → Lane) (carry : Lane → Lane → Bool → Bool) :
    Host.Outcome State Fault Refusal :=
  run s fun c => do
    let rd := (a.toNat, 1) :: runB x b 1
    c.checkRuns ((d.toNat, 1) :: rd)
    c.checkEcc c.active rd
    let m := c.g.m 7
    let cells := runCells (c.g.vKey d.toNat) c.lanes 1 fun l _ => f (c.g.v a.toNat l) (c.srcB x b l) (m.getLsbD l)
    let outs := maskOf (c.lanes.filter fun l => carry (c.g.v a.toNat l) (c.srcB x b l) (m.getLsbD l))
    .ok (c.done s ((c.g.setCells cells).setMBits 7 c.active outs))

/-- VADDC. -/
def execVaddc (x : Bool) (b a d : BitVec 7) (s : State) : Host.Outcome State Fault Refusal :=
  carryOp s x b a d (fun p q k => p + q + BitVec.ofNat 32 k.toNat) carryOut

/-- VSUBB. -/
def execVsubb (x : Bool) (b a d : BitVec 7) (s : State) : Host.Outcome State Fault Refusal :=
  carryOp s x b a d (fun p q k => p - q - BitVec.ofNat 32 k.toNat) borrowOut

/-! ## Major 0x0B (R127) -/

/-- VADDI. -/
def execVaddi (imm : BitVec 8) (a d : BitVec 7) (s : State) : Host.Outcome State Fault Refusal :=
  laneUnary s a d fun a => a + limm imm

/-- VANDI. -/
def execVandi (imm : BitVec 8) (a d : BitVec 7) (s : State) : Host.Outcome State Fault Refusal :=
  laneUnary s a d fun a => a &&& limm imm

/-- VORI. -/
def execVori (imm : BitVec 8) (a d : BitVec 7) (s : State) : Host.Outcome State Fault Refusal :=
  laneUnary s a d fun a => a ||| limm imm

/-- VXORI. -/
def execVxori (imm : BitVec 8) (a d : BitVec 7) (s : State) : Host.Outcome State Fault Refusal :=
  laneUnary s a d fun a => a ^^^ limm imm

/-- VSHLI. -/
def execVshli (imm : BitVec 5) (a d : BitVec 7) (s : State) : Host.Outcome State Fault Refusal :=
  laneUnary s a d fun a => a <<< imm.toNat

/-- VSHRI. -/
def execVshri (imm : BitVec 5) (a d : BitVec 7) (s : State) : Host.Outcome State Fault Refusal :=
  laneUnary s a d fun a => a >>> imm.toNat

/-- VSRAI. -/
def execVsrai (imm : BitVec 5) (a d : BitVec 7) (s : State) : Host.Outcome State Fault Refusal :=
  laneUnary s a d fun a => a.sshiftRight imm.toNat

/-- VLI. -/
def execVli (imm : BitVec 15) (d : BitVec 7) (s : State) : Host.Outcome State Fault Refusal :=
  vectorInt s [] d.toNat fun _ _ => limm imm

/-! ## Majors 0x0C, 0x0D and 0x0E (R128, R129) -/

/-- VLOP3. -/
def execVlop3 (t : BitVec 8) (b a d : BitVec 6) (s : State) : Host.Outcome State Fault Refusal :=
  vectorInt s [(d.toNat, 1), (a.toNat, 1), (b.toNat, 1)] d.toNat
    fun c l => laneLop3 t (c.g.v d.toNat l) (c.g.v a.toNat l) (c.g.v b.toNat l)

/-- VICMP: writes the active lanes' bits of a mask register. -/
def execVicmp (x : Bool) (b a : BitVec 7) (k : BitVec 4) (m : BitVec 3) (s : State) : Host.Outcome State Fault Refusal :=
  vectorMask s ((a.toNat, 1) :: runB x b 1) m.toNat fun c l => cmpHolds k (c.g.v a.toNat l) (c.srcB x b l)

/-! ## Major 0x0F (R130 to R132) -/

/-- VSEL: a where the lane's bit of m6 is 1, else b. -/
def execVsel (x : Bool) (b a d : BitVec 7) (s : State) : Host.Outcome State Fault Refusal :=
  vectorInt s ((a.toNat, 1) :: runB x b 1) d.toNat
    fun c l => if (c.g.m 6).getLsbD l then c.g.v a.toNat l else c.srcB x b l

/-- VMOVS (R131): the entry of the lane that s[sb] names, if that lane is active, else 0. -/
def execVmovs (b : BitVec 6) (a : BitVec 7) (d : BitVec 6) (s : State) : Host.Outcome State Fault Refusal :=
  run s fun c => do
    c.checkRuns [(a.toNat, 1)]
    let n := (c.g.s b).toNat % 32
    let here := c.active.getLsbD n
    c.checkEcc (if here then laneBit n else 0) [(a.toNat, 1)]
    .ok (c.done s (c.g.setS d (if here then (c.g.v a.toNat n).setWidth 64 else 0)))

/-- VMOVXL: the lane number plus b. -/
def execVmovxl (x : Bool) (b d : BitVec 7) (s : State) : Host.Outcome State Fault Refusal :=
  vectorInt s (runB x b 1) d.toNat fun c l => BitVec.ofNat 32 l + c.srcB x b l

/-- VMOV. -/
def execVmov (x : Bool) (b d : BitVec 7) (s : State) : Host.Outcome State Fault Refusal :=
  vectorInt s (runB x b 1) d.toNat fun c l => c.srcB x b l

/-- The lowest active lane whose computed register lies beyond the allocation takes ILLEGAL, named in the record
(R132). -/
def Ctx.checkIndices (c : Ctx) (n : Nat → Nat) : Except Stop Unit :=
  match c.lanes.find? fun l => decide (c.g.regs.alloc ≤ n l) with
  | none => .ok ()
  | some l => .error (.trap { cause := .illegal, lane := l, word := BitVec.ofNat 64 c.word })

/-- VMOVX (R132): each active lane reads the register that its index names from the base va. -/
def execVmovx (x : Bool) (b a d : BitVec 7) (s : State) : Host.Outcome State Fault Refusal :=
  run s fun c => do
    c.checkRuns ((d.toNat, 1) :: runB x b 1)
    let n := fun l => a.toNat + (c.srcB x b l).toNat
    c.checkCells fun k l => c.active.getLsbD l && ((runB x b 1).any (fun r => k == c.g.vKey r.1) || (k == n l && decide (k < 512)))
    c.checkIndices n
    .ok (c.done s (c.g.setCells (runCells (c.g.vKey d.toNat) c.lanes 1 fun l _ => c.g.cell (n l) l)))

/-- VMOVXW (R132): each active lane writes the register that its index names from the base vd. -/
def execVmovxw (x : Bool) (b a d : BitVec 7) (s : State) : Host.Outcome State Fault Refusal :=
  run s fun c => do
    let rd := (a.toNat, 1) :: runB x b 1
    c.checkRuns rd
    c.checkEcc c.active rd
    let n := fun l => d.toNat + (c.srcB x b l).toNat
    c.checkIndices n
    .ok (c.done s (c.g.setCells (c.lanes.map fun l => (32 * n l + l, c.g.v a.toNat l))))

/-! ## Major 0x1F (R134, R135) -/

/-- MAND. -/
def execMand (k b a : BitVec 3) (s : State) : Host.Outcome State Fault Refusal :=
  run s fun c => .ok (c.done s (c.g.setM a.toNat (c.g.m b.toNat &&& c.g.m k.toNat)))

/-- MOR. -/
def execMor (k b a : BitVec 3) (s : State) : Host.Outcome State Fault Refusal :=
  run s fun c => .ok (c.done s (c.g.setM a.toNat (c.g.m b.toNat ||| c.g.m k.toNat)))

/-- MXOR. -/
def execMxor (k b a : BitVec 3) (s : State) : Host.Outcome State Fault Refusal :=
  run s fun c => .ok (c.done s (c.g.setM a.toNat (c.g.m b.toNat ^^^ c.g.m k.toNat)))

/-- MNOT. -/
def execMnot (b a : BitVec 3) (s : State) : Host.Outcome State Fault Refusal :=
  run s fun c => .ok (c.done s (c.g.setM a.toNat (~~~c.g.m b.toNat)))

/-- MPOP. -/
def execMpop (b : BitVec 3) (d : BitVec 6) (s : State) : Host.Outcome State Fault Refusal :=
  run s fun c => .ok (c.done s (c.g.setS d (BitVec.ofNat 64 (popCount 32 (c.g.m b.toNat).toNat))))

/-- MFIND. -/
def execMfind (b : BitVec 3) (d : BitVec 6) (s : State) : Host.Outcome State Fault Refusal :=
  run s fun c => .ok (c.done s (c.g.setS d (BitVec.ofNat 64 (lowestLane (c.g.m b.toNat)))))

/-- MSET. -/
def execMset (src : BitVec 6) (a : BitVec 3) (s : State) : Host.Outcome State Fault Refusal :=
  run s fun c => .ok (c.done s (c.g.setM a.toNat (c.g.s32 src)))

/-- MGET. -/
def execMget (b : BitVec 3) (d : BitVec 6) (s : State) : Host.Outcome State Fault Refusal :=
  run s fun c => .ok (c.done s (c.g.setS d ((c.g.m b.toNat).setWidth 64)))

/-- MGET.lanes: the fragment's lanes. -/
def execMgetLanes (d : BitVec 6) (s : State) : Host.Outcome State Fault Refusal :=
  run s fun c => .ok (c.done s (c.g.setS d (c.f.lanes.setWidth 64)))

end Sys2Proof.Machine
end

