-- ==== Sys2Proof/Machine/Float.lean ====
section
/-! DEFINITION. Fixed-latency floating point: majors 0x10 to 0x15 (R141 to R150), and the 16-bit floating forms. -/

namespace Sys2Proof.Machine

/-! ## Operations on one lane -/

/-- VFSCALE (R143): a × 2^bi, rounded once. -/
def laneScale (mode : Mode) (a b : Lane) : Nat × Flags :=
  match value .fp32 a.toNat with
  | .nan => (Fmt.nanCode .fp32, 0#4)
  | .inf _ => (a.toNat, 0#4)
  | .fin n m e => if m = 0 then (a.toNat, 0#4) else roundVal .fp32 mode 0 (.fin n m (e + b.toInt))

/-- VFRND (R146): the integral value that the mode chooses, with the sign kept. -/
def laneRound (mode : Mode) (a : Lane) : Lane :=
  match value .fp32 a.toNat with
  | .nan => BitVec.ofNat 32 (Fmt.nanCode .fp32)
  | .inf _ => a
  | .fin n m e =>
    if m = 0 then a
    else
      let (p, q) := scaled m 1 e
      let k := p / q + (if roundsUp mode n (p / q) (p % q) q 0 then 1 else 0)
      BitVec.ofNat 32 (roundVal .fp32 .rne 0 (.fin n k 0)).1

/-- VFCLASS (R146): one bit that names the class. -/
def laneClass (a : Lane) : Lane :=
  let k := match value .fp32 a.toNat with
    | .nan => 8
    | .inf n => if n then 0 else 7
    | .fin n m _ =>
      if m = 0 then (if n then 3 else 4)
      else if a.toNat / 2 ^ 23 % 256 = 0 then (if n then 2 else 5)
      else if n then 1 else 6
  BitVec.ofNat 32 (2 ^ k)

/-- VFEXPO (R146): floor(log2 |a|) as .i32. -/
def laneExponent (a : Lane) : Lane :=
  match value .fp32 a.toNat with
  | .nan => 0x7FFFFFFF
  | .inf _ => 0x7FFFFFFF
  | .fin _ m e => if m = 0 then 0x80000000 else BitVec.ofInt 32 (Nat.log2 m + e)

/-- The two 16-bit elements of an entry combined element by element (R149). -/
def halves (f : Nat → Nat → Nat → Nat × Flags) (d a b : Lane) : Lane × Flags :=
  let lo := f (a.toNat % 65536) (b.toNat % 65536) (d.toNat % 65536)
  let hi := f (a.toNat / 65536) (b.toNat / 65536) (d.toNat / 65536)
  (BitVec.ofNat 32 (hi.1 * 65536 + lo.1), lo.2 ||| hi.2)

/-! ## Shapes -/

/-- A form of majors 0x10 and 0x14: results from vd, va and vb, under FPCTL.RM.  `readD` says whether vd is read. -/
def floatOp (s : State) (readD x : Bool) (b a d : BitVec 7) (f : Mode → Lane → Lane → Lane → Lane × Flags) :
    Host.Outcome State Fault Refusal :=
  vectorOp s ((if readD then [(d.toNat, 1)] else []) ++ (a.toNat, 1) :: runB x b 1) d.toNat 1
    fun c l _ => f c.g.mode (c.g.v d.toNat l) (c.g.v a.toNat l) (c.srcB x b l)

/-- A form of major 0x13: element k of a pair from element k of its operands (R148). -/
def pairOp (s : State) (readD x : Bool) (b a d : BitVec 7) (f : Mode → Nat → Nat → Nat → Nat × Flags) :
    Host.Outcome State Fault Refusal :=
  vectorOp s ((if readD then [(d.toNat, 2)] else []) ++ (a.toNat, 2) :: runB x b 2) d.toNat 2
    fun c l k => laneOf (f c.g.mode (c.g.vRun a.toNat k l).toNat (c.srcPair x b k l).toNat (c.g.vRun d.toNat k l).toNat)

/-- A form of major 0x15: the two words of an FP64 result (R150). -/
def doubleOp (s : State) (readD x : Bool) (b a d : BitVec 7) (f : Mode → Nat → Nat → Nat → Nat × Flags) :
    Host.Outcome State Fault Refusal :=
  vectorOp s ((if readD then [(d.toNat, 2)] else []) ++ (a.toNat, 2) :: runB x b 2) d.toNat 2
    fun c l k =>
      let r := f c.g.mode (c.g.pair a.toNat l) (c.srcPair64 x b l) (c.g.pair d.toNat l)
      (BitVec.ofNat 32 (r.1 / 2 ^ (32 * k)), r.2)

/-- A 16-bit floating form (Table 2.3). -/
def shortFloat (s : State) (x : Bool) (src d : BitVec 5) (f : Mode → Lane → Lane → Lane × Flags) :
    Host.Outcome State Fault Refusal :=
  vectorOp s ((d.toNat, 1) :: shortRun x src) d.toNat 1
    fun c l _ => f c.g.mode (c.g.v d.toNat l) (c.shortSrc x src l)

/-! ## 16-bit forms (Table 2.3) -/

/-- VFADD vd, vs. -/
def execVfadd16 (x : Bool) (src d : BitVec 5) (s : State) : Host.Outcome State Fault Refusal :=
  shortFloat s x src d fun m a b => laneOf (fadd .fp32 m a.toNat b.toNat)

/-- VFSUB vd, vs. -/
def execVfsub16 (x : Bool) (src d : BitVec 5) (s : State) : Host.Outcome State Fault Refusal :=
  shortFloat s x src d fun m a b => laneOf (fsub .fp32 m a.toNat b.toNat)

/-- VFMUL vd, vs. -/
def execVfmul16 (x : Bool) (src d : BitVec 5) (s : State) : Host.Outcome State Fault Refusal :=
  shortFloat s x src d fun m a b => laneOf (fmul .fp32 m a.toNat b.toNat)

/-- VFMIN vd, vs. -/
def execVfmin16 (x : Bool) (src d : BitVec 5) (s : State) : Host.Outcome State Fault Refusal :=
  shortFloat s x src d fun _ a b => laneOf (fminmax .fp32 false a.toNat b.toNat, 0#4)

/-- VFMAX vd, vs. -/
def execVfmax16 (x : Bool) (src d : BitVec 5) (s : State) : Host.Outcome State Fault Refusal :=
  shortFloat s x src d fun _ a b => laneOf (fminmax .fp32 true a.toNat b.toNat, 0#4)

/-! ## Major 0x10 (R143) -/

/-- VFADD. -/
def execVfadd (x : Bool) (b a d : BitVec 7) (s : State) : Host.Outcome State Fault Refusal :=
  floatOp s false x b a d fun m _ a b => laneOf (fadd .fp32 m a.toNat b.toNat)

/-- VFSUB. -/
def execVfsub (x : Bool) (b a d : BitVec 7) (s : State) : Host.Outcome State Fault Refusal :=
  floatOp s false x b a d fun m _ a b => laneOf (fsub .fp32 m a.toNat b.toNat)

/-- VFMUL. -/
def execVfmul (x : Bool) (b a d : BitVec 7) (s : State) : Host.Outcome State Fault Refusal :=
  floatOp s false x b a d fun m _ a b => laneOf (fmul .fp32 m a.toNat b.toNat)

/-- VFMIN. -/
def execVfmin (x : Bool) (b a d : BitVec 7) (s : State) : Host.Outcome State Fault Refusal :=
  floatOp s false x b a d fun _ _ a b => laneOf (fminmax .fp32 false a.toNat b.toNat, 0#4)

/-- VFMAX. -/
def execVfmax (x : Bool) (b a d : BitVec 7) (s : State) : Host.Outcome State Fault Refusal :=
  floatOp s false x b a d fun _ _ a b => laneOf (fminmax .fp32 true a.toNat b.toNat, 0#4)

/-- VFMA. -/
def execVfma (x : Bool) (b a d : BitVec 7) (s : State) : Host.Outcome State Fault Refusal :=
  floatOp s true x b a d fun m d a b => laneOf (fma .fp32 m false a.toNat b.toNat d.toNat)

/-- VFSCALE. -/
def execVfscale (x : Bool) (b a d : BitVec 7) (s : State) : Host.Outcome State Fault Refusal :=
  floatOp s false x b a d fun m _ a b => laneOf (laneScale m a b)

/-- VFCPYS. -/
def execVfcpys (x : Bool) (b a d : BitVec 7) (s : State) : Host.Outcome State Fault Refusal :=
  floatOp s false x b a d fun _ _ a b => ((a &&& 0x7FFFFFFF) ||| (b &&& 0x80000000), 0#4)

/-! ## Major 0x11 (R144) -/

/-- VFMAD: the product negated where N is 1. -/
def execVfmad (n : Bool) (k b a d : BitVec 6) (s : State) : Host.Outcome State Fault Refusal :=
  vectorOp s [(a.toNat, 1), (b.toNat, 1), (k.toNat, 1)] d.toNat 1 fun c l _ =>
    laneOf (fma .fp32 c.g.mode n (c.g.v a.toNat l).toNat (c.g.v b.toNat l).toNat (c.g.v k.toNat l).toNat)

/-! ## Major 0x12 (R145 to R147) -/

/-- VFABS. -/
def execVfabs (a d : BitVec 7) (s : State) : Host.Outcome State Fault Refusal :=
  laneUnary s a d fun a => a &&& 0x7FFFFFFF

/-- VFNEG. -/
def execVfneg (a d : BitVec 7) (s : State) : Host.Outcome State Fault Refusal :=
  laneUnary s a d fun a => a ^^^ 0x80000000

/-- VFCLASS. -/
def execVfclass (a d : BitVec 7) (s : State) : Host.Outcome State Fault Refusal :=
  laneUnary s a d laneClass

/-- VFEXPO. -/
def execVfexpo (a d : BitVec 7) (s : State) : Host.Outcome State Fault Refusal :=
  laneUnary s a d laneExponent

/-- VFRND under the mode of its own field. -/
def execVfrnd (r : BitVec 2) (a d : BitVec 7) (s : State) : Host.Outcome State Fault Refusal :=
  laneUnary s a d (laneRound (Mode.ofCode r.toNat))

/-- VFCMP: writes the active lanes' bits of a mask register. -/
def execVfcmp (x : Bool) (b a : BitVec 7) (k : BitVec 4) (m : BitVec 3) (s : State) : Host.Outcome State Fault Refusal :=
  vectorMask s ((a.toNat, 1) :: runB x b 1) m.toNat fun c l => fcmpHolds k (c.g.v a.toNat l) (c.srcB x b l)

/-! ## Major 0x13 (R148) -/

/-- VPFADD. -/
def execVpfadd (x : Bool) (b a d : BitVec 7) (s : State) : Host.Outcome State Fault Refusal :=
  pairOp s false x b a d fun m a b _ => fadd .fp32 m a b

/-- VPFMUL. -/
def execVpfmul (x : Bool) (b a d : BitVec 7) (s : State) : Host.Outcome State Fault Refusal :=
  pairOp s false x b a d fun m a b _ => fmul .fp32 m a b

/-- VPFMA. -/
def execVpfma (x : Bool) (b a d : BitVec 7) (s : State) : Host.Outcome State Fault Refusal :=
  pairOp s true x b a d fun m a b d => fma .fp32 m false a b d

/-! ## Major 0x14 (R149) -/

/-- VHADD.bf16. -/
def execVhaddBf16 (x : Bool) (b a d : BitVec 7) (s : State) : Host.Outcome State Fault Refusal :=
  floatOp s false x b a d fun m => halves fun a b _ => fadd .bf16 m a b

/-- VHMUL.bf16. -/
def execVhmulBf16 (x : Bool) (b a d : BitVec 7) (s : State) : Host.Outcome State Fault Refusal :=
  floatOp s false x b a d fun m => halves fun a b _ => fmul .bf16 m a b

/-- VHFMA.bf16. -/
def execVhfmaBf16 (x : Bool) (b a d : BitVec 7) (s : State) : Host.Outcome State Fault Refusal :=
  floatOp s true x b a d fun m => halves fun a b d => fma .bf16 m false a b d

/-- VHADD.fp16. -/
def execVhaddF16 (x : Bool) (b a d : BitVec 7) (s : State) : Host.Outcome State Fault Refusal :=
  floatOp s false x b a d fun m => halves fun a b _ => fadd .fp16 m a b

/-- VHMUL.fp16. -/
def execVhmulF16 (x : Bool) (b a d : BitVec 7) (s : State) : Host.Outcome State Fault Refusal :=
  floatOp s false x b a d fun m => halves fun a b _ => fmul .fp16 m a b

/-- VHFMA.fp16. -/
def execVhfmaF16 (x : Bool) (b a d : BitVec 7) (s : State) : Host.Outcome State Fault Refusal :=
  floatOp s true x b a d fun m => halves fun a b d => fma .fp16 m false a b d

/-! ## Major 0x15 (R150) -/

/-- VDADD. -/
def execVdadd (x : Bool) (b a d : BitVec 7) (s : State) : Host.Outcome State Fault Refusal :=
  doubleOp s false x b a d fun m a b _ => fadd .fp64 m a b

/-- VDMUL. -/
def execVdmul (x : Bool) (b a d : BitVec 7) (s : State) : Host.Outcome State Fault Refusal :=
  doubleOp s false x b a d fun m a b _ => fmul .fp64 m a b

/-- VDFMA. -/
def execVdfma (x : Bool) (b a d : BitVec 7) (s : State) : Host.Outcome State Fault Refusal :=
  doubleOp s true x b a d fun m a b d => fma .fp64 m false a b d

/-- VDMIN. -/
def execVdmin (x : Bool) (b a d : BitVec 7) (s : State) : Host.Outcome State Fault Refusal :=
  doubleOp s false x b a d fun _ a b _ => (fminmax .fp64 false a b, 0#4)

/-- VDMAX. -/
def execVdmax (x : Bool) (b a d : BitVec 7) (s : State) : Host.Outcome State Fault Refusal :=
  doubleOp s false x b a d fun _ a b _ => (fminmax .fp64 true a b, 0#4)

end Sys2Proof.Machine
end

