-- ==== Sys2Proof/Machine/Special.lean ====
section
/-! DEFINITION. The special functions of Table 6.9 and the quotient estimate of VFDIVS (R151 to R153).

The spec fixes special operands, exact cases and a bound around the exact result.  Inside the bound the value is the
implementation's: a free value of Config, taken if it keeps the bound, and else the nearest FP32 value.  The exact
result of a function that has no exact formula is enclosed by fixed-point series whose error is far below the bound. -/

namespace Sys2Proof.Machine

/-! ## Fixed point: an integer stands for itself over 2^400 -/

/-- Fraction bits of the fixed-point values. -/
def fxBits : Nat := 400

/-- One. -/
def fxOne : Int := 2 ^ 400

/-- π, rounded down. -/
def fxPi : Int :=
  0x3243f6a8885a308d313198a2e03707344a4093822299f31d0082efa98ec4e6c89452821e638d01377be5466cf34e90c6cc0ac

/-- ln 2, rounded down. -/
def fxLn2 : Int :=
  0xb17217f7d1cf79abc9e3b39803f2f6af40f343267298b62d8a0d175b8baafa2be7b876206debac98559552fb4afa1b10ed2e

/-- Product of fixed-point values, rounded towards −∞. -/
def fxMul (a b : Int) : Int := a * b / fxOne

/-- A dyadic value in fixed point, rounded towards zero. -/
def fxOf (neg : Bool) (m : Nat) (e : Int) : Int :=
  let (a, b) := scaled m 1 (e + 400)
  if neg then -((a / b : Nat) : Int) else (a / b : Nat)

/-- Σ x^k / k! from term k on, for |x| ≤ 1. -/
def expSeries (x : Int) : Nat → Int → Int → Int
  | 0, _, _ => 0
  | n + 1, k, term => term + expSeries x n (k + 1) (fxMul term x / k)

/-- e^x for |x| ≤ 1. -/
def fxExp (x : Int) : Int := expSeries x 100 1 fxOne

/-- Square n times. -/
def fxSquares : Nat → Int → Int
  | 0, x => x
  | n + 1, x => fxSquares n (fxMul x x)

/-- e^x for |x| ≤ 128. -/
def fxExpWide (x : Int) : Int := fxSquares 7 (fxExp (x / 128))

/-- Terms of the sine or cosine series: each is the one before times −x² / (k (k + 1)). -/
def trigSeries (x2 : Int) : Nat → Int → Int → Int
  | 0, _, _ => 0
  | n + 1, k, term => term + trigSeries x2 n (k + 2) (-(fxMul term x2 / (k * (k + 1))))

/-- sin x for |x| ≤ 1. -/
def fxSin (x : Int) : Int := trigSeries (fxMul x x) 60 2 x

/-- cos x for |x| ≤ 1. -/
def fxCos (x : Int) : Int := trigSeries (fxMul x x) 60 1 fxOne

/-- sin (2 π t) for a fixed-point fraction 0 ≤ t < 1, by octants. -/
def fxSinTurn (t : Int) : Int :=
  let oct := (t * 8 / fxOne).toNat
  let ang := fun (u : Int) => fxMul (2 * fxPi) u
  match oct with
  | 0 => fxSin (ang t)
  | 1 | 2 => fxCos (ang (t - fxOne / 4))
  | 3 | 4 => -fxSin (ang (t - fxOne / 2))
  | 5 | 6 => -fxCos (ang (t - 3 * fxOne / 4))
  | _ => fxSin (ang (t - fxOne))

/-- Fraction bits of log2 of m, 1 ≤ m < 2, by repeated squaring. -/
def log2Bits : Nat → Int → Int → Int
  | 0, _, _ => 0
  | n + 1, w, m =>
    let s := fxMul m m
    if 2 * fxOne ≤ s then w + log2Bits n (w / 2) (s / 2) else log2Bits n (w / 2) s

/-! ## The bound of R152 -/

/-- ulp(c) of R152 as an exponent of two. -/
def ulpExp (c : Nat) : Int :=
  match value .fp32 c with
  | .fin _ m e => if m = 0 then -149 else max (floorLog2 m 1 e) (-126) - 23
  | _ => 104

/-- The finite value of an FP32 code in fixed point at 2^-400. -/
def fxCode (c : Nat) : Option Int :=
  match value .fp32 c with
  | .fin neg m e => some (fxOf neg m e)
  | _ => none

/-- Round a fixed-point value to FP32. -/
def fxRound (f : Int) : Nat :=
  if f = 0 then 0 else (roundQuot .fp32 .rne 0 (decide (f < 0)) f.natAbs 1 (-400)).1

/-- |y − f| ≤ half × ulp(c) / 2 for every exact result within 2^-300 of f: the bound of R152 for c = round32(f). -/
def withinUlps (half : Nat) (f : Int) (y : Nat) : Bool :=
  match fxCode y with
  | none => false
  | some v =>
    let bound := fxOf false half (ulpExp (fxRound f) - 1)
    decide ((v - f).natAbs + 2 ^ 100 ≤ bound.toNat)

/-- |y − e| ≤ half × ulp(c) / 2 for an exact result e that lies above f, or below it, by less than 2^-200: on the side where e lies
the bound itself is reached, on the other it is not. -/
def withinBeside (half : Nat) (f : Int) (above : Bool) (y : Nat) : Bool :=
  match fxCode y with
  | none => false
  | some v =>
    let bound := fxOf false half (ulpExp (fxRound f) - 1)
    if above then decide (-bound < v - f) && decide (v - f ≤ bound) else decide (-bound ≤ v - f) && decide (v - f < bound)

/-- |y − f| ≤ 2^-22 (R152, VSIN and VCOS of large operands). -/
def withinAbsolute (f : Int) (y : Nat) : Bool :=
  match fxCode y with
  | none => false
  | some v => decide ((v - f).natAbs + 2 ^ 100 ≤ 2 ^ 378)

/-- The proposed value if it keeps the bound, else the nearest; underflow when the result is subnormal or zero. -/
def bounded (keeps : Nat → Bool) (proposed nearest : Nat) : Nat × Flags :=
  let y := if keeps proposed then proposed else nearest
  (y, if y / 2 ^ 23 % 256 = 0 then flagUF else 0#4)

/-! ## Square roots -/

/-- floor of the square root, by Newton steps from above. -/
def isqrtLoop (n : Nat) : Nat → Nat → Nat
  | 0, x => x
  | k + 1, x => let y := (x + n / x) / 2; if x ≤ y then x else isqrtLoop n k y

/-- floor (√n). -/
def isqrt (n : Nat) : Nat := if n = 0 then 0 else isqrtLoop n 1000 (2 ^ (Nat.log2 n / 2 + 1))

/-- √(num / den) in fixed point, rounded down, and whether that is exact. -/
def fxSqrt (num den : Nat) : Int × Bool :=
  let x := num * 2 ^ 800 / den
  let r := isqrt x
  ((r : Int), decide (r * r = x) && decide (num * 2 ^ 800 % den = 0))

/-! ## The functions -/

/-- +∞ or −∞ in FP32. -/
def inf32 (neg : Bool) : Nat := Fmt.infCode .fp32 neg

/-- Zero of a sign in FP32. -/
def zero32 (neg : Bool) : Nat := Fmt.signBit .fp32 neg

/-- ±1.0 in FP32. -/
def one32 (neg : Bool) : Nat := Fmt.signBit .fp32 neg + 0x3F800000

/-- An exact dyadic result, which FP32 holds. -/
def exact32 (neg : Bool) (m : Nat) (e : Int) : Nat × Flags :=
  ((roundVal .fp32 .rne 0 (.fin neg m e)).1, 0#4)

/-- x = (−1)^neg × m × 2^e is a power of two in magnitude: its exponent. -/
def pow2Exp (m : Nat) (e : Int) : Option Int :=
  if m = 2 ^ Nat.log2 m then some ((Nat.log2 m : Int) + e) else none

/-- VRCP of a finite non-zero operand. -/
def rcpFin (prop : Nat) (neg : Bool) (m : Nat) (e : Int) : Nat × Flags :=
  if leVal (.fin false m e) (.fin false 1 (-128)) then (inf32 neg, flagOF)
  else match pow2Exp m e with
    | some n => exact32 neg 1 (-n)
    | none =>
      let (a, b) := scaled 1 m (400 - e)
      let f : Int := if neg then -((a / b : Nat) : Int) else (a / b : Nat)
      bounded (withinUlps 3 f) prop (roundQuot .fp32 .rne 0 neg 1 m (-e)).1

/-- VRSQRT of a positive finite operand. -/
def rsqrtFin (prop : Nat) (m : Nat) (e : Int) : Nat × Flags :=
  let (a, b) := scaled m 1 e
  let (f, ex) := fxSqrt b a
  if ex && fxCode (fxRound f) == some f then (fxRound f, 0#4)
  else bounded (withinUlps 3 f) prop (fxRound f)

/-- VSQRT of a positive finite operand. -/
def sqrtFin (prop : Nat) (m : Nat) (e : Int) : Nat × Flags :=
  let (a, b) := scaled m 1 e
  let (f, ex) := fxSqrt a b
  if ex && fxCode (fxRound f) == some f then (fxRound f, 0#4)
  else bounded (withinUlps 3 f) prop (fxRound f)

/-- VEXP2 of a finite operand. -/
def exp2Fin (prop : Nat) (neg : Bool) (m : Nat) (e : Int) : Nat × Flags :=
  let x := Val.fin neg m e
  if leVal (.fin false 128 0) x then (inf32 false, flagOF)
  else if leVal x (.fin true 150 0) && !leVal (.fin true 150 0) x then (zero32 false, flagUF)
  else
    let t := fxOf neg m e
    let n := t / fxOne
    let r := t - n * fxOne
    if r = 0 ∧ -149 ≤ n ∧ (e ≥ -400) ∧ m ≠ 0 ∨ m = 0 then exact32 false 1 n
    else
      let (a, b) := scaled (fxExp (fxMul r fxLn2)).toNat 1 n
      let f : Int := (a / b : Nat)
      bounded (withinUlps 4 f) prop (fxRound f)

/-- VLOG2 of a positive finite operand. -/
def log2Fin (prop : Nat) (m : Nat) (e : Int) : Nat × Flags :=
  match pow2Exp m e with
  | some n => exact32 (decide (n < 0)) n.natAbs 0
  | none =>
    let k := floorLog2 m 1 e
    let f := k * fxOne + log2Bits 310 (fxOne / 2) (fxOf false m (e - k))
    bounded (withinUlps 4 f) prop (fxRound f)

/-- x is a multiple of 1 / 4: x modulo 1 in quarters. -/
def quarters (neg : Bool) (m : Nat) (e : Int) : Option Nat :=
  let (a, b) := scaled m 1 (e + 2)
  if a % b = 0 then some ((if neg then -((a / b : Nat) : Int) else ((a / b : Nat) : Int)) % 4).toNat else none

/-- VSIN or VCOS of a finite operand: `shift` is the phase in quarters of a turn. -/
def sinFin (prop : Nat) (cos : Bool) (neg : Bool) (m : Nat) (e : Int) : Nat × Flags :=
  match quarters neg m e with
  | some q =>
    match (q + (if cos then 1 else 0)) % 4 with
    | 1 => (one32 false, 0#4)
    | 3 => (one32 true, 0#4)
    | _ => (if cos then zero32 false else zero32 neg, 0#4)
  | none =>
    let t := (fxOf neg m e + (if cos then fxOne / 4 else 0)) % fxOne
    let f := fxSinTurn t
    let keeps := if leVal (.fin false 1 20) (.fin false m e) then withinAbsolute f else withinUlps 4 f
    bounded keeps prop (fxRound f)

/-- VTANH of a finite non-zero operand; below 2^-90 the result is x less x^3 / 3, which is nearer to zero than x by less than any
step of FP32. -/
def tanhFin (prop : Nat) (neg : Bool) (m : Nat) (e : Int) : Nat × Flags :=
  if leVal (.fin false 19 (-1)) (.fin false m e) then (one32 neg, 0#4)
  else if leVal (.fin false m e) (.fin false 1 (-90)) then
    let f := fxOf neg m e
    bounded (withinBeside 6 f neg) prop (fxRound f)
  else
    let p := fxExpWide (2 * fxOf false m e)
    let g := (p - fxOne) * fxOne / (p + fxOne)
    let f := if neg then -g else g
    bounded (withinUlps 6 f) prop (fxRound f)

/-- VSIGM of a finite non-zero operand; below −128 the result lies above zero by less than any step of FP32. -/
def sigmFin (prop : Nat) (neg : Bool) (m : Nat) (e : Int) : Nat × Flags :=
  if leVal (.fin false 18 0) (.fin neg m e) then (one32 false, 0#4)
  else if leVal (.fin neg m e) (.fin true 128 0) then bounded (withinBeside 6 0 true) prop 0
  else
    let f := fxOne * fxOne / (fxOne + fxExpWide (-(fxOf neg m e)))
    bounded (withinUlps 6 f) prop (fxRound f)

/-- The result and the flags of a special function of major 0x16 or VSIGM (R152, Table 6.9). -/
def specialFn (fn : Config.SpecialFn) (x : Lane) : Nat × Flags :=
  let prop := (Config.specialFn fn x).toNat
  match fn, value .fp32 x.toNat with
  | _, .nan => (Fmt.nanCode .fp32, 0#4)
  | .rcp, .inf neg => (zero32 neg, 0#4)
  | .rcp, .fin neg m e => if m = 0 then (inf32 neg, flagDZ) else rcpFin prop neg m e
  | .rsqrt, .inf neg => if neg then (Fmt.nanCode .fp32, flagNV) else (zero32 false, 0#4)
  | .rsqrt, .fin neg m e =>
    if m = 0 then (inf32 neg, flagDZ) else if neg then (Fmt.nanCode .fp32, flagNV) else rsqrtFin prop m e
  | .sqrt, .inf neg => if neg then (Fmt.nanCode .fp32, flagNV) else (inf32 false, 0#4)
  | .sqrt, .fin neg m e =>
    if m = 0 then (zero32 neg, 0#4) else if neg then (Fmt.nanCode .fp32, flagNV) else sqrtFin prop m e
  | .exp2, .inf neg => (if neg then zero32 false else inf32 false, 0#4)
  | .exp2, .fin neg m e => exp2Fin prop neg m e
  | .log2, .inf neg => if neg then (Fmt.nanCode .fp32, flagNV) else (inf32 false, 0#4)
  | .log2, .fin neg m e =>
    if m = 0 then (inf32 true, flagDZ) else if neg then (Fmt.nanCode .fp32, flagNV) else log2Fin prop m e
  | .sin, .inf _ => (Fmt.nanCode .fp32, flagNV)
  | .sin, .fin neg m e => sinFin prop false neg m e
  | .cos, .inf _ => (Fmt.nanCode .fp32, flagNV)
  | .cos, .fin neg m e => sinFin prop true neg m e
  | .tanh, .inf neg => (one32 neg, 0#4)
  | .tanh, .fin neg m e => if m = 0 then (zero32 neg, 0#4) else tanhFin prop neg m e
  | .sigm, .inf neg => (if neg then zero32 false else one32 false, 0#4)
  | .sigm, .fin neg m e => if m = 0 then (0x3F000000, 0#4) else sigmFin prop neg m e

/-! ## Division (R153) -/

/-- |q − num/den × 2^e| ≤ ulp(c) for the finite non-zero q of the sign: the bound of VFDIVS. -/
def estimateKeeps (neg : Bool) (num den : Nat) (e : Int) (q : Nat) : Bool :=
  let c := (roundQuot .fp32 .rne 0 neg num den e).1
  match value .fp32 q with
  | .fin qn m k =>
    let u := ulpExp c
    let lo := min k u
    -- both sides in units of 2^lo / den
    let (a, b) := scaled num 1 (e - lo)
    let x : Int := (m * 2 ^ (k - lo).toNat * den * b : Nat)
    let bound := 2 ^ (u - lo).toNat * den * b
    decide (qn = neg) && decide (m ≠ 0) && decide ((x - (a : Int)).natAbs ≤ bound)
  | _ => false

/-- VFDIVS (R153). -/
def divEstimate (a b : Lane) : Nat × Flags :=
  match value .fp32 a.toNat, value .fp32 b.toNat with
  | .nan, _ => (Fmt.nanCode .fp32, 0#4)
  | _, .nan => (Fmt.nanCode .fp32, 0#4)
  | .inf _, .inf _ => (Fmt.nanCode .fp32, flagNV)
  | .inf x, .fin y _ _ => (inf32 (x != y), 0#4)
  | .fin x _ _, .inf y => (zero32 (x != y), 0#4)
  | .fin x m e, .fin y n k =>
    if m = 0 ∧ n = 0 then (Fmt.nanCode .fp32, flagNV)
    else if n = 0 then (inf32 (x != y), flagDZ)
    else if m = 0 then (zero32 (x != y), 0#4)
    else
      let neg := x != y
      let (p, q) := scaled m n (e - k)
      if (2 ^ 24 - 1) * 2 ^ 104 * q < p then (Fmt.signBit .fp32 neg + Fmt.largestCode .fp32, 0#4)
      else if p * 2 ^ 149 < q then (Fmt.signBit .fp32 neg + 1, 0#4)
      else
        let prop := (Config.divEstimate a b).toNat
        (if estimateKeeps neg m n (e - k) prop then prop else (roundQuot .fp32 .rne 0 neg m n (e - k)).1, 0#4)

/-- VFDIVX (R153). -/
def divExact (mode : Mode) (q a b : Lane) : Nat × Flags :=
  match value .fp32 q.toNat with
  | .nan => (Fmt.nanCode .fp32, 0#4)
  | .inf _ => (q.toNat, 0#4)
  | .fin _ _ _ =>
    match value .fp32 a.toNat, value .fp32 b.toNat with
    | .fin x m e, .fin y n k =>
      if m = 0 ∨ n = 0 then (q.toNat, 0#4) else roundQuot .fp32 mode 0 (x != y) m n (e - k)
    | _, _ => (q.toNat, 0#4)

end Sys2Proof.Machine
end

