-- ==== Sys2Proof/WellFormed.lean ====
section
/-! DEFINITION. Which instructions are well formed: the conditions on the fields of one word that the spec calls
ILLEGAL for the encoding (item 1 of R54).  Conditions that read the state are checked by the meanings. -/

namespace Sys2Proof

/-- With X = 1, vb[6] must be zero (R48). -/
def scalarFieldOk (x : Bool) (b : BitVec 7) : Bool := !x || decide (b.toNat < 64)

/-- A register field that must be even: a pair operand (R74), the key register of VRAND (R162). -/
def evenReg {n : Nat} (r : BitVec n) : Bool := decide (r.toNat % 2 = 0)

/-- The values of a clause header that R37 forbids are absent. -/
def headerOk (g e : Bool) (m : BitVec 3) (b a : BitVec 4) : Bool :=
  decide (a.toNat < 12 ∨ a.toNat = 15) && decide (b.toNat < 12 ∨ b.toNat = 15)
    && decide (a ≠ b ∨ a.toNat = 15) && (e || (!g && decide (m.toNat = 0)))

/-- Scope codes 6 and 7 are reserved (R219). -/
def scopeOk (s : BitVec 3) : Bool := decide (s.toNat < 6)

/-- vo = 0x7F names no lane offset, and then OX must be 0 (R183, R211). -/
def offsetOk (ox : Bool) (vo : BitVec 7) : Bool := !(ox && decide (vo = 0x7F#7))

/-- Register alignment of a load (R183): SZ 7 is reserved, 5 needs an even register, 6 a multiple of 4. -/
def loadSizeOk (sz : BitVec 3) (vt : BitVec 7) : Bool :=
  match sz.toNat with
  | 5 => decide (vt.toNat % 2 = 0)
  | 6 => decide (vt.toNat % 4 = 0)
  | 7 => false
  | _ => true

/-- A store has no SZ 1 or 3 (R183). -/
def storeSizeOk (sz : BitVec 3) (vt : BitVec 7) : Bool :=
  loadSizeOk sz vt && decide (sz.toNat ≠ 1) && decide (sz.toNat ≠ 3)

/-- The barrier field: a cohort 0 to 15, or 0x20 for the workgroup (R239). -/
def barrierOk (s : BitVec 6) : Bool := decide (s.toNat < 16) || decide (s.toNat = 32)

/-- The partner field: a GROUP, or exactly 0x20 for any (R175). -/
def partnerOk (p : BitVec 6) : Bool := decide (p.toNat ≤ 32)

/-- Operation codes of ATOM (Table 10.1). -/
def atomCodeOk (o : BitVec 5) : Bool := decide (o.toNat < 0x16)

/-- RED has no exchange and no compare-and-swap (Table 10.1). -/
def redCodeOk (o : BitVec 5) : Bool :=
  decide (o.toNat < 0x10) || decide (o.toNat = 0x14) || decide (o.toNat = 0x15)

/-- The 64-bit operations of Table 10.1. -/
def atomIs64 (o : Nat) : Bool :=
  [0x01, 0x06, 0x07, 0x08, 0x09, 0x0B, 0x0D, 0x0F, 0x11, 0x13].contains o

/-- The compare-and-swap operations of Table 10.1. -/
def atomIsCas (o : Nat) : Bool := o == 0x12 || o == 0x13

/-- Registers of the data run of an atomic (Table 10.1). -/
def atomRunLen (o : Nat) : Nat := (if atomIs64 o then 2 else 1) * (if atomIsCas o then 2 else 1)

/-- The data run is aligned to its length (Table 10.1). -/
def atomRunOk (o : BitVec 5) (vt : BitVec 7) : Bool := decide (vt.toNat % atomRunLen o.toNat = 0)

/-- The operation of Table 10.1 that a minor3 of XAT or XRED names (Table 10.3). -/
def remoteAtomCode (isRed : Bool) (o : BitVec 3) : Nat :=
  match o.toNat with
  | 0 => 0x00
  | 1 => 0x01
  | 2 => 0x02
  | 3 => 0x04
  | 4 => 0x0C
  | 5 => 0x14
  | 6 => if isRed then 0x15 else 0x10
  | _ => 0x12

/-- The data run of XAT and XRED (R258). -/
def remoteRunOk (isRed : Bool) (o : BitVec 3) (vd : BitVec 7) : Bool :=
  decide (vd.toNat % atomRunLen (remoteAtomCode isRed o) = 0)

/-- The address operand of XAT and XRED: an even pair, or a scalar with vb[6] zero (R258). -/
def remoteAddrOk (x : Bool) (b : BitVec 7) : Bool :=
  if x then decide (b.toNat < 64) else decide (b.toNat % 2 = 0)

/-- FMT of ASTASH: codes 6, 8, 9 and 11 to 15 are illegal (R323). -/
def stashFormatOk (f : BitVec 4) : Bool := [0, 1, 2, 3, 4, 5, 7, 10].contains f.toNat

/-- Copies 1 to 3, and a zero record field for a copy that is not written (R323). -/
def stashCopiesOk (c : BitVec 2) (plain transposed : BitVec 3) : Bool :=
  decide (c.toNat ≠ 0) && (decide (c.toNat % 2 = 1) || decide (plain.toNat = 0))
    && (decide (c.toNat / 2 = 1) || decide (transposed.toNat = 0))

/-- A number format of a conversion: a float code of Table 6.11 or an integer code. -/
inductive NumCode where
  | flt (code : Nat)
  | int (code : Nat)
  deriving DecidableEq, Repr

/-- Source and destination of a VCVT pair code (Table 6.10). -/
def cvtPair (p : BitVec 7) : NumCode × NumCode :=
  let n := p.toNat
  if n < 64 then (.flt (n % 8), .flt (n / 8))
  else if n < 96 then (.flt (n % 8), .int (n / 8 % 4))
  else (.int (n / 8 % 4), .flt (n % 8))

/-- The rounding code and pair code of a VCVT are legal (R154, R157). -/
def cvtOk (r : BitVec 3) (p : BitVec 7) : Bool :=
  let (src, dst) := cvtPair p
  decide (r.toNat ≤ 4) && decide (src ≠ dst)
    && (decide (r.toNat ≠ 4)
        || (decide (dst ∈ [NumCode.flt 0, .flt 1, .flt 2, .flt 4, .flt 5])
            && decide (src ∈ [NumCode.flt 4, .flt 5, .flt 6, .flt 7])))
    && (decide (dst ≠ .flt 3) || decide (r.toNat = 0))

/-- An FP64 run has an even base (R155). -/
def cvtBaseOk (p : BitVec 7) (va vd : BitVec 7) : Bool :=
  let (src, dst) := cvtPair p
  (decide (src ≠ .flt 7) || evenReg va) && (decide (dst ≠ .flt 7) || evenReg vd)

/-- The instruction is one that its word may hold; every event row is. -/
def Instr.wf : Instr → Bool
  | .clauseHeader g e m b a _ => headerOk g e m b a
  | .vmov16 _ _ _ => true
  | .vadd16 _ _ _ => true
  | .vsub16 _ _ _ => true
  | .vmul16 _ _ _ => true
  | .vand16 _ _ _ => true
  | .vor16 _ _ _ => true
  | .vxor16 _ _ _ => true
  | .vshl16 _ _ _ => true
  | .vshr16 _ _ _ => true
  | .vsra16 _ _ _ => true
  | .vfadd16 _ _ _ => true
  | .vfsub16 _ _ _ => true
  | .vfmul16 _ _ _ => true
  | .vfmin16 _ _ _ => true
  | .vfmax16 _ _ _ => true
  | .vaddi16 _ _ => true
  | .sadd _ _ _ => true
  | .ssub _ _ _ => true
  | .smul _ _ _ => true
  | .smulhI64 _ _ _ => true
  | .smulhN64 _ _ _ => true
  | .sdivn _ _ _ => true
  | .sand _ _ _ => true
  | .sor _ _ _ => true
  | .sxor _ _ _ => true
  | .sshl _ _ _ => true
  | .sshr _ _ _ => true
  | .ssra _ _ _ => true
  | .sminI64 _ _ _ => true
  | .sminN64 _ _ _ => true
  | .smaxI64 _ _ _ => true
  | .smaxN64 _ _ _ => true
  | .ssel _ _ _ _ => true
  | .sclz _ _ => true
  | .spopc _ _ => true
  | .sbfxN64 _ _ _ => true
  | .sbfxI64 _ _ _ => true
  | .sbfi _ _ _ => true
  | .scmp _ _ k _ => decide (k.toNat < 12)
  | .smov _ _ => true
  | .saddImm _ _ _ => true
  | .smulImm _ _ _ => true
  | .sandImm _ _ _ => true
  | .sorImm _ _ _ => true
  | .sxorImm _ _ _ => true
  | .sshlImm _ _ _ => true
  | .sshrImm _ _ _ => true
  | .ssraImm _ _ _ => true
  | .sminImm _ _ _ => true
  | .smaxImm _ _ _ => true
  | .scmpImm _ _ k _ => decide (k.toNat < 12)
  | .sli _ _ => true
  | .slih _ _ _ => true
  | .bra _ => true
  | .bcT _ _ => true
  | .bcF _ _ => true
  | .bdiv _ _ => true
  | .bvoteAny _ _ => true
  | .bvoteAll _ _ => true
  | .bvoteNone _ _ => true
  | .call _ => true
  | .callR _ => true
  | .ret => true
  | .jmpi _ => true
  | .join _ => true
  | .park _ => true
  | .strike _ => true
  | .regang => true
  | .exit => true
  | .nop => true
  | .yield => true
  | .srd _ _ => true
  | .swr _ _ => true
  | .vadd x b _ _ => scalarFieldOk x b
  | .vsub x b _ _ => scalarFieldOk x b
  | .vmul x b _ _ => scalarFieldOk x b
  | .vmulh x b _ _ => scalarFieldOk x b
  | .vmin x b _ _ => scalarFieldOk x b
  | .vmax x b _ _ => scalarFieldOk x b
  | .vabsd x b _ _ => scalarFieldOk x b
  | .vdot4 x b _ _ => scalarFieldOk x b
  | .vand x b _ _ => scalarFieldOk x b
  | .vor x b _ _ => scalarFieldOk x b
  | .vxor x b _ _ => scalarFieldOk x b
  | .vshl x b _ _ => scalarFieldOk x b
  | .vshr x b _ _ => scalarFieldOk x b
  | .vsra x b _ _ => scalarFieldOk x b
  | .vfshl x b _ _ => scalarFieldOk x b
  | .vfshr x b _ _ => scalarFieldOk x b
  | .vpopc _ _ => true
  | .vclz _ _ => true
  | .vbrev _ _ => true
  | .vnot _ _ => true
  | .vbfxN32 x b _ _ => scalarFieldOk x b
  | .vbfxI32 x b _ _ => scalarFieldOk x b
  | .vbfi x b _ _ => scalarFieldOk x b
  | .vaddc x b _ _ => scalarFieldOk x b
  | .vsubb x b _ _ => scalarFieldOk x b
  | .vaddi _ _ _ => true
  | .vandi _ _ _ => true
  | .vori _ _ _ => true
  | .vxori _ _ _ => true
  | .vshli _ _ _ => true
  | .vshri _ _ _ => true
  | .vsrai _ _ _ => true
  | .vli _ _ => true
  | .vlop3 _ _ _ _ => true
  | .vicmp x b _ k _ => scalarFieldOk x b && decide (k.toNat < 12)
  | .vsel x b _ _ => scalarFieldOk x b
  | .vmovs _ _ _ => true
  | .vmovx x b _ _ => scalarFieldOk x b
  | .vmovxl x b _ => scalarFieldOk x b
  | .vmovxw x b _ _ => scalarFieldOk x b
  | .vmov x b _ => scalarFieldOk x b
  | .mand _ _ _ => true
  | .mor _ _ _ => true
  | .mxor _ _ _ => true
  | .mnot _ _ => true
  | .mpop _ _ => true
  | .mfind _ _ => true
  | .mset _ _ => true
  | .mget _ _ => true
  | .mgetLanes _ => true
  | .vfadd x b _ _ => scalarFieldOk x b
  | .vfsub x b _ _ => scalarFieldOk x b
  | .vfmul x b _ _ => scalarFieldOk x b
  | .vfmin x b _ _ => scalarFieldOk x b
  | .vfmax x b _ _ => scalarFieldOk x b
  | .vfma x b _ _ => scalarFieldOk x b
  | .vfscale x b _ _ => scalarFieldOk x b
  | .vfcpys x b _ _ => scalarFieldOk x b
  | .vfmad _ _ _ _ _ => true
  | .vfabs _ _ => true
  | .vfneg _ _ => true
  | .vfrnd _ _ _ => true
  | .vfclass _ _ => true
  | .vfexpo _ _ => true
  | .vfcmp x b _ k _ => scalarFieldOk x b && decide (k.toNat < 8)
  | .vpfadd x b a d => scalarFieldOk x b && evenReg d && evenReg a && (x || evenReg b)
  | .vpfmul x b a d => scalarFieldOk x b && evenReg d && evenReg a && (x || evenReg b)
  | .vpfma x b a d => scalarFieldOk x b && evenReg d && evenReg a && (x || evenReg b)
  | .vhaddBf16 x b _ _ => scalarFieldOk x b
  | .vhmulBf16 x b _ _ => scalarFieldOk x b
  | .vhfmaBf16 x b _ _ => scalarFieldOk x b
  | .vhaddF16 x b _ _ => scalarFieldOk x b
  | .vhmulF16 x b _ _ => scalarFieldOk x b
  | .vhfmaF16 x b _ _ => scalarFieldOk x b
  | .vdadd x b a d => scalarFieldOk x b && evenReg d && evenReg a && (x || evenReg b)
  | .vdmul x b a d => scalarFieldOk x b && evenReg d && evenReg a && (x || evenReg b)
  | .vdfma x b a d => scalarFieldOk x b && evenReg d && evenReg a && (x || evenReg b)
  | .vdmin x b a d => scalarFieldOk x b && evenReg d && evenReg a && (x || evenReg b)
  | .vdmax x b a d => scalarFieldOk x b && evenReg d && evenReg a && (x || evenReg b)
  | .vrcp _ _ => true
  | .vrsqrt _ _ => true
  | .vsqrt _ _ => true
  | .vexp2 _ _ => true
  | .vlog2 _ _ => true
  | .vsin _ _ => true
  | .vcos _ _ => true
  | .vtanh _ _ => true
  | .vsigm _ _ => true
  | .vfdivs x b _ _ => scalarFieldOk x b
  | .vfdivx x b _ _ => scalarFieldOk x b
  | .vcvt r p a d => cvtOk r p && cvtBaseOk p a d
  | .vqntE4m3 _ _ _ => true
  | .vqntE5m2 _ _ _ => true
  | .vqntE2m1 _ _ _ => true
  | .vqntLg6 _ _ _ => true
  | .vqntI8 _ _ _ => true
  | .vdqnt _ _ _ => true
  | .vpack _ _ _ => true
  | .vunpack _ _ _ => true
  | .vrandB32 s _ _ => evenReg s
  | .vrandF32 s _ _ => evenReg s
  | .vnblRing _ _ => true
  | .vnbrRing _ _ => true
  | .vnblEdge _ _ _ => true
  | .vnbrEdge _ _ _ => true
  | .vshuf x b _ _ => scalarFieldOk x b
  | .vbcastImm _ _ _ => true
  | .vbcastScalar _ _ _ => true
  | .vred o _ _ => decide (o.toNat ≤ 10)
  | .vscanIncl o _ _ => decide (o.toNat ≤ 10)
  | .vscanExcl o _ _ => decide (o.toNat ≤ 10)
  | .vvoteBallot _ _ => true
  | .vvoteEq _ _ => true
  | .xsend p _ _ _ => partnerOk p
  | .xrecv p _ _ _ => partnerOk p
  | .xedge _ _ => true
  | .ld x s _ o _ t => loadSizeOk s t && offsetOk x o
  | .st x s _ o _ t => storeSizeOk s t && offsetOk x o
  | .lds _ _ _ => true
  | .sts _ _ _ => true
  | .ldacq z s _ _ t => (!z || evenReg t) && scopeOk s
  | .strel z s _ _ t => (!z || evenReg t) && scopeOk s
  | .pref _ x o _ => offsetOk x o
  | .cflush _ x o _ => offsetOk x o
  | .cinv _ x o _ => offsetOk x o
  | .landr _ => true
  | .unmapv _ _ => true
  | .unmapvDiscard _ _ => true
  | .unmapvRights _ _ => true
  | .fenceAcq s => scopeOk s
  | .fenceRel s => scopeOk s
  | .fenceFull s => scopeOk s
  | .tcfence => true
  | .bar s => barrierOk s
  | .bara s => barrierOk s
  | .barw s => barrierOk s
  | .mbinit _ _ => true
  | .mbexp _ _ => true
  | .mbarr _ _ => true
  | .mbwait _ _ => true
  | .mon _ => true
  | .mwait _ _ => true
  | .waitcLd _ => true
  | .waitcSt _ => true
  | .waitcWh _ => true
  | .waitcAn _ => true
  | .waitcRa _ => true
  | .waitcFe _ => true
  | .atom o _ _ t => atomCodeOk o && atomRunOk o t
  | .red o _ _ t => redCodeOk o && atomRunOk o t
  | .xat x o b _ d => remoteAddrOk x b && remoteRunOk false o d
  | .xred x o b _ d => remoteAddrOk x b && decide (o ≠ 7#3) && remoteRunOk true o d
  | .wcopy _ _ _ => true
  | .wcopyStream _ _ _ => true
  | .wgather _ _ _ _ => true
  | .wscatter _ _ _ _ => true
  | .wfill _ _ _ => true
  | .wcomp _ _ _ => true
  | .wdcomp _ _ _ => true
  | .wloado _ _ _ _ => true
  | .wstat _ _ => true
  | .wcancel _ => true
  | .frs _ _ => true
  | .fag _ _ => true
  | .far _ _ => true
  | .fa2a _ _ => true
  | .fbc _ _ => true
  | .fupd _ _ _ => true
  | .fshard _ => true
  | .oclaim _ _ _ => true
  | .orel _ _ => true
  | .oput _ _ _ => true
  | .oget _ _ _ => true
  | .aclaim _ _ _ => true
  | .arel _ _ => true
  | .mma _ _ _ _ => true
  | .mmas _ _ _ _ => true
  | .afence _ => true
  | .azero _ _ => true
  | .gangset c => decide (c.toNat < 16) || decide (c = 0x3F#6)
  | .gangsetPair c => decide (c.toNat < 16)
  | .aguide _ => true
  | .adrainV _ _ _ => true
  | .adrainO _ _ _ _ _ => true
  | .adrainG _ => true
  | .astash c _ f _ q p _ => stashFormatOk f && stashCopiesOk c p q
  | .lnch _ _ => true
  | .lnchTry _ _ => true
  | .trig => true
  | .rgrow _ => true
  | .rshrink _ => true
  | .prio _ _ => true
  | .cohort _ _ => true
  | .cohortSelf _ => true
  | .trap _ => true
  | .rte => true
  | .rteSkip => true
  | .rteR _ => true
  | .bkpt _ => true
  | .trace _ _ => true
  | .halt => true
  | .tstamp _ => true
  | .perf _ _ => true
  | .clauseWaitSatisfied _ _ => true
  | .subcoreIssueCycle _ _ => true
  | .splitEntryHoldEvict _ _ => true
  | .yieldPauseEnd _ _ => true
  | .resultWriteback _ => true
  | .edgeLatchDeposit _ _ => true
  | .rendezvousTransfer _ _ => true
  | .rightsWalkComplete _ _ _ => true
  | .translationWalk _ _ => true
  | .loadDataArrive _ => true
  | .loadFaultPark _ => true
  | .faultRecordRetry => true
  | .faultQueueRegWrite _ _ => true
  | .faultrespResume _ => true
  | .faultrespDecline _ => true
  | .landingProbeAnswer _ _ _ => true
  | .llcHbmWriteback _ _ => true
  | .shootdownStart => true
  | .shootdownDrainDone => true
  | .shootdownMgtRequest _ _ _ _ => true
  | .shootdownPackageAnswer _ => true
  | .sdctlGo _ => true
  | .releaseRecall _ _ => true
  | .recallAnswer _ _ => true
  | .watchFire _ => true
  | .mwaitTimeout _ _ => true
  | .remoteAtomicRequest _ => true
  | .remoteAtomicAck _ _ _ => true
  | .remoteAtomicRnr _ _ => true
  | .remoteRetryTimer _ => true
  | .wherryCommandStart _ => true
  | .wherryCountUpdate _ _ => true
  | .wherryCommandComplete _ => true
  | .engineXlateFault _ => true
  | .wherryRemotePacket _ _ _ => true
  | .ferryMatch _ _ => true
  | .ferryComplete _ => true
  | .claimZeroingDone _ _ => true
  | .objectRelease _ _ _ => true
  | .gangLatchOpen _ _ => true
  | .arrayKStep _ => true
  | .arrayQueueEntry _ _ => true
  | .batchComplete _ => true
  | .guidedDrain _ => true
  | .rgrowGrant _ => true
  | .rgrowStallEvict _ => true
  | .launchPortWrite _ _ _ _ => true
  | .queueReset _ => true
  | .queueResetComplete _ => true
  | .qresWrite _ _ => true
  | .launchStart _ => true
  | .workgroupPlace _ => true
  | .groupRestore _ => true
  | .groupSave _ _ => true
  | .saveAgentApply _ => true
  | .workgroupRetire _ => true
  | .registerFileScrub _ => true
  | .dbgcmdHalt => true
  | .dbgcmdResume => true
  | .dbgcmdStep => true
  | .dbgcmdSave => true
  | .debugImageWrite _ _ => true
  | .registerWrite _ _ => true
  | .hallmarkRequest => true
  | .hallmarkComplete => true
  | .controlCoreAccess _ _ _ => true
  | .controlHomeRequest _ => true
  | .flitCrcFail _ => true
  | .linkDown _ => true
  | .heartbeatSend => true
  | .heartbeatReceive _ => true
  | .peerSuspect _ => true
  | .packageIsolated => true
  | .lossNotice _ => true
  | .lossRebuildComplete => true
  | .timeSyncMessage _ => true
  | .pcieInboundRead _ _ _ => true
  | .pcieInboundWrite _ _ _ => true
  | .pcieAtomicop _ _ _ _ _ _ => true
  | .bootVerify _ => true
  | .rackAssignmentRecord _ => true
  | .droopDetect _ => true
  | .droopRestore _ => true
  | .powerLimitStep _ => true
  | .inputUndervoltage => true
  | .assaySample _ _ => true
  | .marginReplan _ => true
  | .rasErrorEvent _ => true
  | .ferryShardArrival _ _ => true
  | .pcieErrorReported _ _ => true

end Sys2Proof
end

