-- ==== Sys2Proof/Machine/Convert.lean ====
section
/-! DEFINITION. The kind-B arithmetic: special functions, division, conversion, quantisation, packing and random numbers,
majors 0x16 to 0x1A (R151 to R163), and the writing of kind-B results (R39, R140). -/

namespace Sys2Proof.Machine

/-! ## Special functions and division (R151 to R153) -/

/-- A one-source special function: the result and its flags of each active lane, written at completion. -/
def specialOp (s : State) (fn : Config.SpecialFn) (a d : BitVec 7) : Host.Outcome State Fault Refusal :=
  kindB s [(a.toNat, 1)] d.toNat 1 (fun _ => []) (fun c => c.allFlags fun l => (specialFn fn (c.g.v a.toNat l)).2)
    fun c l _ => (laneOf (specialFn fn (c.g.v a.toNat l))).1

/-- VRCP. -/
def execVrcp (a d : BitVec 7) (s : State) : Host.Outcome State Fault Refusal := specialOp s .rcp a d

/-- VRSQRT. -/
def execVrsqrt (a d : BitVec 7) (s : State) : Host.Outcome State Fault Refusal := specialOp s .rsqrt a d

/-- VSQRT. -/
def execVsqrt (a d : BitVec 7) (s : State) : Host.Outcome State Fault Refusal := specialOp s .sqrt a d

/-- VEXP2. -/
def execVexp2 (a d : BitVec 7) (s : State) : Host.Outcome State Fault Refusal := specialOp s .exp2 a d

/-- VLOG2. -/
def execVlog2 (a d : BitVec 7) (s : State) : Host.Outcome State Fault Refusal := specialOp s .log2 a d

/-- VSIN. -/
def execVsin (a d : BitVec 7) (s : State) : Host.Outcome State Fault Refusal := specialOp s .sin a d

/-- VCOS. -/
def execVcos (a d : BitVec 7) (s : State) : Host.Outcome State Fault Refusal := specialOp s .cos a d

/-- VTANH. -/
def execVtanh (a d : BitVec 7) (s : State) : Host.Outcome State Fault Refusal := specialOp s .tanh a d

/-- VSIGM. -/
def execVsigm (a d : BitVec 7) (s : State) : Host.Outcome State Fault Refusal := specialOp s .sigm a d

/-- VFDIVS: the quotient estimate. -/
def execVfdivs (x : Bool) (b a d : BitVec 7) (s : State) : Host.Outcome State Fault Refusal :=
  let f := fun (c : Ctx) l => divEstimate (c.g.v a.toNat l) (c.srcB x b l)
  kindB s ((a.toNat, 1) :: runB x b 1) d.toNat 1 (fun _ => []) (fun c => c.allFlags fun l => (f c l).2)
    fun c l _ => (laneOf (f c l)).1

/-- VFDIVX: the quotient, from the estimate in vd. -/
def execVfdivx (x : Bool) (b a d : BitVec 7) (s : State) : Host.Outcome State Fault Refusal :=
  let f := fun (c : Ctx) l => divExact c.g.mode (c.g.v d.toNat l) (c.g.v a.toNat l) (c.srcB x b l)
  kindB s ((d.toNat, 1) :: (a.toNat, 1) :: runB x b 1) d.toNat 1 (fun _ => [])
    (fun c => c.allFlags fun l => (f c l).2) fun c l _ => (laneOf (f c l)).1

/-! ## Conversion (R154 to R157) -/

/-- The format of a float code of Table 6.11. -/
def fmtOf : Nat → Fmt
  | 0 => .e4m3
  | 1 => .e5m2
  | 2 => .e2m1
  | 3 => .lg6
  | 4 => .bf16
  | 5 => .fp16
  | 6 => .fp32
  | _ => .fp64

/-- Width of an element of a format code. -/
def codeWidth : NumCode → Nat
  | .flt c => (fmtOf c).width
  | .int c => if c < 2 then 32 else 8

/-- Registers and elements of the shortest run that holds whole elements: (registers, elements) (Table 6.11). -/
def codePer : NumCode → Nat × Nat
  | .flt 7 => (2, 1)
  | .flt c => (1, 32 / (fmtOf c).width)
  | .int c => (1, if c < 2 then 1 else 4)

/-- N, S and D of a conversion (R155). -/
def cvtRuns (src dst : NumCode) : Nat × Nat × Nat :=
  let n := Nat.lcm (codePer src).2 (codePer dst).2
  (n, n / (codePer src).2 * (codePer src).1, n / (codePer dst).2 * (codePer dst).1)

/-- Element k of a run of registers, for a lane. -/
def Group.element (g : Group) (base : Nat) (f : NumCode) (k l : Nat) : Nat :=
  match (codePer f).1 with
  | 2 => (g.vRun base (2 * k + 1) l).toNat * 2 ^ 32 + (g.vRun base (2 * k) l).toNat
  | _ => (g.vRun base (k / (codePer f).2) l).toNat / 2 ^ (codeWidth f * (k % (codePer f).2)) % 2 ^ codeWidth f

/-- The exact value of an element (R65, R69). -/
def codeVal (f : NumCode) (c : Nat) : Val :=
  match f with
  | .flt k => value (fmtOf k) c
  | .int k => Val.ofInt (intOf (codeWidth (.int k)) (k % 2 == 0) c) 0 false

/-- Round a value into a format (R79, R80). -/
def codeRound (f : NumCode) (mode : Mode) (rb : Nat) (v : Val) : Nat × Flags :=
  match f with
  | .flt k => roundVal (fmtOf k) mode rb v
  | .int k => cvtInt v (codeWidth (.int k)) (k % 2 == 0) mode

/-- Register j of the destination run from its elements (Table 3.8). -/
def packRun (f : NumCode) (els : Nat → Nat) (j : Nat) : Lane :=
  match (codePer f).1 with
  | 2 => BitVec.ofNat 32 (els (j / 2) / 2 ^ (32 * (j % 2)))
  | _ => BitVec.ofNat 32 ((List.range (codePer f).2).foldl (fun w k => w + els (j * (codePer f).2 + k) * 2 ^ (codeWidth f * k)) 0)

/-- VCVT.  Under SR the random run follows the destination and is checked with it, from the field vd: in trap mode neither may
reach a trap-private register unless vd names one (R52, R157). -/
def execVcvt (r : BitVec 3) (p a d : BitVec 7) (s : State) : Host.Outcome State Fault Refusal :=
  let (src, dst) := cvtPair p
  let (n, m, k) := cvtRuns src dst
  let sr := r.toNat == 4
  let random := if sr then (n + 1) / 2 else 0
  let el := fun (c : Ctx) (l i : Nat) =>
    let rb := if sr then (c.g.vRun d.toNat (k + i / 2) l).toNat / 2 ^ (16 * (i % 2)) % 65536 else 0
    codeRound dst (Mode.ofCode r.toNat) rb (codeVal src (c.g.element a.toNat src i l))
  kindBOver s [(a.toNat, m), (d.toNat, k + random)] ((a.toNat, m) :: (if sr then [(d.toNat + k, random)] else [])) d.toNat k (fun _ => [])
    (fun c => c.allFlags fun l => (List.range n).foldl (fun fl i => fl ||| (el c l i).2) 0#4)
    fun c l j => packRun dst (fun i => (el c l i).1) j

/-! ## Block quantisation and packing (R158 to R161) -/

/-- The format of a scale word's code. -/
def scaleFmt : Nat → Option Fmt
  | 0 => some .e4m3
  | 1 => some .e5m2
  | 2 => some .e2m1
  | 3 => some .lg6
  | 6 => some .int8
  | _ => none

/-- VQNT into a format (R159): the block is the active lanes of va; the scale word goes to sd. -/
def quantise (s : State) (code : Nat) (f : Fmt) (sd : BitVec 6) (a d : BitVec 7) :
    Host.Outcome State Fault Refusal :=
  let scale := fun (c : Ctx) => bs8Scale f (c.lanes.map fun l => value .fp32 (c.g.v a.toNat l).toNat)
  let el := fun (c : Ctx) l => bs8Element f c.g.mode (scale c).1 (value .fp32 (c.g.v a.toNat l).toNat)
  kindB s [(a.toNat, 1)] d.toNat 1 (fun c => [(c.g.sKey sd, BitVec.ofNat 64 (code * 256 + (scale c).1))])
    (fun c => (scale c).2 ||| c.allFlags fun l => (el c l).2)
    fun c l _ => (laneOf (el c l)).1

/-- VQNT.e4m3. -/
def execVqntE4m3 (src : BitVec 6) (a d : BitVec 7) (s : State) : Host.Outcome State Fault Refusal :=
  quantise s 0 .e4m3 src a d

/-- VQNT.e5m2. -/
def execVqntE5m2 (src : BitVec 6) (a d : BitVec 7) (s : State) : Host.Outcome State Fault Refusal :=
  quantise s 1 .e5m2 src a d

/-- VQNT.e2m1. -/
def execVqntE2m1 (src : BitVec 6) (a d : BitVec 7) (s : State) : Host.Outcome State Fault Refusal :=
  quantise s 2 .e2m1 src a d

/-- VQNT.lg6. -/
def execVqntLg6 (src : BitVec 6) (a d : BitVec 7) (s : State) : Host.Outcome State Fault Refusal :=
  quantise s 3 .lg6 src a d

/-- VQNT.i8. -/
def execVqntI8 (src : BitVec 6) (a d : BitVec 7) (s : State) : Host.Outcome State Fault Refusal :=
  quantise s 6 .int8 src a d

/-- A dequantised element (R160). -/
def dequantise (f : Fmt) (mode : Mode) (sc code : Nat) : Nat × Flags :=
  match bs8val sc, value f (code % 2 ^ f.width) with
  | .nan, _ => (Fmt.nanCode .fp32, 0#4)
  | _, .nan => (Fmt.nanCode .fp32, 0#4)
  | x, y => finishRound .fp32 mode (mulVal x y)

/-- VDQNT. -/
def execVdqnt (src : BitVec 6) (a d : BitVec 7) (s : State) : Host.Outcome State Fault Refusal :=
  run s fun c => do
    c.checkRuns [(d.toNat, 1), (a.toNat, 1)]
    c.needB
    c.checkEcc c.active [(a.toNat, 1)]
    let w := (c.g.s src).toNat
    match (if w < 4096 then scaleFmt (w / 256) else none) with
    | none => .error c.illegal
    | some f =>
      let el := fun l => dequantise f c.g.mode (w % 256) (c.g.v a.toNat l).toNat
      let cells := runCells (c.g.vKey d.toNat) c.lanes 1 fun l _ => (laneOf (el l)).1
      .ok (c.launch (c.done s c.g) c.flagB none (.result cells [] (c.allFlags fun l => (el l).2)))

/-- Width and count of a packing width code (R161). -/
def packWidth (w : BitVec 2) : Nat × Nat :=
  match w.toNat with
  | 0 => (16, 2)
  | 1 => (8, 4)
  | 2 => (4, 8)
  | _ => (6, 5)

/-- VPACK. -/
def execVpack (w : BitVec 2) (a d : BitVec 7) (s : State) : Host.Outcome State Fault Refusal :=
  let (width, n) := packWidth w
  kindB s [(a.toNat, n)] d.toNat 1 (fun _ => []) (fun _ => 0#4) fun c l _ =>
    BitVec.ofNat 32 ((List.range n).foldl
      (fun x k => x + (c.g.vRun a.toNat k l).toNat % 2 ^ width * 2 ^ (width * k)) 0)

/-- VUNPACK. -/
def execVunpack (w : BitVec 2) (a d : BitVec 7) (s : State) : Host.Outcome State Fault Refusal :=
  let (width, n) := packWidth w
  kindB s [(a.toNat, 1)] d.toNat n (fun _ => []) (fun _ => 0#4) fun c l k =>
    BitVec.ofNat 32 ((c.g.v a.toNat l).toNat / 2 ^ (width * k) % 2 ^ width)

/-! ## Random numbers (R162, R163) -/

/-- One round of the hash on x0, x1, k0 and k1. -/
def randRound (x : Lane × Lane × Lane × Lane) : Lane × Lane × Lane × Lane :=
  let (x0, x1, k0, k1) := x
  let p := x0.toNat * 0xD2561A6B
  (BitVec.ofNat 32 (p / 2 ^ 32) ^^^ x1 ^^^ k0, BitVec.ofNat 32 p ^^^ k1, k0 + 0x9E3779B9, k1 + 0x7F4A7C15)

/-- n rounds. -/
def randRounds : Nat → Lane × Lane × Lane × Lane → Lane × Lane × Lane × Lane
  | 0, x => x
  | n + 1, x => randRounds n (randRound x)

/-- vrand_hash. -/
def randHash (key idx : Word) : Word :=
  let (x0, x1, _, _) := randRounds 10 (idx.setWidth 32, (idx >>> 32).setWidth 32, key.setWidth 32, (key >>> 32).setWidth 32)
  x1 ++ x0

/-- A VRAND form: the key is s[sb], the index base s[sb + 1]. -/
def randOp (s : State) (src : BitVec 6) (a d : BitVec 7) (f : Word → Lane) : Host.Outcome State Fault Refusal :=
  kindB s [(a.toNat, 1)] d.toNat 1 (fun _ => []) (fun _ => 0#4) fun c l _ =>
    f (randHash (c.g.s src) (c.g.s (src + 1) + (c.g.v a.toNat l).setWidth 64))

/-- VRAND.b32. -/
def execVrandB32 (src : BitVec 6) (a d : BitVec 7) (s : State) : Host.Outcome State Fault Refusal :=
  randOp s src a d fun h => h.setWidth 32

/-- VRAND.f32: h[63:40] × 2^-24. -/
def execVrandF32 (src : BitVec 6) (a d : BitVec 7) (s : State) : Host.Outcome State Fault Refusal :=
  randOp s src a d fun h => BitVec.ofNat 32 (roundVal .fp32 .rne 0 (.fin false (h.toNat / 2 ^ 40) (-24))).1

/-! ## Completion -/

/-- The results of an instruction in flight are written, its flags are ORed into FPSTAT, and it no longer keeps its flag
set (R39, R140). -/
def State.writeBack (s : State) (p : Pend) (vw : List (Nat × Lane)) (sw : List (Nat × Word)) (fp : Flags) : State :=
  (s.landPend p).onGroup p.age fun g => (sw.foldl (fun h w => h.setSKey w.1 w.2) (g.setCells vw)).orFp fp

end Sys2Proof.Machine
end

