-- ==== Sys2Proof/Decode.lean ====
section
/-! DEFINITION. Decoding and encoding of instruction words (R31, R36, R44, R47, Tables 2.1 to 2.5 and the minor tables
of every chapter).  A word is a number with bit 0 its least significant bit (R6).  Every word that no instruction
occupies, or whose must-be-zero field is not zero, is rejected: the fetch of such a word takes ILLEGAL (R3, R53). -/

namespace Sys2Proof

/-- Bits [lo + n - 1 : lo] of a word. -/
def fld (w lo n : Nat) : BitVec n := BitVec.ofNat n (w / 2 ^ lo)

/-- Bit lo of a word. -/
def bit (w lo : Nat) : Bool := decide (w / 2 ^ lo % 2 = 1)

/-- Why a word is not an instruction. -/
inductive DecodeError where
  /-- Raised by `decode` for a major, minor or field value that no instruction occupies (R53). -/
  | unassigned
  /-- Raised by `decode` where the row exists but a field value is illegal or a must-be-zero field is not zero (R54). -/
  | malformed
  deriving DecidableEq, Repr

/-- The 16-bit operations (Table 2.3), by op. -/
noncomputable def decodeShort (w : Nat) : Option Instr :=
  match w / 2 % 16 with
  | 0 => some (.vmov16 (bit w 15) (fld w 10 5) (fld w 5 5))
  | 1 => some (.vadd16 (bit w 15) (fld w 10 5) (fld w 5 5))
  | 2 => some (.vsub16 (bit w 15) (fld w 10 5) (fld w 5 5))
  | 3 => some (.vmul16 (bit w 15) (fld w 10 5) (fld w 5 5))
  | 4 => some (.vand16 (bit w 15) (fld w 10 5) (fld w 5 5))
  | 5 => some (.vor16 (bit w 15) (fld w 10 5) (fld w 5 5))
  | 6 => some (.vxor16 (bit w 15) (fld w 10 5) (fld w 5 5))
  | 7 => some (.vshl16 (bit w 15) (fld w 10 5) (fld w 5 5))
  | 8 => some (.vshr16 (bit w 15) (fld w 10 5) (fld w 5 5))
  | 9 => some (.vsra16 (bit w 15) (fld w 10 5) (fld w 5 5))
  | 10 => some (.vfadd16 (bit w 15) (fld w 10 5) (fld w 5 5))
  | 11 => some (.vfsub16 (bit w 15) (fld w 10 5) (fld w 5 5))
  | 12 => some (.vfmul16 (bit w 15) (fld w 10 5) (fld w 5 5))
  | 13 => some (.vfmin16 (bit w 15) (fld w 10 5) (fld w 5 5))
  | 14 => some (.vfmax16 (bit w 15) (fld w 10 5) (fld w 5 5))
  | 15 => some (.vaddi16 (fld w 10 5) (fld w 5 5))
  | _ => none

/-- Major 0x00. -/
noncomputable def decodeMajor00 (w : Nat) : Option Instr :=
  some (.clauseHeader (bit w 31) (bit w 30) (fld w 27 3) (fld w 23 4) (fld w 19 4) (fld w 7 12))

/-- Major 0x01. -/
noncomputable def decodeMajor01 (w : Nat) : Option Instr :=
  match w / 2 ^ 25 % 128 with
  | 0x0 => some (.sadd (fld w 19 6) (fld w 13 6) (fld w 7 6))
  | 0x1 => some (.ssub (fld w 19 6) (fld w 13 6) (fld w 7 6))
  | 0x2 => some (.smul (fld w 19 6) (fld w 13 6) (fld w 7 6))
  | 0x3 => some (.smulhI64 (fld w 19 6) (fld w 13 6) (fld w 7 6))
  | 0x4 => some (.smulhN64 (fld w 19 6) (fld w 13 6) (fld w 7 6))
  | 0x5 => some (.sdivn (fld w 19 6) (fld w 13 6) (fld w 7 6))
  | 0x6 => some (.sand (fld w 19 6) (fld w 13 6) (fld w 7 6))
  | 0x7 => some (.sor (fld w 19 6) (fld w 13 6) (fld w 7 6))
  | 0x8 => some (.sxor (fld w 19 6) (fld w 13 6) (fld w 7 6))
  | 0x9 => some (.sshl (fld w 19 6) (fld w 13 6) (fld w 7 6))
  | 0xA => some (.sshr (fld w 19 6) (fld w 13 6) (fld w 7 6))
  | 0xB => some (.ssra (fld w 19 6) (fld w 13 6) (fld w 7 6))
  | 0xC => some (.sminI64 (fld w 19 6) (fld w 13 6) (fld w 7 6))
  | 0xD => some (.sminN64 (fld w 19 6) (fld w 13 6) (fld w 7 6))
  | 0xE => some (.smaxI64 (fld w 19 6) (fld w 13 6) (fld w 7 6))
  | 0xF => some (.smaxN64 (fld w 19 6) (fld w 13 6) (fld w 7 6))
  | 0x10 => some (.ssel (fld w 25 2) (fld w 19 6) (fld w 13 6) (fld w 7 6))
  | 0x11 => some (.ssel (fld w 25 2) (fld w 19 6) (fld w 13 6) (fld w 7 6))
  | 0x12 => some (.ssel (fld w 25 2) (fld w 19 6) (fld w 13 6) (fld w 7 6))
  | 0x13 => some (.ssel (fld w 25 2) (fld w 19 6) (fld w 13 6) (fld w 7 6))
  | 0x14 => some (.sclz (fld w 13 6) (fld w 7 6))
  | 0x15 => some (.spopc (fld w 13 6) (fld w 7 6))
  | 0x16 => some (.sbfxN64 (fld w 19 6) (fld w 13 6) (fld w 7 6))
  | 0x17 => some (.sbfxI64 (fld w 19 6) (fld w 13 6) (fld w 7 6))
  | 0x18 => some (.sbfi (fld w 19 6) (fld w 13 6) (fld w 7 6))
  | 0x19 => some (.scmp (fld w 19 6) (fld w 13 6) (fld w 9 4) (fld w 7 2))
  | 0x1A => some (.smov (fld w 13 6) (fld w 7 6))
  | _ => none

/-- Major 0x02. -/
noncomputable def decodeMajor02 (w : Nat) : Option Instr :=
  match w / 2 ^ 28 % 16 with
  | 0x0 => some (.saddImm (fld w 19 9) (fld w 13 6) (fld w 7 6))
  | 0x1 => some (.smulImm (fld w 19 9) (fld w 13 6) (fld w 7 6))
  | 0x2 => some (.sandImm (fld w 19 9) (fld w 13 6) (fld w 7 6))
  | 0x3 => some (.sorImm (fld w 19 9) (fld w 13 6) (fld w 7 6))
  | 0x4 => some (.sxorImm (fld w 19 9) (fld w 13 6) (fld w 7 6))
  | 0x5 => some (.sshlImm (fld w 19 6) (fld w 13 6) (fld w 7 6))
  | 0x6 => some (.sshrImm (fld w 19 6) (fld w 13 6) (fld w 7 6))
  | 0x7 => some (.ssraImm (fld w 19 6) (fld w 13 6) (fld w 7 6))
  | 0x8 => some (.sminImm (fld w 19 9) (fld w 13 6) (fld w 7 6))
  | 0x9 => some (.smaxImm (fld w 19 9) (fld w 13 6) (fld w 7 6))
  | 0xA => some (.scmpImm (fld w 19 9) (fld w 13 6) (fld w 9 4) (fld w 7 2))
  | _ => none

/-- Major 0x03. -/
noncomputable def decodeMajor03 (w : Nat) : Option Instr :=
  match w / 2 ^ 31 % 2 with
  | 0x0 => some (.sli (fld w 13 18) (fld w 7 6))
  | 0x1 => some (.slih (fld w 29 2) (fld w 13 16) (fld w 7 6))
  | _ => none

/-- Major 0x04. -/
noncomputable def decodeMajor04 (w : Nat) : Option Instr :=
  match w / 2 ^ 10 % 2, w / 2 ^ 7 % 2 with
  | 0, _ => some (.bra (fld w 11 21))
  | 1, 1 => some (.bcT (fld w 11 21) (fld w 8 2))
  | 1, 0 => some (.bcF (fld w 11 21) (fld w 8 2))
  | _, _ => none

/-- Major 0x05. -/
noncomputable def decodeMajor05 (w : Nat) : Option Instr :=
  match w / 2 ^ 9 % 4 with
  | 0x0 => some (.bdiv (fld w 11 21) (fld w 7 2))
  | 0x1 => some (.bvoteAny (fld w 11 21) (fld w 7 2))
  | 0x2 => some (.bvoteAll (fld w 11 21) (fld w 7 2))
  | 0x3 => some (.bvoteNone (fld w 11 21) (fld w 7 2))
  | _ => none

/-- Major 0x06. -/
noncomputable def decodeMajor06 (w : Nat) : Option Instr :=
  match w / 2 ^ 25 % 128 with
  | 0x0 => some (.call (fld w 7 18))
  | 0x1 => some (.callR (fld w 7 6))
  | 0x2 => some .ret
  | 0x3 => some (.jmpi (fld w 7 6))
  | 0x4 => some (.join (fld w 7 3))
  | 0x5 => some (.park (fld w 7 3))
  | 0x6 => some (.strike (fld w 7 3))
  | 0x7 => some .regang
  | 0x8 => some .exit
  | 0x9 => some .nop
  | 0xA => some .yield
  | _ => none

/-- Major 0x07. -/
noncomputable def decodeMajor07 (w : Nat) : Option Instr :=
  match w / 2 ^ 25 % 128 with
  | 0x0 => some (.srd (fld w 13 12) (fld w 7 6))
  | 0x1 => some (.swr (fld w 13 12) (fld w 7 6))
  | _ => none

/-- Major 0x08. -/
noncomputable def decodeMajor08 (w : Nat) : Option Instr :=
  match w / 2 ^ 28 % 8 with
  | 0x0 => some (.vadd (bit w 31) (fld w 21 7) (fld w 14 7) (fld w 7 7))
  | 0x1 => some (.vsub (bit w 31) (fld w 21 7) (fld w 14 7) (fld w 7 7))
  | 0x2 => some (.vmul (bit w 31) (fld w 21 7) (fld w 14 7) (fld w 7 7))
  | 0x3 => some (.vmulh (bit w 31) (fld w 21 7) (fld w 14 7) (fld w 7 7))
  | 0x4 => some (.vmin (bit w 31) (fld w 21 7) (fld w 14 7) (fld w 7 7))
  | 0x5 => some (.vmax (bit w 31) (fld w 21 7) (fld w 14 7) (fld w 7 7))
  | 0x6 => some (.vabsd (bit w 31) (fld w 21 7) (fld w 14 7) (fld w 7 7))
  | 0x7 => some (.vdot4 (bit w 31) (fld w 21 7) (fld w 14 7) (fld w 7 7))
  | _ => none

/-- Major 0x09. -/
noncomputable def decodeMajor09 (w : Nat) : Option Instr :=
  match w / 2 ^ 28 % 8 with
  | 0x0 => some (.vand (bit w 31) (fld w 21 7) (fld w 14 7) (fld w 7 7))
  | 0x1 => some (.vor (bit w 31) (fld w 21 7) (fld w 14 7) (fld w 7 7))
  | 0x2 => some (.vxor (bit w 31) (fld w 21 7) (fld w 14 7) (fld w 7 7))
  | 0x3 => some (.vshl (bit w 31) (fld w 21 7) (fld w 14 7) (fld w 7 7))
  | 0x4 => some (.vshr (bit w 31) (fld w 21 7) (fld w 14 7) (fld w 7 7))
  | 0x5 => some (.vsra (bit w 31) (fld w 21 7) (fld w 14 7) (fld w 7 7))
  | 0x6 => some (.vfshl (bit w 31) (fld w 21 7) (fld w 14 7) (fld w 7 7))
  | 0x7 => some (.vfshr (bit w 31) (fld w 21 7) (fld w 14 7) (fld w 7 7))
  | _ => none

/-- Major 0x0A. -/
noncomputable def decodeMajor0A (w : Nat) : Option Instr :=
  match w / 2 ^ 28 % 8 with
  | 0x0 =>
    match w / 2 ^ 21 % 128 with
    | 0x0 => some (.vpopc (fld w 14 7) (fld w 7 7))
    | 0x1 => some (.vclz (fld w 14 7) (fld w 7 7))
    | 0x2 => some (.vbrev (fld w 14 7) (fld w 7 7))
    | 0x3 => some (.vnot (fld w 14 7) (fld w 7 7))
    | _ => none
  | 0x1 => some (.vbfxN32 (bit w 31) (fld w 21 7) (fld w 14 7) (fld w 7 7))
  | 0x2 => some (.vbfxI32 (bit w 31) (fld w 21 7) (fld w 14 7) (fld w 7 7))
  | 0x3 => some (.vbfi (bit w 31) (fld w 21 7) (fld w 14 7) (fld w 7 7))
  | 0x4 => some (.vaddc (bit w 31) (fld w 21 7) (fld w 14 7) (fld w 7 7))
  | 0x5 => some (.vsubb (bit w 31) (fld w 21 7) (fld w 14 7) (fld w 7 7))
  | _ => none

/-- Major 0x0B. -/
noncomputable def decodeMajor0B (w : Nat) : Option Instr :=
  match w / 2 ^ 21 % 8 with
  | 0x0 => some (.vaddi (fld w 24 8) (fld w 14 7) (fld w 7 7))
  | 0x1 => some (.vandi (fld w 24 8) (fld w 14 7) (fld w 7 7))
  | 0x2 => some (.vori (fld w 24 8) (fld w 14 7) (fld w 7 7))
  | 0x3 => some (.vxori (fld w 24 8) (fld w 14 7) (fld w 7 7))
  | 0x4 => some (.vshli (fld w 24 5) (fld w 14 7) (fld w 7 7))
  | 0x5 => some (.vshri (fld w 24 5) (fld w 14 7) (fld w 7 7))
  | 0x6 => some (.vsrai (fld w 24 5) (fld w 14 7) (fld w 7 7))
  | 0x7 => some (.vli (BitVec.ofNat 15 ((w / 2 ^ 24 % 2 ^ 8) * 2 ^ 7 + w / 2 ^ 14 % 2 ^ 7)) (fld w 7 7))
  | _ => none

/-- Majors 0x0C and 0x0D. -/
noncomputable def decodeMajor0C (w : Nat) : Option Instr :=
  some (.vlop3 (BitVec.ofNat 8 (w / 2 ^ 25 % 2 ^ 7 + (w / 2 ^ 1 % 2 ^ 1) * 2 ^ 7)) (fld w 19 6) (fld w 13 6) (fld w 7 6))

/-- Major 0x0E. -/
noncomputable def decodeMajor0E (w : Nat) : Option Instr :=
  some (.vicmp (bit w 31) (fld w 21 7) (fld w 14 7) (fld w 10 4) (fld w 7 3))

/-- Major 0x0F. -/
noncomputable def decodeMajor0F (w : Nat) : Option Instr :=
  match w / 2 ^ 28 % 8 with
  | 0x0 => some (.vsel (bit w 31) (fld w 21 7) (fld w 14 7) (fld w 7 7))
  | 0x1 => some (.vmovs (fld w 21 6) (fld w 14 7) (fld w 7 6))
  | 0x2 => some (.vmovx (bit w 31) (fld w 21 7) (fld w 14 7) (fld w 7 7))
  | 0x3 => some (.vmovxl (bit w 31) (fld w 21 7) (fld w 7 7))
  | 0x4 => some (.vmovxw (bit w 31) (fld w 21 7) (fld w 14 7) (fld w 7 7))
  | 0x5 => some (.vmov (bit w 31) (fld w 21 7) (fld w 7 7))
  | _ => none

/-- Major 0x10. -/
noncomputable def decodeMajor10 (w : Nat) : Option Instr :=
  match w / 2 ^ 28 % 8 with
  | 0x0 => some (.vfadd (bit w 31) (fld w 21 7) (fld w 14 7) (fld w 7 7))
  | 0x1 => some (.vfsub (bit w 31) (fld w 21 7) (fld w 14 7) (fld w 7 7))
  | 0x2 => some (.vfmul (bit w 31) (fld w 21 7) (fld w 14 7) (fld w 7 7))
  | 0x3 => some (.vfmin (bit w 31) (fld w 21 7) (fld w 14 7) (fld w 7 7))
  | 0x4 => some (.vfmax (bit w 31) (fld w 21 7) (fld w 14 7) (fld w 7 7))
  | 0x5 => some (.vfma (bit w 31) (fld w 21 7) (fld w 14 7) (fld w 7 7))
  | 0x6 => some (.vfscale (bit w 31) (fld w 21 7) (fld w 14 7) (fld w 7 7))
  | 0x7 => some (.vfcpys (bit w 31) (fld w 21 7) (fld w 14 7) (fld w 7 7))
  | _ => none

/-- Major 0x11. -/
noncomputable def decodeMajor11 (w : Nat) : Option Instr :=
  some (.vfmad (bit w 31) (fld w 25 6) (fld w 19 6) (fld w 13 6) (fld w 7 6))

/-- Major 0x12. -/
noncomputable def decodeMajor12 (w : Nat) : Option Instr :=
  match w / 2 ^ 28 % 8 with
  | 0x0 => some (.vfabs (fld w 14 7) (fld w 7 7))
  | 0x1 => some (.vfneg (fld w 14 7) (fld w 7 7))
  | 0x2 => some (.vfrnd (fld w 21 2) (fld w 14 7) (fld w 7 7))
  | 0x3 => some (.vfclass (fld w 14 7) (fld w 7 7))
  | 0x4 => some (.vfexpo (fld w 14 7) (fld w 7 7))
  | 0x5 => some (.vfcmp (bit w 31) (fld w 21 7) (fld w 14 7) (fld w 10 4) (fld w 7 3))
  | _ => none

/-- Major 0x13. -/
noncomputable def decodeMajor13 (w : Nat) : Option Instr :=
  match w / 2 ^ 28 % 8 with
  | 0x0 => some (.vpfadd (bit w 31) (fld w 21 7) (fld w 14 7) (fld w 7 7))
  | 0x1 => some (.vpfmul (bit w 31) (fld w 21 7) (fld w 14 7) (fld w 7 7))
  | 0x2 => some (.vpfma (bit w 31) (fld w 21 7) (fld w 14 7) (fld w 7 7))
  | _ => none

/-- Major 0x14. -/
noncomputable def decodeMajor14 (w : Nat) : Option Instr :=
  match w / 2 ^ 28 % 8 with
  | 0x0 => some (.vhaddBf16 (bit w 31) (fld w 21 7) (fld w 14 7) (fld w 7 7))
  | 0x1 => some (.vhmulBf16 (bit w 31) (fld w 21 7) (fld w 14 7) (fld w 7 7))
  | 0x2 => some (.vhfmaBf16 (bit w 31) (fld w 21 7) (fld w 14 7) (fld w 7 7))
  | 0x4 => some (.vhaddF16 (bit w 31) (fld w 21 7) (fld w 14 7) (fld w 7 7))
  | 0x5 => some (.vhmulF16 (bit w 31) (fld w 21 7) (fld w 14 7) (fld w 7 7))
  | 0x6 => some (.vhfmaF16 (bit w 31) (fld w 21 7) (fld w 14 7) (fld w 7 7))
  | _ => none

/-- Major 0x15. -/
noncomputable def decodeMajor15 (w : Nat) : Option Instr :=
  match w / 2 ^ 28 % 8 with
  | 0x0 => some (.vdadd (bit w 31) (fld w 21 7) (fld w 14 7) (fld w 7 7))
  | 0x1 => some (.vdmul (bit w 31) (fld w 21 7) (fld w 14 7) (fld w 7 7))
  | 0x2 => some (.vdfma (bit w 31) (fld w 21 7) (fld w 14 7) (fld w 7 7))
  | 0x3 => some (.vdmin (bit w 31) (fld w 21 7) (fld w 14 7) (fld w 7 7))
  | 0x4 => some (.vdmax (bit w 31) (fld w 21 7) (fld w 14 7) (fld w 7 7))
  | _ => none

/-- Major 0x16. -/
noncomputable def decodeMajor16 (w : Nat) : Option Instr :=
  match w / 2 ^ 25 % 128 with
  | 0x0 => some (.vrcp (fld w 14 7) (fld w 7 7))
  | 0x8 => some (.vrsqrt (fld w 14 7) (fld w 7 7))
  | 0x10 => some (.vsqrt (fld w 14 7) (fld w 7 7))
  | 0x18 => some (.vexp2 (fld w 14 7) (fld w 7 7))
  | 0x20 => some (.vlog2 (fld w 14 7) (fld w 7 7))
  | 0x28 => some (.vsin (fld w 14 7) (fld w 7 7))
  | 0x30 => some (.vcos (fld w 14 7) (fld w 7 7))
  | 0x38 => some (.vtanh (fld w 14 7) (fld w 7 7))
  | _ => none

/-- Major 0x17. -/
noncomputable def decodeMajor17 (w : Nat) : Option Instr :=
  match w / 2 ^ 28 % 8 with
  | 0x0 => some (.vsigm (fld w 14 7) (fld w 7 7))
  | 0x1 => some (.vfdivs (bit w 31) (fld w 21 7) (fld w 14 7) (fld w 7 7))
  | 0x2 => some (.vfdivx (bit w 31) (fld w 21 7) (fld w 14 7) (fld w 7 7))
  | _ => none

/-- Major 0x18. -/
noncomputable def decodeMajor18 (w : Nat) : Option Instr :=
  some (.vcvt (fld w 28 3) (fld w 21 7) (fld w 14 7) (fld w 7 7))

/-- Major 0x19. -/
noncomputable def decodeMajor19 (w : Nat) : Option Instr :=
  match w / 2 ^ 28 % 8 with
  | 0x0 => some (.vqntE4m3 (fld w 21 6) (fld w 14 7) (fld w 7 7))
  | 0x1 => some (.vqntE5m2 (fld w 21 6) (fld w 14 7) (fld w 7 7))
  | 0x2 => some (.vqntE2m1 (fld w 21 6) (fld w 14 7) (fld w 7 7))
  | 0x3 => some (.vqntLg6 (fld w 21 6) (fld w 14 7) (fld w 7 7))
  | 0x4 => some (.vqntI8 (fld w 21 6) (fld w 14 7) (fld w 7 7))
  | 0x5 => some (.vdqnt (fld w 21 6) (fld w 14 7) (fld w 7 7))
  | 0x6 => some (.vpack (fld w 21 2) (fld w 14 7) (fld w 7 7))
  | 0x7 => some (.vunpack (fld w 21 2) (fld w 14 7) (fld w 7 7))
  | _ => none

/-- Major 0x1A. -/
noncomputable def decodeMajor1A (w : Nat) : Option Instr :=
  match w / 2 ^ 28 % 8 with
  | 0x0 => some (.vrandB32 (fld w 21 6) (fld w 14 7) (fld w 7 7))
  | 0x1 => some (.vrandF32 (fld w 21 6) (fld w 14 7) (fld w 7 7))
  | _ => none

/-- Major 0x1C. -/
noncomputable def decodeMajor1C (w : Nat) : Option Instr :=
  match w / 2 ^ 28 % 8 with
  | 0x0 => some (.vnblRing (fld w 14 7) (fld w 7 7))
  | 0x1 => some (.vnbrRing (fld w 14 7) (fld w 7 7))
  | 0x2 => some (.vnblEdge (bit w 21) (fld w 14 7) (fld w 7 7))
  | 0x3 => some (.vnbrEdge (bit w 21) (fld w 14 7) (fld w 7 7))
  | 0x4 => some (.vshuf (bit w 31) (fld w 21 7) (fld w 14 7) (fld w 7 7))
  | 0x5 => if bit w 31 then some (.vbcastScalar (fld w 21 6) (fld w 14 7) (fld w 7 7)) else some (.vbcastImm (fld w 21 5) (fld w 14 7) (fld w 7 7))
  | _ => none

/-- Major 0x1D. -/
noncomputable def decodeMajor1D (w : Nat) : Option Instr :=
  match w / 2 ^ 28 % 8 with
  | 0x0 => some (.vred (fld w 21 7) (fld w 14 7) (fld w 7 7))
  | 0x1 => some (.vscanIncl (fld w 21 7) (fld w 14 7) (fld w 7 7))
  | 0x2 => some (.vscanExcl (fld w 21 7) (fld w 14 7) (fld w 7 7))
  | 0x3 => if bit w 21 then some (.vvoteEq (fld w 14 7) (fld w 7 6)) else some (.vvoteBallot (fld w 14 7) (fld w 7 6))
  | _ => none

/-- Major 0x1E. -/
noncomputable def decodeMajor1E (w : Nat) : Option Instr :=
  match w / 2 ^ 25 % 128 with
  | 0x0 => some (.xsend (fld w 19 6) (fld w 17 2) (fld w 13 4) (fld w 7 6))
  | 0x1 => some (.xrecv (fld w 19 6) (fld w 17 2) (fld w 13 4) (fld w 7 6))
  | 0x2 => some (.xedge (bit w 13) (fld w 7 6))
  | _ => none

/-- Major 0x1F. -/
noncomputable def decodeMajor1F (w : Nat) : Option Instr :=
  match w / 2 ^ 25 % 128 with
  | 0x0 => some (.mand (fld w 19 3) (fld w 13 3) (fld w 7 3))
  | 0x1 => some (.mor (fld w 19 3) (fld w 13 3) (fld w 7 3))
  | 0x2 => some (.mxor (fld w 19 3) (fld w 13 3) (fld w 7 3))
  | 0x3 => some (.mnot (fld w 13 3) (fld w 7 3))
  | 0x4 => some (.mpop (fld w 13 3) (fld w 7 6))
  | 0x5 => some (.mfind (fld w 13 3) (fld w 7 6))
  | 0x6 => some (.mset (fld w 13 6) (fld w 7 3))
  | 0x7 => some (.mget (fld w 13 3) (fld w 7 6))
  | 0x8 => some (.mgetLanes (fld w 7 6))
  | _ => none

/-- Major 0x20. -/
noncomputable def decodeMajor20 (w : Nat) : Option Instr :=
  some (.ld (bit w 31) (fld w 28 3) (bit w 27) (fld w 20 7) (fld w 14 6) (fld w 7 7))

/-- Major 0x21. -/
noncomputable def decodeMajor21 (w : Nat) : Option Instr :=
  some (.st (bit w 31) (fld w 28 3) (bit w 27) (fld w 20 7) (fld w 14 6) (fld w 7 7))

/-- Major 0x22. -/
noncomputable def decodeMajor22 (w : Nat) : Option Instr :=
  some (.lds (fld w 19 13) (fld w 13 6) (fld w 7 6))

/-- Major 0x23. -/
noncomputable def decodeMajor23 (w : Nat) : Option Instr :=
  some (.sts (fld w 19 13) (fld w 13 6) (fld w 7 6))

/-- Major 0x24. -/
noncomputable def decodeMajor24 (w : Nat) : Option Instr :=
  match w / 2 ^ 31 % 2 with
  | 0x0 => some (.ldacq (bit w 30) (fld w 27 3) (fld w 20 7) (fld w 14 6) (fld w 7 7))
  | 0x1 => some (.strel (bit w 30) (fld w 27 3) (fld w 20 7) (fld w 14 6) (fld w 7 7))
  | _ => none

/-- Major 0x25. -/
noncomputable def decodeMajor25 (w : Nat) : Option Instr :=
  match w / 2 ^ 30 % 4 with
  | 0x0 => some (.pref (bit w 29) (bit w 28) (fld w 20 7) (fld w 14 6))
  | 0x1 => some (.cflush (bit w 29) (bit w 28) (fld w 20 7) (fld w 14 6))
  | 0x2 => some (.cinv (bit w 29) (bit w 28) (fld w 20 7) (fld w 14 6))
  | _ => none

/-- Major 0x26. -/
noncomputable def decodeMajor26 (w : Nat) : Option Instr :=
  match w / 2 ^ 25 % 128 with
  | 0x0 => some (.landr (fld w 7 6))
  | 0x1 => some (.unmapv (fld w 13 6) (fld w 7 6))
  | 0x2 => some (.unmapvDiscard (fld w 13 6) (fld w 7 6))
  | 0x3 => some (.unmapvRights (fld w 13 6) (fld w 7 6))
  | _ => none

/-- Major 0x28. -/
noncomputable def decodeMajor28 (w : Nat) : Option Instr :=
  some (.atom (fld w 27 5) (fld w 20 7) (fld w 14 6) (fld w 7 7))

/-- Major 0x29. -/
noncomputable def decodeMajor29 (w : Nat) : Option Instr :=
  some (.red (fld w 27 5) (fld w 20 7) (fld w 14 6) (fld w 7 7))

/-- Major 0x2A. -/
noncomputable def decodeMajor2A (w : Nat) : Option Instr :=
  some (.xat (bit w 31) (fld w 28 3) (fld w 21 7) (fld w 14 7) (fld w 7 7))

/-- Major 0x2B. -/
noncomputable def decodeMajor2B (w : Nat) : Option Instr :=
  some (.xred (bit w 31) (fld w 28 3) (fld w 21 7) (fld w 14 7) (fld w 7 7))

/-- Major 0x2C. -/
noncomputable def decodeMajor2C (w : Nat) : Option Instr :=
  match w / 2 ^ 28 % 8 with
  | 0x0 => some (.fenceAcq (fld w 25 3))
  | 0x1 => some (.fenceRel (fld w 25 3))
  | 0x2 => some (.fenceFull (fld w 25 3))
  | 0x3 => some .tcfence
  | _ => none

/-- Major 0x2D. -/
noncomputable def decodeMajor2D (w : Nat) : Option Instr :=
  match w / 2 ^ 25 % 128 with
  | 0x0 => some (.bar (fld w 7 6))
  | 0x1 => some (.bara (fld w 7 6))
  | 0x2 => some (.barw (fld w 7 6))
  | _ => none

/-- Major 0x2E. -/
noncomputable def decodeMajor2E (w : Nat) : Option Instr :=
  match w / 2 ^ 25 % 128 with
  | 0x0 => some (.mbinit (fld w 13 6) (fld w 7 6))
  | 0x1 => some (.mbexp (fld w 13 6) (fld w 7 6))
  | 0x2 => some (.mbarr (fld w 13 6) (fld w 7 6))
  | 0x3 => some (.mbwait (fld w 13 6) (fld w 7 6))
  | _ => none

/-- Major 0x2F. -/
noncomputable def decodeMajor2F (w : Nat) : Option Instr :=
  match w / 2 ^ 25 % 128 with
  | 0x0 => some (.mon (fld w 7 6))
  | 0x1 => some (.mwait (fld w 13 6) (fld w 7 6))
  | 0x10 => some (.waitcLd (fld w 13 6))
  | 0x11 => some (.waitcSt (fld w 13 6))
  | 0x12 => some (.waitcWh (fld w 13 6))
  | 0x13 => some (.waitcAn (fld w 13 6))
  | 0x14 => some (.waitcRa (fld w 13 6))
  | 0x15 => some (.waitcFe (fld w 13 6))
  | _ => none

/-- Major 0x30. -/
noncomputable def decodeMajor30 (w : Nat) : Option Instr :=
  match w / 2 ^ 25 % 128 with
  | 0x0 => some (.wcopy (fld w 19 6) (fld w 13 3) (fld w 7 3))
  | 0x1 => some (.wcopyStream (fld w 19 6) (fld w 13 3) (fld w 7 3))
  | _ => none

/-- Major 0x31. -/
noncomputable def decodeMajor31 (w : Nat) : Option Instr :=
  match w / 2 ^ 31 % 2 with
  | 0x0 => some (.wgather (fld w 25 6) (fld w 19 3) (fld w 13 3) (fld w 7 3))
  | 0x1 => some (.wscatter (fld w 25 6) (fld w 19 3) (fld w 13 3) (fld w 7 3))
  | _ => none

/-- Major 0x32. -/
noncomputable def decodeMajor32 (w : Nat) : Option Instr :=
  match w / 2 ^ 25 % 128 with
  | 0x0 => some (.wfill (fld w 19 6) (fld w 13 6) (fld w 7 3))
  | 0x1 => some (.wcomp (fld w 19 6) (fld w 13 3) (fld w 7 6))
  | 0x2 => some (.wdcomp (fld w 19 6) (fld w 13 6) (fld w 7 3))
  | _ => none

/-- Major 0x33. -/
noncomputable def decodeMajor33 (w : Nat) : Option Instr :=
  match w / 2 ^ 27 % 32 with
  | 0x0 => some (.wloado (bit w 26) (BitVec.ofNat 7 ((w / 2 ^ 25 % 2 ^ 1) * 2 ^ 6 + w / 2 ^ 7 % 2 ^ 6)) (fld w 19 6) (fld w 13 3))
  | 0x4 =>
    match w / 2 ^ 25 % 4 with
    | 0x0 => some (.wstat (fld w 13 6) (fld w 7 6))
    | 0x1 => some (.wcancel (fld w 13 6))
    | _ => none
  | _ => none

/-- Major 0x34. -/
noncomputable def decodeMajor34 (w : Nat) : Option Instr :=
  match w / 2 ^ 25 % 128 with
  | 0x0 => some (.frs (fld w 13 6) (fld w 7 6))
  | 0x1 => some (.fag (fld w 13 6) (fld w 7 6))
  | 0x2 => some (.far (fld w 13 6) (fld w 7 6))
  | 0x3 => some (.fa2a (fld w 13 6) (fld w 7 6))
  | 0x4 => some (.fbc (fld w 13 6) (fld w 7 6))
  | _ => none

/-- Major 0x35. -/
noncomputable def decodeMajor35 (w : Nat) : Option Instr :=
  match w / 2 ^ 25 % 128 with
  | 0x0 => some (.fupd (fld w 19 6) (fld w 13 6) (fld w 7 6))
  | 0x1 => some (.fshard (fld w 7 6))
  | _ => none

/-- Major 0x36. -/
noncomputable def decodeMajor36 (w : Nat) : Option Instr :=
  match w / 2 ^ 25 % 128 with
  | 0x0 => some (.oclaim (fld w 19 6) (fld w 13 6) (fld w 7 6))
  | 0x1 => some (.orel (fld w 19 6) (fld w 13 6))
  | 0x2 => some (.oput (fld w 19 3) (fld w 13 6) (fld w 7 6))
  | 0x3 => some (.oget (fld w 19 3) (fld w 13 6) (fld w 7 6))
  | 0x4 => some (.aclaim (fld w 19 6) (fld w 13 6) (fld w 7 6))
  | 0x5 => some (.arel (fld w 19 6) (fld w 13 6))
  | _ => none

/-- Major 0x37. -/
noncomputable def decodeMajor37 (w : Nat) : Option Instr :=
  match w / 2 ^ 30 % 4 with
  | 0x0 => some (.mma (fld w 25 5) (fld w 19 6) (fld w 13 6) (fld w 7 6))
  | 0x1 => some (.mmas (fld w 25 5) (fld w 19 6) (fld w 13 6) (fld w 7 6))
  | _ => none

/-- Major 0x38. -/
noncomputable def decodeMajor38 (w : Nat) : Option Instr :=
  match w / 2 ^ 25 % 128 with
  | 0x0 => some (.afence (fld w 7 6))
  | 0x1 => some (.azero (bit w 13) (fld w 7 5))
  | 0x2 => some (.gangset (fld w 7 6))
  | 0x3 => some (.gangsetPair (fld w 7 6))
  | 0x4 => some (.aguide (fld w 7 6))
  | _ => none

/-- Major 0x39. -/
noncomputable def decodeMajor39 (w : Nat) : Option Instr :=
  match w / 2 ^ 30 % 4 with
  | 0x0 => some (.adrainV (fld w 25 5) (fld w 13 6) (fld w 7 6))
  | 0x1 => some (.adrainO (fld w 25 5) (fld w 13 6) (bit w 9) (bit w 8) (bit w 7))
  | 0x2 => some (.adrainG (fld w 25 5))
  | _ => none

/-- Major 0x3A. -/
noncomputable def decodeMajor3A (w : Nat) : Option Instr :=
  some (.astash (fld w 30 2) (bit w 29) (fld w 25 4) (fld w 19 6) (fld w 16 3) (fld w 13 3) (fld w 7 5))

/-- Major 0x3C. -/
noncomputable def decodeMajor3C (w : Nat) : Option Instr :=
  match w / 2 ^ 25 % 128 with
  | 0x0 => some (.lnch (fld w 13 6) (fld w 7 6))
  | 0x1 => some (.lnchTry (fld w 13 6) (fld w 7 6))
  | 0x2 => some .trig
  | _ => none

/-- Major 0x3D. -/
noncomputable def decodeMajor3D (w : Nat) : Option Instr :=
  match w / 2 ^ 25 % 128 with
  | 0x0 => some (.rgrow (fld w 7 6))
  | 0x1 => some (.rshrink (fld w 7 6))
  | 0x2 => some (.prio (fld w 13 6) (fld w 7 6))
  | 0x3 => some (.cohort (fld w 13 6) (fld w 7 6))
  | 0x4 => some (.cohortSelf (fld w 7 6))
  | _ => none

/-- Major 0x3E. -/
noncomputable def decodeMajor3E (w : Nat) : Option Instr :=
  match w / 2 ^ 25 % 128 with
  | 0x0 => some (.trap (fld w 7 12))
  | 0x1 => some .rte
  | 0x2 => some .rteSkip
  | 0x3 => some (.rteR (fld w 7 6))
  | 0x4 => some (.bkpt (fld w 7 12))
  | 0x5 => some (.trace (fld w 13 6) (fld w 7 6))
  | 0x6 => some .halt
  | 0x7 => some (.tstamp (fld w 7 6))
  | 0x8 => some (.perf (fld w 13 6) (fld w 7 6))
  | _ => none

/-- The 32-bit instructions, by major opcode (Table 2.5). -/
noncomputable def decodeLong (w : Nat) : Option Instr :=
  match w / 2 % 64 with
  | 0x00 => decodeMajor00 w
  | 0x01 => decodeMajor01 w
  | 0x02 => decodeMajor02 w
  | 0x03 => decodeMajor03 w
  | 0x04 => decodeMajor04 w
  | 0x05 => decodeMajor05 w
  | 0x06 => decodeMajor06 w
  | 0x07 => decodeMajor07 w
  | 0x08 => decodeMajor08 w
  | 0x09 => decodeMajor09 w
  | 0x0A => decodeMajor0A w
  | 0x0B => decodeMajor0B w
  | 0x0C => decodeMajor0C w
  | 0x0D => decodeMajor0C w
  | 0x0E => decodeMajor0E w
  | 0x0F => decodeMajor0F w
  | 0x10 => decodeMajor10 w
  | 0x11 => decodeMajor11 w
  | 0x12 => decodeMajor12 w
  | 0x13 => decodeMajor13 w
  | 0x14 => decodeMajor14 w
  | 0x15 => decodeMajor15 w
  | 0x16 => decodeMajor16 w
  | 0x17 => decodeMajor17 w
  | 0x18 => decodeMajor18 w
  | 0x19 => decodeMajor19 w
  | 0x1A => decodeMajor1A w
  | 0x1C => decodeMajor1C w
  | 0x1D => decodeMajor1D w
  | 0x1E => decodeMajor1E w
  | 0x1F => decodeMajor1F w
  | 0x20 => decodeMajor20 w
  | 0x21 => decodeMajor21 w
  | 0x22 => decodeMajor22 w
  | 0x23 => decodeMajor23 w
  | 0x24 => decodeMajor24 w
  | 0x25 => decodeMajor25 w
  | 0x26 => decodeMajor26 w
  | 0x28 => decodeMajor28 w
  | 0x29 => decodeMajor29 w
  | 0x2A => decodeMajor2A w
  | 0x2B => decodeMajor2B w
  | 0x2C => decodeMajor2C w
  | 0x2D => decodeMajor2D w
  | 0x2E => decodeMajor2E w
  | 0x2F => decodeMajor2F w
  | 0x30 => decodeMajor30 w
  | 0x31 => decodeMajor31 w
  | 0x32 => decodeMajor32 w
  | 0x33 => decodeMajor33 w
  | 0x34 => decodeMajor34 w
  | 0x35 => decodeMajor35 w
  | 0x36 => decodeMajor36 w
  | 0x37 => decodeMajor37 w
  | 0x38 => decodeMajor38 w
  | 0x39 => decodeMajor39 w
  | 0x3A => decodeMajor3A w
  | 0x3C => decodeMajor3C w
  | 0x3D => decodeMajor3D w
  | 0x3E => decodeMajor3E w
  | _ => none

/-- The row of the table that a word selects, by its length bit (R31). -/
noncomputable def decodeRow (w : Nat) : Option Instr := if w % 2 = 0 then decodeShort w else decodeLong w

/-- A word made of its fixed bits and its fields, each at its lowest bit. -/
def pack (fixed : Nat) : List (Nat × Nat) → Nat
  | [] => fixed
  | (lo, v) :: fs => v * 2 ^ lo + pack fixed fs

/-- The length in bits and the word of an instruction, field by field as the tables place them; an event row has no
encoding. -/
def encode : Instr → Option (Nat × Nat)
  | .clauseHeader g e m b a w => some (32, pack 0x00000001 [(31, g.toNat), (30, e.toNat), (27, m.toNat), (23, b.toNat), (19, a.toNat), (7, w.toNat)])
  | .vmov16 x s d => some (16, pack 0x0000 [(15, x.toNat), (10, s.toNat), (5, d.toNat)])
  | .vadd16 x s d => some (16, pack 0x0002 [(15, x.toNat), (10, s.toNat), (5, d.toNat)])
  | .vsub16 x s d => some (16, pack 0x0004 [(15, x.toNat), (10, s.toNat), (5, d.toNat)])
  | .vmul16 x s d => some (16, pack 0x0006 [(15, x.toNat), (10, s.toNat), (5, d.toNat)])
  | .vand16 x s d => some (16, pack 0x0008 [(15, x.toNat), (10, s.toNat), (5, d.toNat)])
  | .vor16 x s d => some (16, pack 0x000A [(15, x.toNat), (10, s.toNat), (5, d.toNat)])
  | .vxor16 x s d => some (16, pack 0x000C [(15, x.toNat), (10, s.toNat), (5, d.toNat)])
  | .vshl16 x s d => some (16, pack 0x000E [(15, x.toNat), (10, s.toNat), (5, d.toNat)])
  | .vshr16 x s d => some (16, pack 0x0010 [(15, x.toNat), (10, s.toNat), (5, d.toNat)])
  | .vsra16 x s d => some (16, pack 0x0012 [(15, x.toNat), (10, s.toNat), (5, d.toNat)])
  | .vfadd16 x s d => some (16, pack 0x0014 [(15, x.toNat), (10, s.toNat), (5, d.toNat)])
  | .vfsub16 x s d => some (16, pack 0x0016 [(15, x.toNat), (10, s.toNat), (5, d.toNat)])
  | .vfmul16 x s d => some (16, pack 0x0018 [(15, x.toNat), (10, s.toNat), (5, d.toNat)])
  | .vfmin16 x s d => some (16, pack 0x001A [(15, x.toNat), (10, s.toNat), (5, d.toNat)])
  | .vfmax16 x s d => some (16, pack 0x001C [(15, x.toNat), (10, s.toNat), (5, d.toNat)])
  | .vaddi16 i d => some (16, pack 0x001E [(10, i.toNat), (5, d.toNat)])
  | .sadd b a d => some (32, pack 0x00000003 [(19, b.toNat), (13, a.toNat), (7, d.toNat)])
  | .ssub b a d => some (32, pack 0x02000003 [(19, b.toNat), (13, a.toNat), (7, d.toNat)])
  | .smul b a d => some (32, pack 0x04000003 [(19, b.toNat), (13, a.toNat), (7, d.toNat)])
  | .smulhI64 b a d => some (32, pack 0x06000003 [(19, b.toNat), (13, a.toNat), (7, d.toNat)])
  | .smulhN64 b a d => some (32, pack 0x08000003 [(19, b.toNat), (13, a.toNat), (7, d.toNat)])
  | .sdivn b a d => some (32, pack 0x0A000003 [(19, b.toNat), (13, a.toNat), (7, d.toNat)])
  | .sand b a d => some (32, pack 0x0C000003 [(19, b.toNat), (13, a.toNat), (7, d.toNat)])
  | .sor b a d => some (32, pack 0x0E000003 [(19, b.toNat), (13, a.toNat), (7, d.toNat)])
  | .sxor b a d => some (32, pack 0x10000003 [(19, b.toNat), (13, a.toNat), (7, d.toNat)])
  | .sshl b a d => some (32, pack 0x12000003 [(19, b.toNat), (13, a.toNat), (7, d.toNat)])
  | .sshr b a d => some (32, pack 0x14000003 [(19, b.toNat), (13, a.toNat), (7, d.toNat)])
  | .ssra b a d => some (32, pack 0x16000003 [(19, b.toNat), (13, a.toNat), (7, d.toNat)])
  | .sminI64 b a d => some (32, pack 0x18000003 [(19, b.toNat), (13, a.toNat), (7, d.toNat)])
  | .sminN64 b a d => some (32, pack 0x1A000003 [(19, b.toNat), (13, a.toNat), (7, d.toNat)])
  | .smaxI64 b a d => some (32, pack 0x1C000003 [(19, b.toNat), (13, a.toNat), (7, d.toNat)])
  | .smaxN64 b a d => some (32, pack 0x1E000003 [(19, b.toNat), (13, a.toNat), (7, d.toNat)])
  | .ssel c b a d => some (32, pack 0x20000003 [(25, c.toNat), (19, b.toNat), (13, a.toNat), (7, d.toNat)])
  | .sclz a d => some (32, pack 0x28000003 [(13, a.toNat), (7, d.toNat)])
  | .spopc a d => some (32, pack 0x2A000003 [(13, a.toNat), (7, d.toNat)])
  | .sbfxN64 b a d => some (32, pack 0x2C000003 [(19, b.toNat), (13, a.toNat), (7, d.toNat)])
  | .sbfxI64 b a d => some (32, pack 0x2E000003 [(19, b.toNat), (13, a.toNat), (7, d.toNat)])
  | .sbfi b a d => some (32, pack 0x30000003 [(19, b.toNat), (13, a.toNat), (7, d.toNat)])
  | .scmp b a k c => some (32, pack 0x32000003 [(19, b.toNat), (13, a.toNat), (9, k.toNat), (7, c.toNat)])
  | .smov a d => some (32, pack 0x34000003 [(13, a.toNat), (7, d.toNat)])
  | .saddImm i a d => some (32, pack 0x00000005 [(19, i.toNat), (13, a.toNat), (7, d.toNat)])
  | .smulImm i a d => some (32, pack 0x10000005 [(19, i.toNat), (13, a.toNat), (7, d.toNat)])
  | .sandImm i a d => some (32, pack 0x20000005 [(19, i.toNat), (13, a.toNat), (7, d.toNat)])
  | .sorImm i a d => some (32, pack 0x30000005 [(19, i.toNat), (13, a.toNat), (7, d.toNat)])
  | .sxorImm i a d => some (32, pack 0x40000005 [(19, i.toNat), (13, a.toNat), (7, d.toNat)])
  | .sshlImm i a d => some (32, pack 0x50000005 [(19, i.toNat), (13, a.toNat), (7, d.toNat)])
  | .sshrImm i a d => some (32, pack 0x60000005 [(19, i.toNat), (13, a.toNat), (7, d.toNat)])
  | .ssraImm i a d => some (32, pack 0x70000005 [(19, i.toNat), (13, a.toNat), (7, d.toNat)])
  | .sminImm i a d => some (32, pack 0x80000005 [(19, i.toNat), (13, a.toNat), (7, d.toNat)])
  | .smaxImm i a d => some (32, pack 0x90000005 [(19, i.toNat), (13, a.toNat), (7, d.toNat)])
  | .scmpImm i a k c => some (32, pack 0xA0000005 [(19, i.toNat), (13, a.toNat), (9, k.toNat), (7, c.toNat)])
  | .sli i d => some (32, pack 0x00000007 [(13, i.toNat), (7, d.toNat)])
  | .slih h i d => some (32, pack 0x80000007 [(29, h.toNat), (13, i.toNat), (7, d.toNat)])
  | .bra o => some (32, pack 0x00000009 [(11, o.toNat)])
  | .bcT o c => some (32, pack 0x00000489 [(11, o.toNat), (8, c.toNat)])
  | .bcF o c => some (32, pack 0x00000409 [(11, o.toNat), (8, c.toNat)])
  | .bdiv o m => some (32, pack 0x0000000B [(11, o.toNat), (7, m.toNat)])
  | .bvoteAny o m => some (32, pack 0x0000020B [(11, o.toNat), (7, m.toNat)])
  | .bvoteAll o m => some (32, pack 0x0000040B [(11, o.toNat), (7, m.toNat)])
  | .bvoteNone o m => some (32, pack 0x0000060B [(11, o.toNat), (7, m.toNat)])
  | .call o => some (32, pack 0x0000000D [(7, o.toNat)])
  | .callR a => some (32, pack 0x0200000D [(7, a.toNat)])
  | .ret => some (32, pack 0x0400000D [])
  | .jmpi a => some (32, pack 0x0600000D [(7, a.toNat)])
  | .join j => some (32, pack 0x0800000D [(7, j.toNat)])
  | .park j => some (32, pack 0x0A00000D [(7, j.toNat)])
  | .strike j => some (32, pack 0x0C00000D [(7, j.toNat)])
  | .regang => some (32, pack 0x0E00000D [])
  | .exit => some (32, pack 0x1000000D [])
  | .nop => some (32, pack 0x1200000D [])
  | .yield => some (32, pack 0x1400000D [])
  | .srd n a => some (32, pack 0x0000000F [(13, n.toNat), (7, a.toNat)])
  | .swr n a => some (32, pack 0x0200000F [(13, n.toNat), (7, a.toNat)])
  | .vadd x b a d => some (32, pack 0x00000011 [(31, x.toNat), (21, b.toNat), (14, a.toNat), (7, d.toNat)])
  | .vsub x b a d => some (32, pack 0x10000011 [(31, x.toNat), (21, b.toNat), (14, a.toNat), (7, d.toNat)])
  | .vmul x b a d => some (32, pack 0x20000011 [(31, x.toNat), (21, b.toNat), (14, a.toNat), (7, d.toNat)])
  | .vmulh x b a d => some (32, pack 0x30000011 [(31, x.toNat), (21, b.toNat), (14, a.toNat), (7, d.toNat)])
  | .vmin x b a d => some (32, pack 0x40000011 [(31, x.toNat), (21, b.toNat), (14, a.toNat), (7, d.toNat)])
  | .vmax x b a d => some (32, pack 0x50000011 [(31, x.toNat), (21, b.toNat), (14, a.toNat), (7, d.toNat)])
  | .vabsd x b a d => some (32, pack 0x60000011 [(31, x.toNat), (21, b.toNat), (14, a.toNat), (7, d.toNat)])
  | .vdot4 x b a d => some (32, pack 0x70000011 [(31, x.toNat), (21, b.toNat), (14, a.toNat), (7, d.toNat)])
  | .vand x b a d => some (32, pack 0x00000013 [(31, x.toNat), (21, b.toNat), (14, a.toNat), (7, d.toNat)])
  | .vor x b a d => some (32, pack 0x10000013 [(31, x.toNat), (21, b.toNat), (14, a.toNat), (7, d.toNat)])
  | .vxor x b a d => some (32, pack 0x20000013 [(31, x.toNat), (21, b.toNat), (14, a.toNat), (7, d.toNat)])
  | .vshl x b a d => some (32, pack 0x30000013 [(31, x.toNat), (21, b.toNat), (14, a.toNat), (7, d.toNat)])
  | .vshr x b a d => some (32, pack 0x40000013 [(31, x.toNat), (21, b.toNat), (14, a.toNat), (7, d.toNat)])
  | .vsra x b a d => some (32, pack 0x50000013 [(31, x.toNat), (21, b.toNat), (14, a.toNat), (7, d.toNat)])
  | .vfshl x b a d => some (32, pack 0x60000013 [(31, x.toNat), (21, b.toNat), (14, a.toNat), (7, d.toNat)])
  | .vfshr x b a d => some (32, pack 0x70000013 [(31, x.toNat), (21, b.toNat), (14, a.toNat), (7, d.toNat)])
  | .vpopc a d => some (32, pack 0x00000015 [(14, a.toNat), (7, d.toNat)])
  | .vclz a d => some (32, pack 0x00200015 [(14, a.toNat), (7, d.toNat)])
  | .vbrev a d => some (32, pack 0x00400015 [(14, a.toNat), (7, d.toNat)])
  | .vnot a d => some (32, pack 0x00600015 [(14, a.toNat), (7, d.toNat)])
  | .vbfxN32 x b a d => some (32, pack 0x10000015 [(31, x.toNat), (21, b.toNat), (14, a.toNat), (7, d.toNat)])
  | .vbfxI32 x b a d => some (32, pack 0x20000015 [(31, x.toNat), (21, b.toNat), (14, a.toNat), (7, d.toNat)])
  | .vbfi x b a d => some (32, pack 0x30000015 [(31, x.toNat), (21, b.toNat), (14, a.toNat), (7, d.toNat)])
  | .vaddc x b a d => some (32, pack 0x40000015 [(31, x.toNat), (21, b.toNat), (14, a.toNat), (7, d.toNat)])
  | .vsubb x b a d => some (32, pack 0x50000015 [(31, x.toNat), (21, b.toNat), (14, a.toNat), (7, d.toNat)])
  | .vaddi i a d => some (32, pack 0x00000017 [(24, i.toNat), (14, a.toNat), (7, d.toNat)])
  | .vandi i a d => some (32, pack 0x00200017 [(24, i.toNat), (14, a.toNat), (7, d.toNat)])
  | .vori i a d => some (32, pack 0x00400017 [(24, i.toNat), (14, a.toNat), (7, d.toNat)])
  | .vxori i a d => some (32, pack 0x00600017 [(24, i.toNat), (14, a.toNat), (7, d.toNat)])
  | .vshli i a d => some (32, pack 0x00800017 [(24, i.toNat), (14, a.toNat), (7, d.toNat)])
  | .vshri i a d => some (32, pack 0x00A00017 [(24, i.toNat), (14, a.toNat), (7, d.toNat)])
  | .vsrai i a d => some (32, pack 0x00C00017 [(24, i.toNat), (14, a.toNat), (7, d.toNat)])
  | .vli imm d => some (32, pack 0x00E00017 [(24, imm.toNat / 2 ^ 7 % 2 ^ 8), (14, imm.toNat % 2 ^ 7), (7, d.toNat)])
  | .vlop3 t b a d => some (32, pack 0x00000019 [(25, t.toNat % 2 ^ 7), (1, t.toNat / 2 ^ 7 % 2 ^ 1), (19, b.toNat), (13, a.toNat), (7, d.toNat)])
  | .vicmp x b a k m => some (32, pack 0x0000001D [(31, x.toNat), (21, b.toNat), (14, a.toNat), (10, k.toNat), (7, m.toNat)])
  | .vsel x b a d => some (32, pack 0x0000001F [(31, x.toNat), (21, b.toNat), (14, a.toNat), (7, d.toNat)])
  | .vmovs b a d => some (32, pack 0x9000001F [(21, b.toNat), (14, a.toNat), (7, d.toNat)])
  | .vmovx x b a d => some (32, pack 0x2000001F [(31, x.toNat), (21, b.toNat), (14, a.toNat), (7, d.toNat)])
  | .vmovxl x b d => some (32, pack 0x3000001F [(31, x.toNat), (21, b.toNat), (7, d.toNat)])
  | .vmovxw x b a d => some (32, pack 0x4000001F [(31, x.toNat), (21, b.toNat), (14, a.toNat), (7, d.toNat)])
  | .vmov x b d => some (32, pack 0x5000001F [(31, x.toNat), (21, b.toNat), (7, d.toNat)])
  | .mand c b a => some (32, pack 0x0000003F [(19, c.toNat), (13, b.toNat), (7, a.toNat)])
  | .mor c b a => some (32, pack 0x0200003F [(19, c.toNat), (13, b.toNat), (7, a.toNat)])
  | .mxor c b a => some (32, pack 0x0400003F [(19, c.toNat), (13, b.toNat), (7, a.toNat)])
  | .mnot b a => some (32, pack 0x0600003F [(13, b.toNat), (7, a.toNat)])
  | .mpop b d => some (32, pack 0x0800003F [(13, b.toNat), (7, d.toNat)])
  | .mfind b d => some (32, pack 0x0A00003F [(13, b.toNat), (7, d.toNat)])
  | .mset s a => some (32, pack 0x0C00003F [(13, s.toNat), (7, a.toNat)])
  | .mget b d => some (32, pack 0x0E00003F [(13, b.toNat), (7, d.toNat)])
  | .mgetLanes d => some (32, pack 0x1000003F [(7, d.toNat)])
  | .vfadd x b a d => some (32, pack 0x00000021 [(31, x.toNat), (21, b.toNat), (14, a.toNat), (7, d.toNat)])
  | .vfsub x b a d => some (32, pack 0x10000021 [(31, x.toNat), (21, b.toNat), (14, a.toNat), (7, d.toNat)])
  | .vfmul x b a d => some (32, pack 0x20000021 [(31, x.toNat), (21, b.toNat), (14, a.toNat), (7, d.toNat)])
  | .vfmin x b a d => some (32, pack 0x30000021 [(31, x.toNat), (21, b.toNat), (14, a.toNat), (7, d.toNat)])
  | .vfmax x b a d => some (32, pack 0x40000021 [(31, x.toNat), (21, b.toNat), (14, a.toNat), (7, d.toNat)])
  | .vfma x b a d => some (32, pack 0x50000021 [(31, x.toNat), (21, b.toNat), (14, a.toNat), (7, d.toNat)])
  | .vfscale x b a d => some (32, pack 0x60000021 [(31, x.toNat), (21, b.toNat), (14, a.toNat), (7, d.toNat)])
  | .vfcpys x b a d => some (32, pack 0x70000021 [(31, x.toNat), (21, b.toNat), (14, a.toNat), (7, d.toNat)])
  | .vfmad n c b a d => some (32, pack 0x00000023 [(31, n.toNat), (25, c.toNat), (19, b.toNat), (13, a.toNat), (7, d.toNat)])
  | .vfabs a d => some (32, pack 0x00000025 [(14, a.toNat), (7, d.toNat)])
  | .vfneg a d => some (32, pack 0x10000025 [(14, a.toNat), (7, d.toNat)])
  | .vfrnd r a d => some (32, pack 0x20000025 [(21, r.toNat), (14, a.toNat), (7, d.toNat)])
  | .vfclass a d => some (32, pack 0x30000025 [(14, a.toNat), (7, d.toNat)])
  | .vfexpo a d => some (32, pack 0x40000025 [(14, a.toNat), (7, d.toNat)])
  | .vfcmp x b a k m => some (32, pack 0x50000025 [(31, x.toNat), (21, b.toNat), (14, a.toNat), (10, k.toNat), (7, m.toNat)])
  | .vpfadd x b a d => some (32, pack 0x00000027 [(31, x.toNat), (21, b.toNat), (14, a.toNat), (7, d.toNat)])
  | .vpfmul x b a d => some (32, pack 0x10000027 [(31, x.toNat), (21, b.toNat), (14, a.toNat), (7, d.toNat)])
  | .vpfma x b a d => some (32, pack 0x20000027 [(31, x.toNat), (21, b.toNat), (14, a.toNat), (7, d.toNat)])
  | .vhaddBf16 x b a d => some (32, pack 0x00000029 [(31, x.toNat), (21, b.toNat), (14, a.toNat), (7, d.toNat)])
  | .vhmulBf16 x b a d => some (32, pack 0x10000029 [(31, x.toNat), (21, b.toNat), (14, a.toNat), (7, d.toNat)])
  | .vhfmaBf16 x b a d => some (32, pack 0x20000029 [(31, x.toNat), (21, b.toNat), (14, a.toNat), (7, d.toNat)])
  | .vhaddF16 x b a d => some (32, pack 0x40000029 [(31, x.toNat), (21, b.toNat), (14, a.toNat), (7, d.toNat)])
  | .vhmulF16 x b a d => some (32, pack 0x50000029 [(31, x.toNat), (21, b.toNat), (14, a.toNat), (7, d.toNat)])
  | .vhfmaF16 x b a d => some (32, pack 0x60000029 [(31, x.toNat), (21, b.toNat), (14, a.toNat), (7, d.toNat)])
  | .vdadd x b a d => some (32, pack 0x0000002B [(31, x.toNat), (21, b.toNat), (14, a.toNat), (7, d.toNat)])
  | .vdmul x b a d => some (32, pack 0x1000002B [(31, x.toNat), (21, b.toNat), (14, a.toNat), (7, d.toNat)])
  | .vdfma x b a d => some (32, pack 0x2000002B [(31, x.toNat), (21, b.toNat), (14, a.toNat), (7, d.toNat)])
  | .vdmin x b a d => some (32, pack 0x3000002B [(31, x.toNat), (21, b.toNat), (14, a.toNat), (7, d.toNat)])
  | .vdmax x b a d => some (32, pack 0x4000002B [(31, x.toNat), (21, b.toNat), (14, a.toNat), (7, d.toNat)])
  | .vrcp a d => some (32, pack 0x0000002D [(14, a.toNat), (7, d.toNat)])
  | .vrsqrt a d => some (32, pack 0x1000002D [(14, a.toNat), (7, d.toNat)])
  | .vsqrt a d => some (32, pack 0x2000002D [(14, a.toNat), (7, d.toNat)])
  | .vexp2 a d => some (32, pack 0x3000002D [(14, a.toNat), (7, d.toNat)])
  | .vlog2 a d => some (32, pack 0x4000002D [(14, a.toNat), (7, d.toNat)])
  | .vsin a d => some (32, pack 0x5000002D [(14, a.toNat), (7, d.toNat)])
  | .vcos a d => some (32, pack 0x6000002D [(14, a.toNat), (7, d.toNat)])
  | .vtanh a d => some (32, pack 0x7000002D [(14, a.toNat), (7, d.toNat)])
  | .vsigm a d => some (32, pack 0x0000002F [(14, a.toNat), (7, d.toNat)])
  | .vfdivs x b a d => some (32, pack 0x1000002F [(31, x.toNat), (21, b.toNat), (14, a.toNat), (7, d.toNat)])
  | .vfdivx x b a d => some (32, pack 0x2000002F [(31, x.toNat), (21, b.toNat), (14, a.toNat), (7, d.toNat)])
  | .vcvt r p a d => some (32, pack 0x00000031 [(28, r.toNat), (21, p.toNat), (14, a.toNat), (7, d.toNat)])
  | .vqntE4m3 s a d => some (32, pack 0x80000033 [(21, s.toNat), (14, a.toNat), (7, d.toNat)])
  | .vqntE5m2 s a d => some (32, pack 0x90000033 [(21, s.toNat), (14, a.toNat), (7, d.toNat)])
  | .vqntE2m1 s a d => some (32, pack 0xA0000033 [(21, s.toNat), (14, a.toNat), (7, d.toNat)])
  | .vqntLg6 s a d => some (32, pack 0xB0000033 [(21, s.toNat), (14, a.toNat), (7, d.toNat)])
  | .vqntI8 s a d => some (32, pack 0xC0000033 [(21, s.toNat), (14, a.toNat), (7, d.toNat)])
  | .vdqnt s a d => some (32, pack 0xD0000033 [(21, s.toNat), (14, a.toNat), (7, d.toNat)])
  | .vpack w a d => some (32, pack 0x60000033 [(21, w.toNat), (14, a.toNat), (7, d.toNat)])
  | .vunpack w a d => some (32, pack 0x70000033 [(21, w.toNat), (14, a.toNat), (7, d.toNat)])
  | .vrandB32 s a d => some (32, pack 0x80000035 [(21, s.toNat), (14, a.toNat), (7, d.toNat)])
  | .vrandF32 s a d => some (32, pack 0x90000035 [(21, s.toNat), (14, a.toNat), (7, d.toNat)])
  | .vnblRing a d => some (32, pack 0x00000039 [(14, a.toNat), (7, d.toNat)])
  | .vnbrRing a d => some (32, pack 0x10000039 [(14, a.toNat), (7, d.toNat)])
  | .vnblEdge w a d => some (32, pack 0x20000039 [(21, w.toNat), (14, a.toNat), (7, d.toNat)])
  | .vnbrEdge w a d => some (32, pack 0x30000039 [(21, w.toNat), (14, a.toNat), (7, d.toNat)])
  | .vshuf x b a d => some (32, pack 0x40000039 [(31, x.toNat), (21, b.toNat), (14, a.toNat), (7, d.toNat)])
  | .vbcastImm n a d => some (32, pack 0x50000039 [(21, n.toNat), (14, a.toNat), (7, d.toNat)])
  | .vbcastScalar s a d => some (32, pack 0xD0000039 [(21, s.toNat), (14, a.toNat), (7, d.toNat)])
  | .vred o a d => some (32, pack 0x0000003B [(21, o.toNat), (14, a.toNat), (7, d.toNat)])
  | .vscanIncl o a d => some (32, pack 0x1000003B [(21, o.toNat), (14, a.toNat), (7, d.toNat)])
  | .vscanExcl o a d => some (32, pack 0x2000003B [(21, o.toNat), (14, a.toNat), (7, d.toNat)])
  | .vvoteBallot a s => some (32, pack 0x3000003B [(14, a.toNat), (7, s.toNat)])
  | .vvoteEq a s => some (32, pack 0x3020003B [(14, a.toNat), (7, s.toNat)])
  | .xsend p n s a => some (32, pack 0x0000003D [(19, p.toNat), (17, n.toNat), (13, s.toNat), (7, a.toNat)])
  | .xrecv p n s d => some (32, pack 0x0200003D [(19, p.toNat), (17, n.toNat), (13, s.toNat), (7, d.toNat)])
  | .xedge w a => some (32, pack 0x0400003D [(13, w.toNat), (7, a.toNat)])
  | .ld x s m o b t => some (32, pack 0x00000041 [(31, x.toNat), (28, s.toNat), (27, m.toNat), (20, o.toNat), (14, b.toNat), (7, t.toNat)])
  | .st x s m o b t => some (32, pack 0x00000043 [(31, x.toNat), (28, s.toNat), (27, m.toNat), (20, o.toNat), (14, b.toNat), (7, t.toNat)])
  | .lds i b d => some (32, pack 0x00000045 [(19, i.toNat), (13, b.toNat), (7, d.toNat)])
  | .sts i b t => some (32, pack 0x00000047 [(19, i.toNat), (13, b.toNat), (7, t.toNat)])
  | .ldacq z s o b t => some (32, pack 0x00000049 [(30, z.toNat), (27, s.toNat), (20, o.toNat), (14, b.toNat), (7, t.toNat)])
  | .strel z s o b t => some (32, pack 0x80000049 [(30, z.toNat), (27, s.toNat), (20, o.toNat), (14, b.toNat), (7, t.toNat)])
  | .pref l x o b => some (32, pack 0x0000004B [(29, l.toNat), (28, x.toNat), (20, o.toNat), (14, b.toNat)])
  | .cflush l x o b => some (32, pack 0x4000004B [(29, l.toNat), (28, x.toNat), (20, o.toNat), (14, b.toNat)])
  | .cinv l x o b => some (32, pack 0x8000004B [(29, l.toNat), (28, x.toNat), (20, o.toNat), (14, b.toNat)])
  | .landr d => some (32, pack 0x0000004D [(7, d.toNat)])
  | .unmapv b a => some (32, pack 0x0200004D [(13, b.toNat), (7, a.toNat)])
  | .unmapvDiscard b a => some (32, pack 0x0400004D [(13, b.toNat), (7, a.toNat)])
  | .unmapvRights b a => some (32, pack 0x0600004D [(13, b.toNat), (7, a.toNat)])
  | .fenceAcq s => some (32, pack 0x00000059 [(25, s.toNat)])
  | .fenceRel s => some (32, pack 0x10000059 [(25, s.toNat)])
  | .fenceFull s => some (32, pack 0x20000059 [(25, s.toNat)])
  | .tcfence => some (32, pack 0x30000059 [])
  | .bar s => some (32, pack 0x0000005B [(7, s.toNat)])
  | .bara s => some (32, pack 0x0200005B [(7, s.toNat)])
  | .barw s => some (32, pack 0x0400005B [(7, s.toNat)])
  | .mbinit b a => some (32, pack 0x0000005D [(13, b.toNat), (7, a.toNat)])
  | .mbexp b a => some (32, pack 0x0200005D [(13, b.toNat), (7, a.toNat)])
  | .mbarr b d => some (32, pack 0x0400005D [(13, b.toNat), (7, d.toNat)])
  | .mbwait b a => some (32, pack 0x0600005D [(13, b.toNat), (7, a.toNat)])
  | .mon a => some (32, pack 0x0000005F [(7, a.toNat)])
  | .mwait b d => some (32, pack 0x0200005F [(13, b.toNat), (7, d.toNat)])
  | .waitcLd b => some (32, pack 0x2000005F [(13, b.toNat)])
  | .waitcSt b => some (32, pack 0x2200005F [(13, b.toNat)])
  | .waitcWh b => some (32, pack 0x2400005F [(13, b.toNat)])
  | .waitcAn b => some (32, pack 0x2600005F [(13, b.toNat)])
  | .waitcRa b => some (32, pack 0x2800005F [(13, b.toNat)])
  | .waitcFe b => some (32, pack 0x2A00005F [(13, b.toNat)])
  | .atom o v b t => some (32, pack 0x00000051 [(27, o.toNat), (20, v.toNat), (14, b.toNat), (7, t.toNat)])
  | .red o v b t => some (32, pack 0x00000053 [(27, o.toNat), (20, v.toNat), (14, b.toNat), (7, t.toNat)])
  | .xat x o b a d => some (32, pack 0x00000055 [(31, x.toNat), (28, o.toNat), (21, b.toNat), (14, a.toNat), (7, d.toNat)])
  | .xred x o b a d => some (32, pack 0x00000057 [(31, x.toNat), (28, o.toNat), (21, b.toNat), (14, a.toNat), (7, d.toNat)])
  | .wcopy r s d => some (32, pack 0x00000061 [(19, r.toNat), (13, s.toNat), (7, d.toNat)])
  | .wcopyStream r s d => some (32, pack 0x02000061 [(19, r.toNat), (13, s.toNat), (7, d.toNat)])
  | .wgather r i s d => some (32, pack 0x00000063 [(25, r.toNat), (19, i.toNat), (13, s.toNat), (7, d.toNat)])
  | .wscatter r i s d => some (32, pack 0x80000063 [(25, r.toNat), (19, i.toNat), (13, s.toNat), (7, d.toNat)])
  | .wfill r v d => some (32, pack 0x00000065 [(19, r.toNat), (13, v.toNat), (7, d.toNat)])
  | .wcomp r s a => some (32, pack 0x02000065 [(19, r.toNat), (13, s.toNat), (7, a.toNat)])
  | .wdcomp r a d => some (32, pack 0x04000065 [(19, r.toNat), (13, a.toNat), (7, d.toNat)])
  | .wloado ro n r s => some (32, pack 0x00000067 [(26, ro.toNat), (25, n.toNat / 2 ^ 6 % 2 ^ 1), (7, n.toNat % 2 ^ 6), (19, r.toNat), (13, s.toNat)])
  | .wstat b d => some (32, pack 0x20000067 [(13, b.toNat), (7, d.toNat)])
  | .wcancel b => some (32, pack 0x22000067 [(13, b.toNat)])
  | .frs r a => some (32, pack 0x00000069 [(13, r.toNat), (7, a.toNat)])
  | .fag r a => some (32, pack 0x02000069 [(13, r.toNat), (7, a.toNat)])
  | .far r a => some (32, pack 0x04000069 [(13, r.toNat), (7, a.toNat)])
  | .fa2a r a => some (32, pack 0x06000069 [(13, r.toNat), (7, a.toNat)])
  | .fbc r a => some (32, pack 0x08000069 [(13, r.toNat), (7, a.toNat)])
  | .fupd r b a => some (32, pack 0x0000006B [(19, r.toNat), (13, b.toNat), (7, a.toNat)])
  | .fshard a => some (32, pack 0x0200006B [(7, a.toNat)])
  | .oclaim c b d => some (32, pack 0x0000006D [(19, c.toNat), (13, b.toNat), (7, d.toNat)])
  | .orel c b => some (32, pack 0x0200006D [(19, c.toNat), (13, b.toNat)])
  | .oput n b a => some (32, pack 0x0400006D [(19, n.toNat), (13, b.toNat), (7, a.toNat)])
  | .oget n b d => some (32, pack 0x0600006D [(19, n.toNat), (13, b.toNat), (7, d.toNat)])
  | .aclaim c b d => some (32, pack 0x0800006D [(19, c.toNat), (13, b.toNat), (7, d.toNat)])
  | .arel c b => some (32, pack 0x0A00006D [(19, c.toNat), (13, b.toNat)])
  | .mma t f m k => some (32, pack 0x0000006F [(25, t.toNat), (19, f.toNat), (13, m.toNat), (7, k.toNat)])
  | .mmas t f m k => some (32, pack 0x4000006F [(25, t.toNat), (19, f.toNat), (13, m.toNat), (7, k.toNat)])
  | .afence d => some (32, pack 0x00000071 [(7, d.toNat)])
  | .azero y t => some (32, pack 0x02000071 [(13, y.toNat), (7, t.toNat)])
  | .gangset c => some (32, pack 0x04000071 [(7, c.toNat)])
  | .gangsetPair c => some (32, pack 0x06000071 [(7, c.toNat)])
  | .aguide a => some (32, pack 0x08000071 [(7, a.toNat)])
  | .adrainV t b d => some (32, pack 0x00000073 [(25, t.toNat), (13, b.toNat), (7, d.toNat)])
  | .adrainO n s f b x => some (32, pack 0x40000073 [(25, n.toNat), (13, s.toNat), (9, f.toNat), (8, b.toNat), (7, x.toNat)])
  | .adrainG t => some (32, pack 0x80000073 [(25, t.toNat)])
  | .astash c b f r q p n => some (32, pack 0x00000075 [(30, c.toNat), (29, b.toNat), (25, f.toNat), (19, r.toNat), (16, q.toNat), (13, p.toNat), (7, n.toNat)])
  | .lnch b d => some (32, pack 0x00000079 [(13, b.toNat), (7, d.toNat)])
  | .lnchTry b d => some (32, pack 0x02000079 [(13, b.toNat), (7, d.toNat)])
  | .trig => some (32, pack 0x04000079 [])
  | .rgrow a => some (32, pack 0x0000007B [(7, a.toNat)])
  | .rshrink a => some (32, pack 0x0200007B [(7, a.toNat)])
  | .prio b a => some (32, pack 0x0400007B [(13, b.toNat), (7, a.toNat)])
  | .cohort b d => some (32, pack 0x0600007B [(13, b.toNat), (7, d.toNat)])
  | .cohortSelf d => some (32, pack 0x0800007B [(7, d.toNat)])
  | .trap n => some (32, pack 0x0000007D [(7, n.toNat)])
  | .rte => some (32, pack 0x0200007D [])
  | .rteSkip => some (32, pack 0x0400007D [])
  | .rteR a => some (32, pack 0x0600007D [(7, a.toNat)])
  | .bkpt n => some (32, pack 0x0800007D [(7, n.toNat)])
  | .trace b a => some (32, pack 0x0A00007D [(13, b.toNat), (7, a.toNat)])
  | .halt => some (32, pack 0x0C00007D [])
  | .tstamp d => some (32, pack 0x0E00007D [(7, d.toNat)])
  | .perf b d => some (32, pack 0x1000007D [(13, b.toNat), (7, d.toNat)])
  | .clauseWaitSatisfied _ _ => none
  | .subcoreIssueCycle _ _ => none
  | .splitEntryHoldEvict _ _ => none
  | .yieldPauseEnd _ _ => none
  | .resultWriteback _ => none
  | .edgeLatchDeposit _ _ => none
  | .rendezvousTransfer _ _ => none
  | .rightsWalkComplete _ _ _ => none
  | .translationWalk _ _ => none
  | .loadDataArrive _ => none
  | .loadFaultPark _ => none
  | .faultRecordRetry => none
  | .faultQueueRegWrite _ _ => none
  | .faultrespResume _ => none
  | .faultrespDecline _ => none
  | .landingProbeAnswer _ _ _ => none
  | .llcHbmWriteback _ _ => none
  | .shootdownStart => none
  | .shootdownDrainDone => none
  | .shootdownMgtRequest _ _ _ _ => none
  | .shootdownPackageAnswer _ => none
  | .sdctlGo _ => none
  | .releaseRecall _ _ => none
  | .recallAnswer _ _ => none
  | .watchFire _ => none
  | .mwaitTimeout _ _ => none
  | .remoteAtomicRequest _ => none
  | .remoteAtomicAck _ _ _ => none
  | .remoteAtomicRnr _ _ => none
  | .remoteRetryTimer _ => none
  | .wherryCommandStart _ => none
  | .wherryCountUpdate _ _ => none
  | .wherryCommandComplete _ => none
  | .engineXlateFault _ => none
  | .wherryRemotePacket _ _ _ => none
  | .ferryMatch _ _ => none
  | .ferryComplete _ => none
  | .claimZeroingDone _ _ => none
  | .objectRelease _ _ _ => none
  | .gangLatchOpen _ _ => none
  | .arrayKStep _ => none
  | .arrayQueueEntry _ _ => none
  | .batchComplete _ => none
  | .guidedDrain _ => none
  | .rgrowGrant _ => none
  | .rgrowStallEvict _ => none
  | .launchPortWrite _ _ _ _ => none
  | .queueReset _ => none
  | .queueResetComplete _ => none
  | .qresWrite _ _ => none
  | .launchStart _ => none
  | .workgroupPlace _ => none
  | .groupRestore _ => none
  | .groupSave _ _ => none
  | .saveAgentApply _ => none
  | .workgroupRetire _ => none
  | .registerFileScrub _ => none
  | .dbgcmdHalt => none
  | .dbgcmdResume => none
  | .dbgcmdStep => none
  | .dbgcmdSave => none
  | .debugImageWrite _ _ => none
  | .registerWrite _ _ => none
  | .hallmarkRequest => none
  | .hallmarkComplete => none
  | .controlCoreAccess _ _ _ => none
  | .controlHomeRequest _ => none
  | .flitCrcFail _ => none
  | .linkDown _ => none
  | .heartbeatSend => none
  | .heartbeatReceive _ => none
  | .peerSuspect _ => none
  | .packageIsolated => none
  | .lossNotice _ => none
  | .lossRebuildComplete => none
  | .timeSyncMessage _ => none
  | .pcieInboundRead _ _ _ => none
  | .pcieInboundWrite _ _ _ => none
  | .pcieAtomicop _ _ _ _ _ _ => none
  | .bootVerify _ => none
  | .rackAssignmentRecord _ => none
  | .droopDetect _ => none
  | .droopRestore _ => none
  | .powerLimitStep _ => none
  | .inputUndervoltage => none
  | .assaySample _ _ => none
  | .marginReplan _ => none
  | .rasErrorEvent _ => none
  | .ferryShardArrival _ _ => none
  | .pcieErrorReported _ _ => none

/-- The instruction of a word: the row selected, if its fields are legal and every bit that the row leaves out is zero
(R49), which is so exactly when the row's own encoding is the word. -/
noncomputable def decode (w : Nat) : Except DecodeError Instr :=
  match decodeRow w with
  | none => .error .unassigned
  | some i =>
    if i.wf && decide ((encode i).map (fun p => p.2) = some w) then .ok i else .error .malformed

/-- The word that a run of stream bytes begins with: one halfword or two, little-endian (R31). -/
def streamWord : List Byte → Option (Nat × Nat)
  | b0 :: b1 :: rest =>
    let h0 := b0.toNat + 256 * b1.toNat
    if h0 % 2 = 0 then some (2, h0)
    else
      match rest with
      | b2 :: b3 :: _ => some (4, h0 + 65536 * (b2.toNat + 256 * b3.toNat))
      | _ => none
  | _ => none

/-- Decode the first instruction of a run of stream bytes, with its length in bytes. -/
noncomputable def decodeBytes (bs : List Byte) : Option (Nat × Except DecodeError Instr) :=
  (streamWord bs).map fun p => (p.1, decode p.2)

/-- The stream bytes of a word of n bytes, lowest first (R6). -/
def wordBytes : Nat → Nat → List Byte
  | 0, _ => []
  | n + 1, w => BitVec.ofNat 8 w :: wordBytes n (w / 256)

/-- What the decoder reads from an instruction whose bits are w, as the opcode table numbers them. -/
noncomputable def decodeTableWord (nbits w : Nat) : Option Instr :=
  match decodeBytes (wordBytes 4 (w % 2 ^ nbits)) with
  | some (_, .ok i) => some i
  | _ => none

end Sys2Proof
end

