-- ==== Sys2Proof/Machine/Deferred.lean ====
section
/-! DEFINITION. Ordering points and the deferred records that surface at them (R233, R264, R265, R267, R274). -/

namespace Sys2Proof.Machine

/-- Some lane of the record has faulted (R207). -/
def Landing.isFaulted (r : Landing) : Bool := r.lanes.any (·.faulted)

/-- Every lane of the record has landed. -/
def Landing.isLanded (r : Landing) : Bool := r.lanes.all (·.landed)

/-- The record is in the pending state. -/
def Landing.isPending (r : Landing) : Bool := !r.isFaulted && !r.isLanded

/-- The landing records of a group that an ordering point considers: in trap mode those of stores issued in trap mode
(R233). -/
def State.ownRecords (s : State) (g : Group) (age : Nat) : List Landing :=
  s.landing.filter fun r => r.age == age && (!g.flow.trapMode || r.inTrap)

/-- The operation number below which accesses count for this instruction: fixed when it is first met. -/
def Ctx.opLimit (c : Ctx) (s : State) : Nat :=
  match c.f.hold with
  | .records n | .release n | .loads n | .launch n => n
  | _ => s.nextOp

/-- An ordering point waits until every earlier record of the group has left the pending state (R233). -/
def Ctx.waitRecords (c : Ctx) (s : State) : Except Stop Unit :=
  need (!(s.ownRecords c.g c.age).any fun r => r.isPending && decide (r.id < c.opLimit s))
    (.hold (.records (c.opLimit s)))

/-- STORE-LANDING for a faulted record: its PC, sequence, faulted lanes, the address of the lowest, and its detail. -/
def Landing.trap (r : Landing) : Trap :=
  let bad := r.lanes.filter (·.faulted)
  { cause := .storeLanding, pc := r.pc, seq := r.seq, lanes := maskOf (bad.map (·.lane)),
    addr := (bad.head?.map (·.addr)).getD 0, detail := r.detail }

/-- STORE-LANDING where a record of the group is faulted: the one of lowest sequence number (R233). -/
def Ctx.checkLanding (c : Ctx) (s : State) : Except Stop Unit :=
  match (s.ownRecords c.g c.age).filter (·.isFaulted) with
  | [] => .ok ()
  | r :: _ => .error (.trap r.trap)

/-- The record that comes first in the issue order. -/
def firstRemote : List FailedRemote → Option FailedRemote
  | [] => none
  | r :: l => match firstRemote l with
    | none => some r
    | some q => some (if r.order ≤ q.order then r else q)

/-- The trap of a failed remote record: ATOM-REMOTE, PEER-LOST where the peer was lost, or LOAD-XLATE for poisoned bytes
(R264, R267, R410). -/
def FailedRemote.trap (r : FailedRemote) : Trap :=
  if r.lost then { cause := .peerLost, pc := r.pc, aux := r.peer }
  else if r.detail = 12 then { cause := .loadXlate, pc := r.pc, lanes := r.lanes, addr := r.addr, detail := 12 }
  else { cause := .atomRemote, pc := r.pc, aux := r.peer, lanes := r.lanes, addr := r.addr, detail := r.detail,
         word := BitVec.ofNat 64 r.retries }

/-- The trap of an engine failure record, with its PC, detail and address (R274, Table 11.3, R410). -/
def FailedEngine.trap (r : FailedEngine) : Trap :=
  match r.detail with
  | 5 => { cause := .synonym, pc := r.pc, addr := r.addr, detail := r.detail }
  | 7 => { cause := .perm, pc := r.pc, addr := r.addr, detail := r.detail }
  | 8 | 9 => { cause := .illegal, pc := r.pc, addr := r.addr, detail := r.detail }
  | 10 => { cause := .fupdState, pc := r.pc, addr := r.addr, detail := r.detail }
  | 11 => { cause := .peerLost, pc := r.pc, aux := r.peer, addr := r.addr, detail := r.detail }
  | _ => { cause := .loadXlate, pc := r.pc, addr := r.addr, detail := r.detail }

/-- The engine record that comes first in the issue order. -/
def firstEngine : List FailedEngine → Option FailedEngine
  | [] => none
  | r :: l => match firstEngine l with
    | none => some r
    | some q => some (if r.order ≤ q.order then r else q)

/-- Surface failed remote records and engine records that the tests select: ATOM-REMOTE first, then the others in issue
order (R265, R267, R274).  In trap mode only those of operations issued in trap mode surface, as faults in trap mode
(R370). -/
def Ctx.surface (c : Ctx) (remote : FailedRemote → Bool) (engine : FailedEngine → Bool) : Except Stop Unit :=
  let here := fun (inTrap : Bool) => !c.g.flow.trapMode || inTrap
  let rs := c.g.work.failedRemote.filter fun r => here r.inTrap && remote r
  match firstRemote (rs.filter fun r => !r.lost) with
  | some r => .error (.deferred r.trap r.order)
  | none =>
    match firstRemote rs, firstEngine (c.g.work.failedEngine.filter fun r => here r.inTrap && engine r) with
    | none, none => .ok ()
    | some r, none => .error (.deferred r.trap r.order)
    | none, some e => .error (.deferred e.trap e.order)
    | some r, some e =>
      if r.order ≤ e.order then .error (.deferred r.trap r.order) else .error (.deferred e.trap e.order)

/-- What an ordering point does before any effect, but for the wait of its step 1: faulted records, then the other
deferred records (R233, R265, R274). -/
def Ctx.checkDeferred (c : Ctx) (s : State) : Except Stop Unit := do
  c.checkLanding s
  c.surface (fun _ => true) (fun _ => true)

/-- An ordering point (R233). -/
def Ctx.orderingPoint (c : Ctx) (s : State) : Except Stop Unit := do
  c.waitRecords s
  c.checkDeferred s

/-- A clause header whose WAIT names the flag of a failed XAT, or of an abandoned XRECV, takes its trap (R265, R178).
Trap mode has flags of its own.  DESIGN CHOICE (log 83): failed remote records come first, then abandoned XRECVs in the
order of their abandonment. -/
def Ctx.checkHeader (c : Ctx) (wait : BitVec 12) : Except Stop Unit := do
  c.surface (fun r => r.inTrap == c.g.flow.trapMode && match r.flag with
    | some i => wait.getLsbD i
    | none => false) (fun _ => false)
  if c.g.flow.trapMode then .ok ()
  else match c.g.work.abandoned.find? fun a => wait.getLsbD a.flag with
    | none => .ok ()
    | some a => .error (.deferred { cause := .rendezvousAbandon, pc := a.pc,
                                    aux := a.slot % 16 + a.partner % 64 * 2 ^ 8 } a.order)

end Sys2Proof.Machine
end

