-- ==== Sys2Proof/Machine/Fetch.lean ====
section
/-! DEFINITION. Fetching an instruction (R31 to R35, R116).

Two halfwords may lie on different pages, and each page is checked (R33).  Where the walk of a fetch fails the fragment
does not issue and fetches again later (log 7). -/

namespace Sys2Proof.Machine

/-- How a fetch ends without an instruction: a trap precise at it, or not yet. -/
inductive FetchStop where
  | trap (t : Trap)
  | wait
  deriving DecidableEq, Repr

/-- New requests to a control-space offset stall: the package is isolated, or the granule is being rebuilt (R397, R398). -/
def State.controlStalled (s : State) (off : Nat) : Bool :=
  s.fabric.isolated || s.fabric.rebuilding.contains (off / 2 ^ 30)

/-- A new access to a virtual key waits: a range under shootdown holds its page (R215, R216), or its control-space request
stalls (R397, R398). -/
def State.underShootdown (s : State) (vk : Nat) : Bool :=
  (s.shootdowns.any fun d =>
    let base := vkey d.ctx d.base
    d.started && decide (base ≤ vk) && decide (vk < base + d.len))
    || (keySpace vk == .control && s.controlStalled (vk % 2 ^ 48))

/-- The writes at the LLC that replaced bytes of a code line since the group's launch was issued, the latest first (R34). -/
def State.codePast (s : State) (g : Group) (line : Nat) : List (List (Nat × Byte)) :=
  match (Map.find? s.queues g.id.queue).bind fun q => q.started.find? fun l => l.id == g.id.launch with
  | none => []
  | some l => (s.mem.past.filter fun e => decide (l.since ≤ e.1) && e.2.any fun p => lineOf p.1 == line).map (·.2)

/-- A fetch of a code line chooses the contents that it returns: how many of the later writes it passes over (R34). -/
def State.pickCode (s : State) (g : Group) (line : Nat) : Nat × State :=
  match s.codePast g line with
  | [] => (0, s)
  | l => (Config.schedule s.freeCtr % (l.length + 1), { s with freeCtr := s.freeCtr + 1 })

/-- Bytes of a line before the latest writes. -/
def undoBytes (past : List (List (Nat × Byte))) (vk : Nat) (bytes : List Byte) : List Byte :=
  ((List.range bytes.length).zip bytes).map fun p =>
    past.foldl (fun b w => ((w.find? fun q => q.1 == vk + p.1).map (·.2)).getD b) p.2

/-- Fetch one halfword for a group: checks of R33, then the bytes behind the core, without the latest `skip` writes of its
line (R34); SYNONYM where its frame has another owner (R21). -/
def State.fetchHalf (s : State) (g : Group) (skip : Nat) (a : Word) : Except FetchStop (Nat × State) :=
  match space? a with
  | some .tensor | some .control =>
    if space? a = some .tensor ∧ pkgOf a ≠ s.pkg then .error (.trap { cause := .remoteDirect, addr := a })
    else if s.underShootdown a.toNat then .error .wait
    else
      let (r, s1) := s.rights g.id.core g.id.ctx a
      if !r.ex then .error (.trap { cause := .perm, addr := a })
      else match s1.llcReads a.toNat 2 with
        | .error 5 => .error (.trap { cause := .synonym, pc := a, addr := a })
        | .error _ => .error .wait
        | .ok (l, s2) => .ok (bytesVal (undoBytes ((s2.codePast g (lineOf a.toNat)).take skip) a.toNat l), s2)
  | _ => .error (.trap { cause := .space, addr := a })

/-- Fetch the instruction at an address: its length in bytes and its word (R31). -/
def State.fetch (s : State) (g : Group) (a : Word) : Except FetchStop (Nat × Nat × State) :=
  let (skip, s0) := s.pickCode g (lineOf a.toNat)
  match s0.fetchHalf g skip a with
  | .error e => .error e
  | .ok (h0, s1) =>
    if h0 % 2 = 0 then .ok (2, h0, s1)
    else
      let b := a + 2
      let (skip', s') := if lineOf b.toNat = lineOf a.toNat then (skip, s1) else s1.pickCode g (lineOf b.toNat)
      match s'.fetchHalf g skip' b with
      | .error e => .error e
      | .ok (h1, s2) => .ok (4, h0 + 65536 * h1, s2)

/-- The word is a clause header: 32 bits, major 0x00 (R35). -/
def isHeader (w : Nat) : Bool := decide (w % 128 = 1)

/-- Halfwords of the clause body before an address. -/
def Frag.bodyOffset (f : Frag) : Nat := (f.pc - f.clauseStart).toNat / 2

/-- An instruction of n bytes that is not a header may stand here: a header is in force, none is due, and it ends within
64 halfwords of the body (R32, R35, R116). -/
def Frag.bodyOk (f : Frag) (n : Nat) : Bool :=
  f.header.isSome && !f.needHeader && decide (f.bodyOffset + n / 2 ≤ 64)

/-- The flags that a header waits for are clear (R38). -/
def State.headerClear (s : State) (g : Group) (age w : Nat) : Bool :=
  (List.range 12).all fun i => !(decide (w / 2 ^ (7 + i) % 2 = 1) && s.flagSet age g.flow.trapMode i)

end Sys2Proof.Machine
end

