-- ==== Sys2Proof/Machine/Priority.lean ====
section
/-! DEFINITION. Workgroup membership, barriers and effective priority (R240, R335, R349, R350). -/

namespace Sys2Proof.Machine

/-! ## Members -/

/-- The groups of a workgroup, with their ages. -/
def State.members (s : State) (wg : Nat) : List (Nat × Group) := s.groups.filter fun p => p.2.id.wg == wg

/-- The group of a number in a workgroup. -/
def State.member? (s : State) (wg num : Nat) : Option (Nat × Group) :=
  s.groups.find? fun p => p.2.id.wg == wg && p.2.id.num == num

/-- Entry i of the workgroup's cohort table; 0 without a table (R361). -/
def Workgroup.cohort (w : Workgroup) (i : Nat) : Word := w.cohorts.getD i 0

/-- MEMBERS of a cohort-table entry (Table 14.2). -/
def cohortMembers (e : Word) : Lane := e.setWidth 32

/-- DEFINED of a cohort-table entry. -/
def cohortDefined (e : Word) : Bool := e.getLsbD 32

/-- GANG of a cohort-table entry. -/
def cohortGang (e : Word) : Bool := e.getLsbD 33

/-- PAIR of a cohort-table entry. -/
def cohortPair (e : Word) : Bool := e.getLsbD 34

/-- The member groups of a barrier as a mask: all for the workgroup barrier (16), else the cohort's (R239). -/
def Workgroup.barrierMembers (w : Workgroup) (bar : Nat) : Lane :=
  if bar = 16 then BitVec.ofNat 32 (2 ^ w.groups - 1) else cohortMembers (w.cohort bar)

/-- A barrier at the start of its first phase. -/
def Barrier.start : Barrier := { phase := 0, lanes := [], arrived := 0, last := [] }

/-- A barrier of a workgroup. -/
def Workgroup.barrier (w : Workgroup) (bar : Nat) : Barrier := Map.get Barrier.start w.barriers bar

/-- A mask holds the bit of a group. -/
def hasGroup (m : Lane) (num : Nat) : Bool := m.getLsbD num

/-! ## Barrier objects -/

/-- The key that names a barrier object or a watched byte: a virtual key, or 2^90 + the byte of shared memory. -/
def memKey (ctx wg : Nat) (a : Word) : Nat :=
  if a.toNat / 2 ^ 61 = 6 then 2 ^ 90 + wg * 2 ^ 20 + a.toNat % 2 ^ 20 else vkey ctx a

/-- An expected arriver of an object (R350): code 0, it arrived in the previous phase and not in this one; code 2, it
issued MBEXP in this phase without arriving.  Code 1 stands for an arrival in this phase. -/
def State.expects (s : State) (obj age : Nat) : Bool :=
  (s.arrivers.any fun e => e.1 == obj && e.2.1 == age && (e.2.2 == 0 || e.2.2 == 2))
    && !(s.arrivers.any fun e => e.1 == obj && e.2.1 == age && e.2.2 == 1)

/-! ## Awaiting (R181, R350) -/

/-- The latched operation of a group. -/
def State.latchedOf (s : State) (g : Group) : Option Latched := (s.core g.id.core).latch.find? fun l => l.age == g.id.age

/-- The group number that fills a latch: the left neighbour fills EL, the right one ER. -/
def latchFiller (n num : Nat) (left : Bool) : Nat := if left then (num + n - 1) % n else (num + 1) % n

/-- A hold of a fragment of H awaits group G of the same workgroup.  An XSEND that has not issued awaits the partner that it names. -/
def holdAwaits (w : Workgroup) (h g : Group) : Hold → Bool
  | .sendSide _ partner => partner == g.id.num
  | .barrier bar phase | .barrierAgain bar phase =>
    let b := w.barrier bar
    decide (b.phase = phase) && hasGroup (w.barrierMembers bar) g.id.num && !hasGroup b.arrived g.id.num
      && !hasGroup w.exited g.id.num
  | .transfer slot => match (Map.find? w.slots slot).bind (·.send) with
    | some x => x.partner == g.id.num
    | none => false
  | .edgeRead left => latchFiller w.groups h.id.num left == g.id.num
  | .deposits l r => (match l with
      | some (t, _) => t == g.id.num
      | none => false) || (match r with
      | some (t, _) => t == g.id.num
      | none => false)
  | _ => false

/-- A fragment of H waits at a header on a flag that a pending receive of H keeps set, and the receive names G (R181). -/
def State.recvAwaits (s : State) (w : Workgroup) (h g : Group) : Bool :=
  w.slots.any fun p => match p.2.recv with
    | some r => r.age == h.id.age && r.partner == g.id.num && s.pend.any fun q => q.id == r.op && match q.flag with
      | some i => q.trapBank == h.flow.trapMode
          && h.bank.any fun f => f.wait == .clause && match f.hold with
            | .flags word => decide (word / 2 ^ (7 + i) % 2 = 1)
            | _ => false
      | none => false
    | none => false

/-- The barrier object on which a held fragment waits at an MBWAIT, be it that something else holds the access too (R350). -/
def Hold.waitsOn : Hold → Option Word
  | .object a _ => some a
  | .objectOp a (.wait _ _) _ _ _ => some a
  | .underShootdown _ _ h => h.waitsOn
  | _ => Option.none

/-- The barrier object on which a fragment waits. -/
def Frag.waitsOn (f : Frag) : Option Word := if f.wait = .held then f.hold.waitsOn else none

/-- H awaits G (R350). -/
def State.awaits (s : State) (h g : Group) : Bool :=
  if h.id.age = g.id.age then false
  else
    let objects := h.bank.any fun f => f.waitsOn.any fun a => s.expects (memKey h.id.ctx h.id.wg a) g.id.age
    let same := h.id.wg == g.id.wg && match Map.find? s.wgs h.id.wg with
      | none => false
      | some w =>
        (h.bank.any fun f => f.wait == .held && holdAwaits w h g f.hold) || s.recvAwaits w h g
          || (match s.latchedOf h with
            | some l => hasGroup l.members g.id.num && (s.latchedOf g).isNone
            | none => false)
    objects || same

/-- Base priority of a group: min(PRIO of its record, QCTL.PRIO of its queue) (R349); a priority written into its image stands in
place of the record's (R379; log 102). -/
def State.basePrio (s : State) (g : Group) : Nat :=
  min (g.id.prio.getD (((s.wgOf g).map (·.prio)).getD 0)) ((Map.find? s.queues g.id.queue).map (·.prio) |>.getD 0)

/-- The two are a pair one of which holds a latched operation: each takes the higher priority (R335). -/
def State.pairLinked (s : State) (h g : Group) : Bool :=
  h.id.wg == g.id.wg && h.sys.gang.valid && h.sys.gang.pair && hasGroup h.sys.gang.members g.id.num
    && ((s.latchedOf h).isSome || (s.latchedOf g).isSome)

/-- One round of inheritance over the priorities of all groups. -/
def prioRound (links : List (Nat × Nat)) (ps : Cells Nat) : Cells Nat :=
  ps.map fun (k, p) => (k, links.foldl (fun q e => if e.2 = k then max q (Map.get 0 ps e.1) else q) p)

/-- Rounds until every chain of awaiting groups is followed. -/
def prioRounds (links : List (Nat × Nat)) : Nat → Cells Nat → Cells Nat
  | 0, ps => ps
  | n + 1, ps => prioRounds links n (prioRound links ps)

/-- Effective priorities of all groups (R349, R350). -/
def State.priorities (s : State) : Cells Nat :=
  let base := s.groups.map fun p => (p.1, s.basePrio p.2)
  let links := s.groups.flatMap fun h => (s.groups.filter fun g => s.awaits h.2 g.2 || s.pairLinked h.2 g.2).map
    fun g => (h.1, g.1)
  if links.isEmpty then base else prioRounds links s.groups.length base

/-- Effective priority of a group. -/
def State.effPrio (s : State) (age : Nat) : Nat := Map.get 0 s.priorities age

end Sys2Proof.Machine
end

