-- ==== Sys2Proof/Machine/Holds.lean ====
section
/-! DEFINITION. Sub-cores, split-table entries, and when the reason of a hold is over (R91, R169, R176, R180, R208, R233,
R240, R244, R246, R247, R259, R271, R287, R346, R360, R371). -/

namespace Sys2Proof.Machine

/-! ## Sub-cores (R354) -/

/-- The sub-core of a group slot. -/
def subOf (slot : Nat) : Nat := slot / 16

/-- The resident groups of a sub-core, oldest first. -/
def State.subGroups (s : State) (core sub : Nat) : List (Nat × Group) :=
  s.groups.filter fun p => p.2.id.resident && p.2.id.core == core && subOf p.2.id.slot == sub

/-- The resident groups of a core, oldest first. -/
def State.coreGroups (s : State) (core : Nat) : List (Nat × Group) :=
  s.groups.filter fun p => p.2.id.resident && p.2.id.core == core

/-- The lowest natural number below a bound that a list does not hold. -/
def lowestFree (used : List Nat) : Nat → Nat → Nat
  | 0, k => k
  | n + 1, k => if used.contains k then lowestFree used n (k + 1) else k

/-- So many new fragments of a group, as it stands within its instruction, find entries: within the group's entitlement of 8, or in
the pool; in trap mode within the bank of 8 (R91, R370). -/
def State.splitRoomFor (s : State) (g : Group) (n : Nat) : Bool :=
  if g.flow.trapMode then decide (g.flow.trapFrags.length + n ≤ 8)
  else if g.flow.frags.length + n ≤ 8 then true
  else
    let gs := s.subGroups g.id.core (subOf g.id.slot)
    let others := (gs.filter fun p => p.1 != g.id.age).foldl (fun k p => k + (p.2.flow.frags.length - 8)) 0
    decide (others + (g.flow.frags.length + n - 8) ≤ 128 - 8 * gs.length)

/-- One new fragment finds an entry. -/
def State.splitRoom (s : State) (g : Group) : Bool := s.splitRoomFor g 1

/-- The entry that a new fragment takes: the lowest free one of the sub-core, or of the trap bank (R96, R370). -/
def State.newEntry (s : State) (g : Group) : Nat :=
  if g.flow.trapMode then lowestFree (g.flow.trapFrags.map (·.entry)) 8 0
  else
    let others := (s.subGroups g.id.core (subOf g.id.slot)).filter fun p => p.1 != g.id.age
    lowestFree (g.flow.frags.map (·.entry) ++ others.flatMap fun p => p.2.flow.frags.map (·.entry)) 128 0

/-- A fragment of a group, with an entry of its own, as a split makes it, and the cycle from which it issues (R96, R104,
R108). -/
def newFrag (f : Frag) (entry clock at_ : Nat) (pc : Word) (lanes : Lane) (needHeader : Bool) : Frag :=
  { f with entry := entry, pc := pc, lanes := lanes, needHeader := needHeader, wait := .ready, hold := .none, rejoin := 0,
           age := 0, agedAt := 0, lastIssue := clock, pausedUntil := 0, readyAt := at_ }

/-- Put a fragment into its place in the bank, by entry. -/
def insertFrag : List Frag → Frag → List Frag
  | [], f => [f]
  | x :: l, f => if f.entry < x.entry then f :: x :: l else x :: insertFrag l f

/-- The group is resident and runs: it is neither evicted nor halted (R180). -/
def Group.running (g : Group) : Bool := g.id.resident && !g.id.halted

/-- Every lane of the group has exited. -/
def Group.exited (g : Group) : Bool := decide (g.flow.live = 0)

/-! ## Words of memory as the machine's own checks see them -/

/-- The n bytes at an address of the group as its barrier objects and watches stand: shared memory, or the LLC, or the
control cache. -/
def State.objectBytes (s : State) (g : Group) (a : Word) (n : Nat) : Option Nat :=
  if a.toNat / 2 ^ 61 = 6 then
    (s.wgOf g).map fun w => bytesVal (Map.getRun 0 w.shared (a.toNat % 2 ^ 20) n)
  else match s.llcReads (vkey g.id.ctx a) n with
    | .ok (l, _) => some (bytesVal l)
    | .error _ => none

/-- PHASE of a barrier object (Table 9.5). -/
def objPhase (o : Nat) : Nat := o / 2 ^ 56 % 4

/-- PRIO of a barrier object. -/
def objPrio (o : Nat) : Nat := o / 2 ^ 52 % 16

/-! ## Room -/

/-- Landing records of a core and of a group leave room for one more (R208). -/
def State.landingRoom (s : State) (core age : Nat) : Bool :=
  decide ((s.landing.filter fun r => r.core == core).length < 256)
    && decide ((s.landing.filter fun r => r.age == age).length < 32)

/-- The Wherry engine of a core has room for a command of a group (R271). -/
def State.wherryRoom (s : State) (core age : Nat) : Bool :=
  decide ((s.wherry.filter fun w => w.core == core && w.active).length < 64)
    && decide ((s.wherry.filter fun w => w.age == age && w.active).length < 16)

/-- Request tags of a core that a new request does not take: those of requests in its table, and those that another package may still
remember (R262; log 93). -/
def State.tagsUsed (s : State) (core : Nat) : List Nat :=
  ((s.remote.filter fun r => r.core == core && r.entered).flatMap fun r => r.lines.map (·.tag))
    ++ ((s.core core).tagRest.filter fun t => decide (s.time8 < t.2)).map (·.1)

/-- The remote-atomic table of a core has an entry for a sub-operation of a group, whose requests find tags (R259, R262). -/
def State.remoteRoom (s : State) (core age : Nat) : Bool :=
  decide ((s.remote.filter fun r => r.core == core && r.entered).length < 256)
    && decide ((s.remote.filter fun r => r.age == age && r.entered).length < 32)
    && decide ((s.tagsUsed core).length + 32 ≤ 65536)

/-- The Ferry engines have room for a command that waits for its partners (R287). -/
def State.ferryRoom (s : State) : Bool := decide ((s.ferry.filter fun c => !c.matched).length < 32)

/-- The shootdown unit has room for a request of this package (R214). -/
def State.shootdownRoom (s : State) : Bool := decide ((s.shootdowns.filter (·.remote.isNone)).length < 16)

/-- PEND of a queue (Table 14.8). -/
def Queue.pend (q : Queue) : Nat := q.pending.length

/-- A launch queue; an unlisted queue is as after reset. -/
def State.queue (s : State) (q : Nat) : Queue := Map.get Queue.reset s.queues q

/-- Change a launch queue. -/
def State.onQueue (s : State) (q : Nat) (f : Queue → Queue) : State :=
  { s with queues := Map.set Queue.reset s.queues q (f (s.queue q)) }

/-! ## Registers that a pending instruction writes (R360) -/

/-- An entry of an array object operation writes a register at or above a bound. -/
def ObjectOp.writesAbove (bound : Nat) : ObjectOp → Bool
  | .drainV _ _ rows reg _ => decide (bound < reg + 6 * rows)
  | .oget _ _ reg count _ => decide (bound < reg + count)
  | _ => false

/-- The pending instruction writes a vector register numbered at or above a bound. -/
def State.writesAbove (s : State) (bound : Nat) (p : Pend) : Bool :=
  match p.kind with
  | .result vw _ _ => vw.any fun c => decide (bound ≤ c.1 / 32) && decide (c.1 / 32 < 512)
  | .load l => l.kind != 1 && decide (bound < l.reg + 4) && decide (l.reg < 512)
  | .xrecv _ _ _ reg count => decide (bound < reg + count) && decide (reg < 512)
  | .xat _ => s.remote.any fun r => r.age == p.age && decide (bound < r.reg + 4)
  | .object aop => s.cores.any fun c => c.2.aops.any fun e => e.id == aop && e.op.writesAbove bound
  | .wstat _ _ | .flush _ _ _ _ => false

/-! ## Accesses before a release or an acquire (R229, R231) -/

/-- A load or atomic of the group with a number below the bound has not completed; with `trap`, only those issued in trap
mode count. -/
def State.pendBefore (s : State) (age before : Nat) (trap : Bool) (sel : Load → Bool) : Bool :=
  s.pend.any fun p => p.age == age && decide (p.id < before) && (!trap || p.trapBank) && match p.kind with
    | .load l => sel l
    | .flush _ _ _ _ => true
    | _ => false

/-- Loads of the group with a number below the bound have no data yet. -/
def State.loadsBefore (s : State) (age before : Nat) : Bool := s.pendBefore age before false fun l => l.kind != 4

/-- An earlier access of the group has not completed, or an earlier store has not landed (R229): in trap mode, of those
issued in trap mode (R233). -/
def State.accessesBefore (s : State) (g : Group) (age before : Nat) : Bool :=
  s.pendBefore age before g.flow.trapMode (fun _ => true)
    || (s.landing.any fun r => r.age == age && decide (r.id < before) && (!g.flow.trapMode || r.inTrap))
    || (s.remote.any fun r => r.age == age && decide (r.id < before) && (!g.flow.trapMode || r.bank))

/-- An earlier access of the group is still to be performed, a store that has faulted apart: a launch waits for it in trap
mode too (R344, R346). -/
def State.launchBefore (s : State) (age before : Nat) : Bool :=
  s.pendBefore age before false (fun _ => true)
    || (s.landing.any fun r => r.age == age && decide (r.id < before) && r.isPending)
    || (s.remote.any fun r => r.age == age && decide (r.id < before))

/-- A barrier object is free for an update by an instruction of a group that issued as operation `before`: its word is not under a
pending store of another group or of its own, an earlier load of it or an acquiring load of the group, or a command that owns its
line (R220, R222, R231, R242, R248). -/
def State.updateFree (s : State) (g : Group) (a : Word) (before : Nat) : Bool :=
  let vk := vkey g.id.ctx a
  let held := fun (r : Landing) => r.isPending && r.lanes.any fun l =>
    !l.landed && decide (vkey r.ctx l.addr < vk + 8) && decide (vk < vkey r.ctx l.addr + l.bytes.length)
  let shared := decide (a.toNat / 2 ^ 61 = 6)
  (shared || !(s.landing.any (fun r => decide (r.id < before) && held r) || s.wherryOwns before (lineOf vk)))
    && !s.pend.any fun p => p.age == g.id.age && decide (p.id < before) && match p.kind with
      | .load l => l.kind == 2 || l.addrs.any fun b => !(l.staged.any fun q => q.1 == b.1)
          && ((shared && decide (b.2.toNat / 2 ^ 61 = 6))
            || (decide (vkey g.id.ctx b.2 < vk + 8) && decide (vk < vkey g.id.ctx b.2 + l.size)))
      | _ => false

/-! ## The end of a hold -/

/-- A latch of a group, and the group that fills it, allow a read (R169, R180). -/
def State.latchReady (s : State) (w : Workgroup) (g : Group) (left : Bool) : Bool :=
  match s.member? w.id (latchFiller w.groups g.id.num left) with
  | none => true
  | some (_, h) =>
    let full := (Map.find? w.latches (2 * g.id.num + (if left then 0 else 1))).isSome
    (full && g.running && (h.running || h.exited)) || (!full && h.exited)

/-- Whether the first comes before the second among those held for one side of a slot: the order of their first
attempts, then GROUP, then the split-table entry (R176). -/
def firstHeld (a b : Nat × Nat × Nat) : Bool :=
  decide (a.1 < b.1) || (a.1 == b.1 && (decide (a.2.1 < b.2.1) || (a.2.1 == b.2.1 && decide (a.2.2 ≤ b.2.2))))

/-- The fragment is the first of those of its workgroup that are held for one side of a slot; a group in trap mode keeps
the places of its own fragments (R368). -/
def State.firstForSide (s : State) (g : Group) (f : Frag) (send : Bool) (slot : Nat) : Bool :=
  (s.members g.id.wg).all fun p => (p.2.flow.frags ++ p.2.flow.trapFrags).all fun h =>
    let same := match h.hold with
      | .sendSide x _ => send && x == slot
      | .recvSide x => !send && x == slot
      | _ => false
    !same || firstHeld (f.pausedUntil, g.id.num, f.entry) (h.pausedUntil, p.2.id.num, h.entry)

/-- A side of a slot is empty, or the pending operation can be abandoned at issue. -/
def Workgroup.sideEmpty (w : Workgroup) (send : Bool) (slot : Nat) : Bool :=
  match Map.find? w.slots slot with
  | none => true
  | some x => if send then x.send.isNone else x.recv.isNone

/-- The reason for which a fragment is held is over: the fragment may issue its instruction again, or go on.  The reasons
that an event ends never end here. -/
def State.holdOver (s : State) (g : Group) (f : Frag) : Bool :=
  let age := g.id.age
  match f.hold with
  | .none | .flags _ => true
  | .entries n => s.splitRoomFor g n
  | .retry => true
  | .records before => !(s.ownRecords g age).any fun r => r.isPending && decide (r.id < before)
  | .counter path limit =>
    decide (g.work.counter path ≤ limit) || (path == .st && (s.ownRecords g age).any (·.isFaulted))
  | .landingRoom => s.landingRoom g.id.core age
  | .busyLine key before => !s.wherryOwns before (key / 128)
  | .ownRecord keys => !s.landing.any fun r => r.age == age && r.isPending
      && r.lanes.any fun l => !l.landed && keys.any fun k =>
        decide (vkey r.ctx l.addr ≤ k) && decide (k < vkey r.ctx l.addr + l.bytes.length)
  | .edgeRead left => match s.wgOf g with
    | none => true
    | some w => s.latchReady w g left
  | .sendSide slot _ => match s.wgOf g with
    | none => true
    | some w => w.sideEmpty true slot && s.firstForSide g f true slot
  | .recvSide slot => match s.wgOf g with
    | none => true
    | some w => w.sideEmpty false slot && s.firstForSide g f false slot
  | .barrier bar phase | .barrierAgain bar phase => match s.wgOf g with
    | none => true
    | some w => (w.barrier bar).phase != phase
  | .object a phase => match s.objectBytes g a 8 with
    | none => true
    | some o => objPhase o != phase || decide (objPrio o < s.effPrio age)
  | .objectOp a _ before asked old => if asked then old.isSome else s.updateFree g a before
  | .watch _ _ => match g.work.watch with
    | none => true
    | some w => w.fired || w.lost
  | .wherryRoom => s.wherryRoom g.id.core age
  | .remoteRoom => !s.sending age
  | .ferryRoom => s.ferryRoom
  | .latchBusy => (s.latchedOf g).isNone
  | .arrayRoom => decide (((s.core g.id.core).aops.filter (·.queued)).length < 32)
  | .shrink newAlloc => !s.pend.any fun p => p.age == age && s.writesAbove newAlloc p
  | .shootdownRoom => s.shootdownRoom
  | .shootdown id => !s.shootdowns.any fun d => d.id == id
  | .underShootdown _ _ _ => !s.shootdowns.any (·.started)
  | .release before => !s.accessesBefore g age before
  | .loads before => !s.loadsBefore age before
  | .launch before => !s.launchBefore age before
  | .queueRoom q => decide ((s.queue q).pend < 64)
  | .trapResults => !s.pend.any fun p => p.age == age && p.trapBank && p.flag.isSome
  | .engines => g.work.counter .wh == 0 && g.work.counter .fe == 0 && g.work.counter .ra == 0
  | .slotLoading slots => !(s.core g.id.core).aops.any fun e => match e.op with
    | .engine (some n) _ _ => slots.contains n
    | _ => false
  | .deposits _ _ | .transfer _ | .latched | .rgrow | .claiming | .releasing _ _ _ => false

/-- A held fragment whose reason is over becomes ready; the reason stays for an instruction that issues again to read. -/
def State.wakeFrag (s : State) (g : Group) (f : Frag) : Frag :=
  match f.wait with
  | .held | .splitHold =>
    if s.holdOver g f then
      match f.hold with
      | .barrier _ _ => { f with wait := .ready, hold := .none }
      | _ => { f with wait := .ready }
    else f
  | _ => f

end Sys2Proof.Machine
end

