-- ==== Sys2Proof/Machine/Access.lean ====
section
/-! DEFINITION. What every memory access shares: its checks at issue, what makes it wait, and the bytes that the issuing
group sees (R16 to R19, R24, R185, R189, R190, R204, R216, R220 to R222, R230, R248, R410). -/

namespace Sys2Proof.Machine

/-! ## Checks at issue (R19, R54, R189) -/

/-- One access of an instruction: its lane, 32 where the instruction has none, its address and size. -/
structure Access where
  lane : Nat
  addr : Word
  size : Nat
  deriving DecidableEq, Repr

/-- The right that an access needs (Table 8.3, R252). -/
inductive Right where
  | none
  | read
  | write
  | atomic
  deriving DecidableEq, Repr

/-- Rights include a right. -/
def Rights.has (r : Rights) : Right → Bool
  | .none => true
  | .read => r.rd
  | .write => r.wr
  | .atomic => r.at_

/-- What an instruction demands of its accesses: the right, natural alignment, whether system windows and private space
are open to it, its scope, whether PRIVHWM bounds it (R204), and whether another package's tensor space is not. -/
structure AccessRule where
  right : Right
  align : Bool := true
  window : Bool := false
  priv : Bool := true
  scope : Nat := 0
  limit : Bool := true
  direct : Bool := true
  deriving DecidableEq, Repr

/-- The shared allocation of a group's workgroup. -/
def State.sharedSize (s : State) (g : Group) : Nat := ((s.wgOf g).map (·.shSize)).getD 0

/-- SPACE (R16, R17).  DESIGN CHOICE (log 84): an access that begins below the shared allocation and ends beyond it takes
SPACE, before MISALIGN is asked. -/
def State.spaceBad (s : State) (g : Group) (r : AccessRule) (a : Access) : Bool :=
  match space? a.addr with
  | Option.none => true
  | some .window => !r.window
  | some .priv => !r.priv
  | some .shared => decide (s.sharedSize g < a.addr.toNat % 2 ^ 20 + a.size)
  | some .tensor | some .control => false

/-- The access reaches a system window. -/
def Access.inWindow (a : Access) : Bool := decide (a.addr.toNat / 2 ^ 61 = 7)

/-- The access reaches tensor space of another package. -/
def State.isRemote (s : State) (a : Word) : Bool := decide (a.toNat / 2 ^ 61 = 0) && decide (pkgOf a ≠ s.pkg)

/-- MISALIGN (R187, R196). -/
def Access.misaligned (r : AccessRule) (a : Access) : Bool :=
  r.align && (decide (a.addr.toNat % a.size ≠ 0) || (a.inWindow && a.size != 4 && a.size != 8))

/-- The access is to tensor or control space, where rights apply (R190). -/
def Access.hasRights (a : Access) : Bool := decide (a.addr.toNat / 2 ^ 61 = 0) || decide (a.addr.toNat / 2 ^ 61 = 2)

/-- The pages of the accesses that carry rights, each once (R189). -/
def rightsPages (accs : List Access) : List Word :=
  ((accs.filter (·.hasRights)).map fun a => (BitVec.ofNat 64 (a.addr.toNat / 65536 * 65536) : Word)).eraseDups

/-- Have the rights of the accesses' pages in the permission cache, walking where they are absent (R192). -/
def State.cacheRights (s : State) (core ctx : Nat) (accs : List Access) : State :=
  (rightsPages accs).foldl (fun t a => (t.rights core ctx a).2) s

/-- The widest scope of a class (Table 1.5): .rack for SC, .pkg for NC and DC. -/
def widestScope (cls : Nat) : Nat := if cls = 2 then 5 else 4

/-- SPACE, PRIV, REMOTE-DIRECT and MISALIGN, in the order of R19. -/
def Ctx.checkPlain (c : Ctx) (s : State) (r : AccessRule) (accs : List Access) : Except Stop Unit := do
  match accs.find? (s.spaceBad c.g r) with
  | some a => .error (addrTrap .space a.lane a.addr)
  | none => .ok ()
  match accs.find? fun a => a.inWindow && !c.g.flow.trapMode with
  | some a => .error (.trap { cause := .priv, lane := a.lane, word := BitVec.ofNat 64 c.word })
  | none => .ok ()
  match accs.find? fun a => r.direct && s.isRemote a.addr with
  | some a => .error (addrTrap .remoteDirect a.lane a.addr)
  | none => .ok ()
  match accs.find? (Access.misaligned r) with
  | some a => .error (addrTrap .misalign a.lane a.addr)
  | none => .ok ()

/-- PERM and CLASS, by the rights that the permission cache now holds. -/
def Ctx.checkRights (c : Ctx) (s : State) (r : AccessRule) (accs : List Access) : Except Stop Unit := do
  match accs.find? fun a => a.hasRights && !(s.rights c.core c.ctx a.addr).1.has r.right with
  | some a => .error (addrTrap .perm a.lane a.addr)
  | none => .ok ()
  match accs.find? fun a => a.hasRights && decide (widestScope (s.rights c.core c.ctx a.addr).1.cls < r.scope) with
  | some a => .error (addrTrap .class_ a.lane a.addr)
  | none => .ok ()

/-- A private access ends beyond PRIVHWM (R204). -/
def Ctx.beyondHwm (c : Ctx) (a : Access) : Bool :=
  decide (a.addr.toNat / 2 ^ 61 = 4) && decide (c.g.sys.privHwm.toNat < offset48 a.addr + a.size)

/-- Accesses beyond PRIVHWM park the group at the instruction: the record names the lanes of those accesses, none for a
scalar one, and the address of the lowest (R204, Table 8.9; log 81). -/
def Ctx.checkHwm (c : Ctx) (accs : List Access) : Except Stop Unit :=
  match accs.filter c.beyondHwm with
  | a :: more => .error (.park 2 4 (maskOf ((a :: more).map (·.lane))) a.addr)
  | [] => .ok ()

/-! ## Instructions that access memory -/

/-- RF-ECC where an access reads a poisoned word of shared memory or of dirty L1 bytes; ADDR holds the offset in its space (R410;
log 120). -/
def Ctx.checkPoison (c : Ctx) (s : State) (accs : List Access) : Except Stop Unit :=
  if s.mem.poison.isEmpty then .ok ()
  else
    let bad := fun (a : Access) => (List.range a.size).any fun i =>
      if a.addr.toNat / 2 ^ 61 = 6 then s.mem.poison.contains (poisonShared c.g.id.wg (a.addr.toNat % 2 ^ 20 + i))
      else s.mem.poison.contains (poisonL1 c.core (vkey c.ctx a.addr + i))
        && ((Map.find? (s.core c.core).l1 (vkey c.ctx a.addr + i)).map (·.dirty)).getD false
    match accs.find? bad with
    | some a =>
      let shared := decide (a.addr.toNat / 2 ^ 61 = 6)
      .error (.trap { cause := .rfEcc, aux := if shared then 0x1000 else 0x1003, lane := a.lane,
                      addr := BitVec.ofNat 64 (if shared then a.addr.toNat % 2 ^ 20 else offset48 a.addr) })
    | none => .ok ()

/-- Two runs of keys share a key. -/
def overlap (a m b n : Nat) : Bool := decide (a < b + n) && decide (b < a + m)

/-- A memory instruction: its path, the checks before its accesses, whether it consumes the bytes of its accesses (R410), what it
demands of them, the accesses, and whether watchpoints see it as a load and as a store (R382). -/
structure MemForm where
  path : Option Path
  pre : Ctx → Except Stop Unit
  reads : Bool := false
  rule : AccessRule
  accs : Ctx → List Access
  watchRd : Bool := false
  watchWr : Bool := false

/-- An access touches an enabled watchpoint range of its context and direction (Table 15.8). -/
def State.watched (s : State) (ctx : Nat) (rd wr : Bool) (a : Access) (w : Nat) : Bool :=
  let ctl := (Map.get 0 s.dbg.wpCtl w).toNat
  ctl.testBit 8 && ((ctl.testBit 6 && rd) || (ctl.testBit 7 && wr)) && decide (ctl / 2 ^ 32 % 4096 = ctx)
    && overlap (Map.get 0 s.dbg.wpBase w).toNat (2 ^ min (ctl % 64) 47) a.addr.toNat a.size

/-- WATCH, precise at the instruction: the lowest lane that touches a range, and the lowest such range (R382). -/
def Ctx.checkWatch (c : Ctx) (s : State) (rd wr : Bool) (accs : List Access) : Except Stop Unit :=
  match accs.find? fun a => (List.range 4).any (s.watched c.ctx rd wr a) with
  | none => .ok ()
  | some a => .error (.trap { cause := .watch, lane := a.lane, addr := a.addr,
                              aux := ((List.range 4).find? (s.watched c.ctx rd wr a)).getD 0 })

/-- An instruction that was held under a shootdown issues again: it no longer counts under its old number, and stands as it did
before (R216). -/
def State.uncount (s : State) : State :=
  match s.ctx? with
  | none => s
  | some c => match c.f.hold with
    | .underShootdown path op inner =>
      s.onGroup c.age fun g =>
        let g1 := g.onFrag c.entry fun f => { f with hold := inner }
        match path with
        | none => g1
        | some p => { g1 with work := g1.work.finish p op }
    | _ => s

/-- Hold an instruction at its permission check until the shootdown is over; it counts on its path (R216). -/
def Ctx.holdCounted (c : Ctx) (s : State) (path : Option Path) : State :=
  let s1 := match path with
    | none => s
    | some p => { s with nextOp := s.nextOp + 1 }.startOp c.age p s.nextOp
  c.heldState s1 (.underShootdown path s.nextOp c.f.hold)

/-- The checks before those of R19: the instruction's own, and RF-ECC for the bytes that it consumes (R369). -/
def MemForm.first (m : MemForm) (c : Ctx) (s : State) : Except Stop Unit := do
  m.pre c
  if m.reads then c.checkPoison s (m.accs c) else .ok ()

/-- Execute a memory instruction: the checks in the order of R54 and R19, with the wait of R216 and the park of R204, then
its effect. -/
def runMem (s : State) (m : MemForm) (body : Ctx → State → Except Stop State) : Host.Outcome State Fault Refusal :=
  let s0 := s.uncount
  match s0.ctx? with
  | none => .fault .noFragment
  | some c => match m.first c s0 with
    | .error e => .next (c.stopped s0 e)
    | .ok () => match c.checkPlain s0 m.rule (m.accs c) with
      | .error e => .next (c.stopped s0 e)
      | .ok () =>
        if (m.accs c).any fun a => s0.underShootdown (vkey c.ctx a.addr) then .next (c.holdCounted s0 m.path)
        else
          let s1 := s0.cacheRights c.core c.ctx (m.accs c)
          match (do
            c.checkRights s1 m.rule (m.accs c)
            c.checkWatch s1 m.watchRd m.watchWr (m.accs c)
            if m.rule.limit then c.checkHwm (m.accs c) else .ok ()
            body c s1) with
          | .ok s2 => .next s2
          | .error e => .next (c.stopped s1 e)

/-- The accesses of format M, one for each active lane. -/
def Ctx.laneAccesses (c : Ctx) (ox : Bool) (vo : BitVec 7) (sb : BitVec 6) (size : Nat) : List Access :=
  (c.laneAddrs ox vo sb).map fun p => { lane := p.1, addr := p.2, size := size }

/-- The page of an access is NC, by the rights at issue. -/
def Ctx.isNc (c : Ctx) (s : State) (a : Word) : Bool :=
  decide (a.toNat / 2 ^ 61 = 0) && decide ((s.rights c.core c.ctx a).1.cls = 0)

/-! ## What makes an access wait -/

/-- A lane of a landing record holds one of the bytes. -/
def Landing.touches (r : Landing) (l : LaneStore) (vk n : Nat) : Bool :=
  !l.landed && overlap (vkey r.ctx l.addr) l.bytes.length vk n

/-- A pending record of another group, created before operation `id`, holds one of the bytes (R222). -/
def State.othersPending (s : State) (age id vk n : Nat) : Bool :=
  s.landing.any fun r => r.age != age && decide (r.id < id) && r.isPending && r.lanes.any fun l => r.touches l vk n

/-- The line carries the mark of another core (R230). -/
def State.markHolds (s : State) (core line : Nat) : Bool :=
  match Map.find? s.mem.marks line with
  | some (c, _) => c != core
  | none => false

/-- The lanes of two accesses of a group keep program order: the same lane, or one of them is scalar. -/
def sameAgent (a b : Nat) : Bool := a == b || a == 32 || b == 32

/-- A lane of a load has no data yet. -/
def Load.waits (l : Load) (lane : Nat) : Bool := !l.staged.any fun p => p.1 == lane

/-- An earlier load or atomic of the group must be performed first: one with acquire, one of the same lane on a shared
byte, or in private space any of the same lane (R220, R221, R231). -/
def State.ownEarlier (s : State) (age id lane vk n : Nat) : Bool :=
  s.pend.any fun p => p.age == age && decide (p.id < id) && match p.kind with
    | .load l => l.kind == 2 || l.addrs.any fun a =>
        sameAgent a.1 lane && l.waits a.1
          && (overlap (vkey (vk / 2 ^ 64 - 1) a.2) l.size vk n || (decide (2 ^ 64 ≤ vk) && decide (a.2.toNat / 2 ^ 61 = 4)))
    | _ => false

/-- An access of a load or atomic waits (R222, R230, R248). -/
def State.accessWaits (s : State) (g : Group) (id lane vk n : Nat) : Bool :=
  s.othersPending g.id.age id vk n || s.markHolds g.id.core (lineOf vk) || s.wherryOwns id (lineOf vk)
    || s.ownEarlier g.id.age id lane vk n

/-- A line is dirty at the home or slice by a mark of another core: that core is recalled first (R230). -/
def State.recallFor (s : State) (core line : Nat) : State := if s.markHolds core line then s.recallLine line else s

/-! ## Bytes of the group's own unlanded records (R185) -/

/-- The byte of a key in a lane of a landing record. -/
def Landing.byteAt (r : Landing) (l : LaneStore) (vk : Nat) : Option Byte :=
  let k := vkey r.ctx l.addr
  if !l.landed && decide (k ≤ vk) then (l.bytes[vk - k]?).join else none

/-- The byte that the youngest unlanded record of the group holds, among stores with a sequence number below `before`. -/
def State.ownByte (s : State) (age before vk : Nat) : Option Byte :=
  s.landing.foldl (fun acc r =>
    if r.age == age && decide (r.seq < before) then
      r.lanes.foldl (fun acc l => (r.byteAt l vk).or acc) acc
    else acc) none

/-! ## Shared memory (R196, R221) -/

/-- Bytes of a workgroup's shared memory. -/
def Workgroup.sharedBytes (w : Workgroup) (off n : Nat) : List Byte := Map.getRun 0 w.shared off n

/-- Forget the poison of the words of an SRAM that a write covers whole: `key` gives the poison key of a byte offset. -/
def clearWords (poison : List Nat) (key : Nat → Nat) (off n : Nat) : List Nat :=
  if poison.isEmpty then poison
  else poison.filter fun p => !((List.range n).any fun i =>
    decide ((off + i) % 4 = 0) && decide (i + 4 ≤ n) && key (off + i) == p)

/-- Write bytes of a workgroup's shared memory, and fire the watches of its groups on the lines. -/
def State.sharedWrite (s : State) (wg off : Nat) (l : List Byte) : State :=
  let s1 := s.onWg wg fun w => { w with shared := Map.setRun 0 w.shared off l }
  let s2 := { s1 with mem := { s1.mem with poison := clearWords s1.mem.poison (poisonShared wg) off l.length } }
  let lines := ((List.range l.length).map fun i => lineOf (2 ^ 90 + wg * 2 ^ 20 + off + i)).eraseDups
  lines.foldl (fun t line => t.fireWatch none line) s2

end Sys2Proof.Machine
end

