-- ==== Sys2Proof/Machine/Landing.lean ====
section
/-! DEFINITION. The landing queue, the release table and cache maintenance (R195, R205 to R210, R213, R229, R230,
R427). -/

namespace Sys2Proof.Machine

/-! ## Landing a store (R205 to R207) -/

/-- The key of a lane's first byte. -/
def Landing.key (r : Landing) (l : LaneStore) : Nat := vkey r.ctx l.addr

/-- The bytes that a lane still holds, with their keys. -/
def Landing.cells (r : Landing) (l : LaneStore) : List (Nat × Byte) :=
  ((List.range l.bytes.length).zip l.bytes).filterMap fun p => p.2.map fun b => (r.key l + p.1, b)

/-- The release entry that marks the bytes of a lane: private space is never marked (R229). -/
def Landing.markOf (r : Landing) (l : LaneStore) : Option Nat := if keySpace (r.key l) == .priv then none else r.mark

/-- The bytes go to the LLC as they land: DC and .stream stores, marked ones, those that found no way of their L1 set, and
those to a line that a later command owns (Table 8.6, R195, R229, R248). -/
def State.landsAtLlc (s : State) (r : Landing) (l : LaneStore) : Bool :=
  r.stream || l.direct || (r.markOf l).isSome || (keySpace (r.key l) == .tensor && !l.nc) || s.wherry.any fun w => w.owns (lineOf (r.key l))

/-- An earlier private store of the same lane has neither landed nor faulted (R221). -/
def State.privateEarlier (s : State) (r : Landing) (l : LaneStore) : Bool :=
  keySpace (r.key l) == .priv && s.landing.any fun q => q.age == r.age && decide (q.id < r.id) && q.lanes.any fun m =>
    sameAgent m.lane l.lane && !m.landed && !m.faulted && keySpace (q.key m) == .priv

/-- A control-space store waits for the engine commands and remote atomics that its TCFENCE orders before it (R235). -/
def State.fenceWaits (s : State) (r : Landing) (l : LaneStore) : Bool :=
  keySpace (r.key l) == .control && match Map.find? s.groups r.age with
    | none => false
    | some g => g.work.inflight.any fun e =>
        !e.done && decide (e.op < r.fence) && (e.path == .wh || e.path == .fe || e.path == .ra)

/-- A confirmed lane may not land yet: an earlier access of its group comes first, or the line is held by a mark of another
core or by a Wherry command (R220, R221, R230, R248). -/
def State.landWaits (s : State) (r : Landing) (l : LaneStore) : Bool :=
  let k := r.key l
  s.ownEarlier r.age r.id l.lane k l.bytes.length || s.privateEarlier r l || s.fenceWaits r l || s.wherryOwns r.id (lineOf k)
    || ((s.landsAtLlc r l || keySpace k == .control) && s.markHolds r.core (lineOf k))

/-- Earlier unlanded records of a group no longer hold bytes that a later store of the group has landed (R220). -/
def State.eraseOlder (s : State) (age id vk n : Nat) : State :=
  { s with landing := s.landing.map fun r =>
      if r.age == age && decide (r.id < id) then
        { r with lanes := r.lanes.map fun l =>
            if r.touches l vk n then
              { l with bytes := ((List.range l.bytes.length).zip l.bytes).map fun p =>
                  if decide (vk ≤ r.key l + p.1) && decide (r.key l + p.1 < vk + n) then none else p.2 }
            else l }
      else r }

/-- The lower lanes of a record that have not landed no longer hold bytes that a higher lane has landed (R186). -/
def State.eraseLower (s : State) (id lane vk n : Nat) : State :=
  { s with landing := s.landing.map fun r =>
      if r.id == id then
        { r with lanes := r.lanes.map fun l =>
            if decide (l.lane < lane) && r.touches l vk n then
              { l with bytes := ((List.range l.bytes.length).zip l.bytes).map fun p =>
                  if decide (vk ≤ r.key l + p.1) && decide (r.key l + p.1 < vk + n) then none else p.2 }
            else l }
      else r }

/-- Apply the bytes of a lane to their path (Table 8.6). -/
def State.applyLane (s : State) (r : Landing) (l : LaneStore) : State :=
  let k := r.key l
  let bytes := r.cells l
  let s1 := (s.eraseOlder r.age r.id k l.bytes.length).eraseLower r.id l.lane k l.bytes.length
  if bytes.isEmpty then s1
  else if keySpace k = .control then
    (match r.markOf l with
      | some e => s1.recall r.core e
      | none => s1).llcWrite bytes
  else if s1.landsAtLlc r l then
    let s2 := (s1.l1Update r.core bytes).llcWrite bytes
    match r.markOf l with
    | some e => s2.markLine (lineOf k) r.core e
    | none => s2
  else s1.l1Write r.core l.nc bytes

/-- Replace a record. -/
def State.onRecord (s : State) (id : Nat) (f : Landing → Landing) : State :=
  { s with landing := s.landing.map fun r => if r.id == id then f r else r }

/-- A lane of a record as it stands, with its record. -/
def State.laneOf (s : State) (id lane : Nat) : Option (Landing × LaneStore) :=
  (s.landing.find? fun q => q.id == id).bind fun q => (q.lanes.find? fun m => m.lane == lane).map fun m => (q, m)

/-- Change a lane of a record. -/
def State.onLane (s : State) (id lane : Nat) (f : LaneStore → LaneStore) : State :=
  s.onRecord id fun q => { q with lanes := q.lanes.map fun m => if m.lane == lane then f m else m }

/-- A lane has landed: its bytes go to their path, and those of earlier records and lower lanes are over (R220). -/
def State.landLane (s : State) (id lane : Nat) : State :=
  match s.laneOf id lane with
  | none => s
  | some (q, m) => (s.applyLane q m).onLane id lane fun m => { m with landed := true }

/-- A lane of control space whose home is asked to apply it: with a mark its core recalls the entry first (R229, R230).  It has landed
once the home has applied it (R223; log 6). -/
def State.askStore (s : State) (q : Landing) (m : LaneStore) : State :=
  let s1 := match q.markOf m with
    | some e => s.recall q.core e
    | none => s
  let n := m.bytes.length
  ((s1.eraseOlder q.age q.id (q.key m) n).eraseLower q.id m.lane (q.key m) n).askBytes (q.cells m) (.store q.id m.lane)

/-- Land the confirmed lanes of a record that need not wait, in ascending order; one whose home must apply it is sent there. -/
def State.landLanes (s : State) (id : Nat) : State :=
  match s.landing.find? fun r => r.id == id with
  | none => s
  | some r => r.lanes.foldl (fun t l => match t.laneOf id l.lane with
      | none => t
      | some (q, m) =>
        if m.landed || m.faulted || !m.confirmed || t.landWaits q m || t.asking (.store id m.lane) then t
        else if t.asksHome (q.key m) && !(q.cells m).isEmpty then
          if t.controlStalled (q.key m % 2 ^ 48) then t else t.askStore q m
        else t.landLane id m.lane) s

/-- The lanes of a record that a test selects wait for no probe any more, and land. -/
def State.confirmLanes (s : State) (id : Nat) (sel : LaneStore → Bool) : State :=
  (s.onRecord id fun q => { q with lanes := q.lanes.map fun m =>
    if !m.landed && !m.faulted && sel m then { m with confirmed := true } else m }).landLanes id

/-! ## Cache maintenance (R213) -/

/-- Bytes of a record's lane stand in its core's L1 until they land: they pin their line (R195). -/
def State.pinsLine (s : State) (core line : Nat) (r : Landing) (l : LaneStore) : Bool :=
  r.core == core && !l.landed && lineOf (r.key l) == line && keySpace (r.key l) != .control && !s.landsAtLlc r l

/-- A line of a core's L1 is pinned by a record that has not landed (R195). -/
def State.pinned (s : State) (core line : Nat) : Bool := s.landing.any fun r => r.lanes.any (s.pinsLine core line r)

/-- A line of a core's L1 is pinned by a record that has faulted: it stays until LANDR (R213, R234). -/
def State.pinnedByFault (s : State) (core line : Nat) : Bool :=
  s.landing.any fun r => r.isFaulted && r.lanes.any (s.pinsLine core line r)

/-- Sets and ways of the L1 (R196's figures); a set takes the low bits of the line number (log 88). -/
def l1Set (line : Nat) : Nat := line % 256

/-- The lines of a set of a core's L1 that are pinned. -/
def State.pinnedLines (s : State) (core set : Nat) : List Nat :=
  ((s.landing.flatMap fun r => r.lanes.map fun l => lineOf (r.key l)).eraseDups).filter fun line =>
    l1Set line == set && s.pinned core line

/-- An access may allocate a line: the core's L1 holds it, or some way of its set is not pinned (R195). -/
def State.mayAllocate (s : State) (core line : Nat) : Bool :=
  ((s.core core).l1.any fun p => lineOf p.1 == line) || s.pinned core line
    || decide ((s.pinnedLines core (l1Set line)).length < 16)

/-- Write back a line of a core's L1, and at the LLC level to HBM; then invalidate as CINV does.  A line that cannot be
written to HBM stays (R427), as does one that a faulted record pins (R213). -/
def State.flushLine (s : State) (core : Nat) (inv llc : Bool) (line : Nat) : State :=
  if s.pinnedByFault core line then s
  else
  let s1 := s.l1Writeback core fun k _ => lineOf k == line
  let s2 := if llc then s1.llcWriteback line else s1
  let s3 := if inv then s2.l1Drop core fun k _ => lineOf k == line else s2
  if inv && llc then
    if (s3.mem.dirtyOf line).isEmpty then
      let s4 := s3.recallLine line
      if (s4.mem.dirtyOf line).isEmpty then { s4 with mem := s4.mem.llcDrop line } else s4
    else s3
  else s3

/-- Flush the lines of a cache maintenance instruction. -/
def State.flushLines (s : State) (core : Nat) (inv llc : Bool) (lines : List Nat) : State :=
  lines.foldl (fun t line => t.flushLine core inv llc line) s

/-- The pending records of a core that hold bytes of a line (R195). -/
def State.pinning (s : State) (core line : Nat) : List Nat :=
  (s.landing.filter fun r => r.core == core && r.isPending && r.lanes.any fun l =>
    !l.landed && lineOf (r.key l) == line).map (·.id)

/-- Flushes that wait for no pending record any more are done (R213). -/
def State.settleFlushes (s : State) : State :=
  s.pend.foldl (fun t p => match p.kind with
    | .flush inv llc lines records =>
      if t.landing.any fun r => records.contains r.id && r.isPending then t
      else match Map.find? t.groups p.age with
        | none => t.landPend p
        | some g => (t.flushLines g.id.core inv llc lines).landPend p
    | _ => t) s

/-- Records that have landed are free (R208). -/
def State.settleRecords (s : State) : State :=
  let s1 := (s.landing.filter (·.isLanded)).foldl (fun t r => t.finishOp r.age .st r.id) s
  State.settleFlushes { s1 with landing := s1.landing.filter fun r => !r.isLanded }

/-- The home has applied bytes of a lane: the lane has landed once nothing of it is still asked (R223). -/
def State.storeAnswered (s : State) (id lane : Nat) : State :=
  if s.asking (.store id lane) then s
  else (s.onLane id lane fun m => if m.faulted then m else { m with landed := true }).settleRecords

/-- The home cannot translate the page of a lane, which faults with the home's detail (R207, R395). -/
def State.storeRefused (s : State) (id lane detail : Nat) : State :=
  ((s.onRecord id fun r => { r with detail := if r.isFaulted then r.detail else detail }).onLane id lane fun m =>
    { m with faulted := true }).settleFlushes

/-- A confirmed lane of a record could land now (R220, R221, R230, R248). -/
def State.canLand (s : State) (r : Landing) : Bool :=
  r.lanes.any fun m => !m.landed && !m.faulted && m.confirmed && !s.landWaits r m && !s.asking (.store r.id m.lane)
    && !(s.asksHome (r.key m) && s.controlStalled (r.key m % 2 ^ 48))

/-! ## Stores at issue -/

/-- The page of a lane. -/
def Landing.page (r : Landing) (l : LaneStore) : Nat := pageOf (r.key l)

/-- An earlier record of the group has faulted lanes on a page (R207, rule 1). -/
def State.faultedOn (s : State) (age page : Nat) : Bool :=
  s.landing.any fun q => q.age == age && q.lanes.any fun m => m.faulted && q.page m == page

/-- A lane of a record waits for a probe of a page. -/
def Landing.probes (q : Landing) (page : Nat) (m : LaneStore) : Bool :=
  !m.landed && !m.faulted && !m.confirmed && q.page m == page

/-- A pending lane of a core waits for a probe of a page. -/
def State.probing (s : State) (core page : Nat) : Bool :=
  s.landing.any fun q => q.core == core && q.lanes.any (q.probes page)

/-- The least key of the lanes of a record on a page that a test selects (R207). -/
def Landing.lowestOn (q : Landing) (page : Nat) (sel : LaneStore → Bool) : Option Nat :=
  least? ((q.lanes.filter fun m => q.page m == page && sel m).map q.key)

/-- The key at which the probe of a page walks: the lowest address in the page of the record that sent it, the first that waits
(R207). -/
def State.probeKey (s : State) (core page : Nat) : Nat :=
  match s.landing.find? fun q => q.core == core && q.lanes.any (q.probes page) with
  | some q => (q.lowestOn page fun _ => true).getD (page * 65536)
  | none => page * 65536

/-- A store lands at retirement, without a record (R206).  DESIGN CHOICE (log 115): one whose lines are landed, but whose bytes an
ordering rule still holds back, or whose home must apply them, takes a record and waits there. -/
def State.landsNow (s : State) (r : Landing) : Bool :=
  r.lanes.all fun l => s.lineLanded r.core (lineOf (r.key l)) && !s.landWaits r l && !s.asksHome (r.key l)

/-- Put a new record into the queue: lanes on a faulted page fault with it, lanes on pages whose lines have landed land,
and the others wait for a probe (R207). -/
def State.enqueue (s : State) (r : Landing) : State :=
  let bad := (r.lanes.map r.page).eraseDups.filter (s.faultedOn r.age)
  let good := fun (page : Nat) => r.lanes.all fun l => r.page l != page || s.lineLanded r.core (lineOf (r.key l))
  let probes := ((r.lanes.map r.page).eraseDups.filter fun p => !bad.contains p && !good p && !s.probing r.core p).length
  let q := { r with detail := if bad.isEmpty then 0 else 6,
                    lanes := r.lanes.map fun l => if bad.contains (r.page l) then { l with faulted := true } else l }
  let s1 := { s with landing := s.landing ++ [q] }
  let s2 := if probes = 0 then s1 else s1.onCore r.core fun c => c.count 0x0301 probes
  (s2.confirmLanes r.id fun l => good (r.page l)).settleRecords

/-- The lanes of a new record in ascending order, each marked where every way of its L1 set is pinned, by earlier records or
by lower lanes (R195). -/
def State.placeLanes (s : State) (r : Landing) : List LaneStore → List Nat → List LaneStore
  | [], _ => []
  | l :: ls, mine =>
    let line := lineOf (r.key l)
    let inL1 := keySpace (r.key l) != .control && !s.landsAtLlc r l
    let room := mine.contains line || ((s.core r.core).l1.any fun p => lineOf p.1 == line) || s.pinned r.core line
      || decide ((s.pinnedLines r.core (l1Set line) ++ mine.filter fun m => l1Set m == l1Set line).eraseDups.length < 16)
    if inL1 && !room then { l with direct := true } :: s.placeLanes r ls mine
    else l :: s.placeLanes r ls (if inL1 then line :: mine else mine)

/-- A new record with its lanes marked so. -/
def State.placed (s : State) (r : Landing) : Landing := { r with lanes := s.placeLanes r r.lanes [] }

/-- Issue a store: it is counted, and lands at once or takes a record, for which there must be room (R205, R206,
R208). -/
def Ctx.store (c : Ctx) (s : State) (r0 : Landing) : Except Stop State :=
  let r := s.placed r0
  let s1 := s.onGroup c.age fun g => { g with work := { g.work with seq := g.work.seq + 1 } }
  let s2 := { s1 with nextOp := s1.nextOp + 1 }
  if r.lanes.isEmpty then .ok s
  else if s.landsNow r then .ok (r.lanes.foldl (fun t l => t.applyLane r l) s2)
  else if s.landingRoom c.core c.age then .ok ((s2.startOp c.age .st r.id).enqueue r)
  else .error (.hold .landingRoom)

/-! ## Probes (R207, R210) -/

/-- The L1 lines of a page are landed. -/
def State.markPage (s : State) (core page : Nat) : State :=
  s.onCore core fun c =>
    let lines := ((c.l1.filter fun p => pageOf p.1 == page).map fun p => lineOf p.1).eraseDups
    { c with l1Landed := lines.filter (fun l => !c.l1Landed.contains l) ++ c.l1Landed }

/-- A good answer for a page: its lines in the core are landed, and the lanes that wait for it land in the order of their
records (R207). -/
def State.probeGood (s : State) (core page : Nat) : State :=
  let ids := (s.landing.filter fun r => r.core == core).map (·.id)
  ids.foldl (fun t id => match t.landing.find? fun r => r.id == id with
    | none => t
    | some r => t.confirmLanes id fun l => r.page l == page) (s.markPage core page) |>.markPage core page

/-- A failed answer for a page: the lanes that wait for it fault (R207). -/
def State.probeBad (s : State) (core page detail : Nat) : State :=
  { s with landing := s.landing.map fun r =>
      if r.core == core && r.lanes.any (r.probes page) then
        { r with detail := if r.isFaulted then r.detail else detail,
                 lanes := r.lanes.map fun l =>
                   if r.probes page l then { l with faulted := true } else l }
      else r }

/-- LANDING_PROBE_ANSWER: the probe of a page walks at the unit of the address for which it was sent, and answers (R207). -/
def execLandingProbeAnswer (core ctx : Nat) (page : BitVec 64) (s : State) : Host.Outcome State Fault Refusal :=
  let pg := pageOf (vkey ctx page)
  if !s.probing core pg then .next s
  else match s.translate (s.probeKey core pg) with
    | .ok (_, s1) => .next (s1.probeGood core pg).settleRecords
    | .error d => .next (s.probeBad core pg d).settleFlushes

/-- The page of a record's faulted lanes is probed, at the lowest address of these. -/
def State.probeAgain (s : State) (id page : Nat) : Except Nat (Nat × State) :=
  s.translate (((s.landing.find? fun r => r.id == id).bind fun r => r.lowestOn page (·.faulted)).getD (page * 65536))

/-- The faulted lanes of a record on a page are probed again: on a good answer they land, else the record has the new
detail. -/
def State.replayPage (s : State) (core id page : Nat) : State :=
  match s.probeAgain id page with
  | .ok (_, s1) =>
    let s2 := (s1.markPage core page).onRecord id fun r =>
      { r with lanes := r.lanes.map fun l => if l.faulted && r.page l == page then { l with faulted := false } else l }
    match s2.landing.find? fun r => r.id == id with
    | none => s2
    | some r => (s2.confirmLanes id fun l => r.page l == page).markPage core page
  | .error d => s.onRecord id fun r => { r with detail := d }

/-- Replay a faulted record, page by page; its detail is that of the first page that fails again. -/
def State.replayRecord (s : State) (core id : Nat) : State :=
  match s.landing.find? fun r => r.id == id with
  | none => s
  | some r =>
    let pages := ((r.lanes.filter (·.faulted)).map r.page).eraseDups
    pages.reverse.foldl (fun t page => match t.probeAgain id page with
      | .ok _ => t
      | .error d => t.onRecord id fun r => { r with detail := d })
      (pages.foldl (fun t page => t.replayPage core id page) s)

/-- LANDR (R210): replay the group's faulted records in ascending sequence; s[sd] is how many are still faulted. -/
def execLandr (d : BitVec 6) (s : State) : Host.Outcome State Fault Refusal :=
  run s fun c => do
    c.needTrapMode
    let bad := s.landing.filter fun r => r.age == c.age && r.isFaulted
    need (!bad.any fun r => r.lanes.any fun l => l.faulted && s.underShootdown (r.key l)) (.hold (.underShootdown none 0 .none))
    let s1 := (bad.foldl (fun t r => t.replayRecord c.core r.id) s).settleRecords
    let n := (s1.landing.filter fun r => r.age == c.age && r.isFaulted).length
    .ok (s1.onGroup c.age fun g => c.advance (g.setS d (BitVec.ofNat 64 n)))

/-- LLC_HBM_WRITEBACK (R427): a slice writes a dirty line to HBM; the line stays dirty where its page does not
translate. -/
def execLlcHbmWriteback (ctx : Nat) (line : BitVec 64) (s : State) : Host.Outcome State Fault Refusal :=
  .next (s.llcWriteback (lineOf (vkey ctx line)))

/-- RELEASE_RECALL (R230): a recall of a release entry reaches its core. -/
def execReleaseRecall (core entry : Nat) (s : State) : Host.Outcome State Fault Refusal :=
  if s.mem.marks.any fun p => p.2 == (core, entry) then .next (s.recall core entry) else .next s

/-- RECALL_ANSWER (R230): once the entry is free, the slice clears its marks. -/
def execRecallAnswer (core entry : Nat) (s : State) : Host.Outcome State Fault Refusal :=
  if (relStamp? (s.core core).relEntries entry).isSome || !s.mem.marks.any (fun p => p.2 == (core, entry)) then .next s
  else .next ((s.clearMarks core entry).onCore core fun c => c.count 0x0302 1)

end Sys2Proof.Machine
end

