-- ==== Sys2Proof/Machine/Loads.lean ====
section
/-! DEFINITION. Loads and local atomics in flight: how a lane gets its data, how a load completes, and what a failed walk
does (R185, R200 to R203, R230, R231, R250, R253, R256). -/

namespace Sys2Proof.Machine

/-! ## Atomic operations (R250, Table 10.1) -/

/-- Size in bytes of an operation code, and how many 32-bit registers the operand and the swap value take. -/
def atomicSize (code : Nat) : Nat :=
  if code ∈ [0x01, 0x06, 0x07, 0x08, 0x09, 0x0B, 0x0D, 0x0F, 0x11, 0x13] then 8 else 4

/-- The operation is a compare-and-swap. -/
def isCas (code : Nat) : Bool := code == 0x12 || code == 0x13

/-- Minimum or maximum of two values of n bits, read as signed or not. -/
def pickOf (n : Nat) (signed wantMax : Bool) (a b : Nat) : Nat :=
  let less := decide (intOf n signed b < intOf n signed a)
  if less != wantMax then b else a

/-- BF16 addition of each half, RNE. -/
def addBf16 (old a : Nat) : Nat × Flags :=
  let lo := fadd .bf16 .rne (old % 65536) (a % 65536)
  let hi := fadd .bf16 .rne (old / 65536 % 65536) (a / 65536 % 65536)
  (lo.1 + 65536 * hi.1, lo.2 ||| hi.2)

/-- The new value of an atomic, and its flags. -/
def atomicNew (code old a c : Nat) : Nat × Flags :=
  match code with
  | 0x00 => ((old + a) % 2 ^ 32, 0)
  | 0x01 => ((old + a) % 2 ^ 64, 0)
  | 0x02 => (pickOf 32 true false old a, 0)
  | 0x03 => (pickOf 32 false false old a, 0)
  | 0x04 => (pickOf 32 true true old a, 0)
  | 0x05 => (pickOf 32 false true old a, 0)
  | 0x06 => (pickOf 64 true false old a, 0)
  | 0x07 => (pickOf 64 false false old a, 0)
  | 0x08 => (pickOf 64 true true old a, 0)
  | 0x09 => (pickOf 64 false true old a, 0)
  | 0x0A | 0x0B => (old &&& a, 0)
  | 0x0C | 0x0D => (old ||| a, 0)
  | 0x0E | 0x0F => (old ^^^ a, 0)
  | 0x10 | 0x11 => (a, 0)
  | 0x12 | 0x13 => (if old = a then c else old, 0)
  | 0x14 => fadd .fp32 .rne old a
  | _ => addBf16 old a

/-- The operation writes: a failed compare and a minimum or maximum that returns old write nothing. -/
def atomicWrites (code old a new : Nat) : Bool :=
  if isCas code then old == a else if decide (2 ≤ code) && decide (code ≤ 9) then new != old else true

/-! ## Serving a lane -/

/-- What becomes of a lane that asks for its data: `asks` where its line's home performs it. -/
inductive Serve where
  | data (bytes : List Byte) (fp : Flags) (s : State)
  | fails (detail : Nat)
  | waits
  | asks

/-- An earlier access of the group comes before an access to shared memory (R221, R231). -/
def State.sharedEarlier (s : State) (age id lane : Nat) : Bool :=
  s.pend.any fun p => p.age == age && decide (p.id < id) && match p.kind with
    | .load l => l.kind == 2
        || l.addrs.any fun a => decide (a.2.toNat / 2 ^ 61 = 6) && sameAgent a.1 lane && l.waits a.1
    | _ => false

/-- An acquiring load of the group has not completed (R231). -/
def State.acquiring (s : State) (age : Nat) : Bool :=
  s.pend.any fun p => p.age == age && match p.kind with
    | .load l => l.kind == 2
    | _ => false

/-- Operand and swap value of a lane of an atomic. -/
def Load.operand (l : Load) (lane : Nat) : Nat × Nat :=
  match l.operands.find? fun p => p.1 == lane with
  | some (_, a, c) => (a.toNat, c.toNat)
  | none => (0, 0)

/-- The load is an atomic. -/
def Load.isAtomic (l : Load) : Bool := decide (3 ≤ l.kind)

/-- A lower lane of an atomic on the same bytes has not been performed (R253). -/
def Load.lowerFirst (l : Load) (lane : Nat) (a : Word) : Bool :=
  l.isAtomic && l.addrs.any fun b => decide (b.1 < lane) && b.2 == a && l.waits b.1

/-- Write back a line's landed dirty bytes of a core, and drop its copy (R248, Table 10.2). -/
def State.expel (s : State) (core line : Nat) : State :=
  (s.l1Writeback core fun k _ => lineOf k == line).l1Drop core fun k _ => lineOf k == line

/-- Perform an atomic at the LLC slice or the control cache (R253, R254): the old bytes. -/
def State.atomicAt (s : State) (core vk : Nat) (l : Load) (lane : Nat) : Serve :=
  let s1 := if keySpace vk = .control then s else s.expel core (lineOf vk)
  match s1.llcReads vk l.size with
  | .error d => .fails d
  | .ok (old, s2) =>
    let (a, sw) := l.operand lane
    let (new, fp) := atomicNew l.op (bytesVal old) a sw
    .data old fp (if atomicWrites l.op (bytesVal old) a new then
      s2.llcWrite ((List.range l.size).zip (valBytes l.size new) |>.map fun p => (vk + p.1, p.2)) else s2)

/-- The path of a load (Table 8.6), which allocates where a way of its L1 set is not pinned (R195): an acquire at .pkg or .rack
reads the LLC but for bytes dirty in its own L1 (R231). -/
def State.pathRead (s : State) (core vk : Nat) (l : Load) (lane : Nat) : Except Nat (List Byte × State) :=
  match keySpace vk with
  | .control => s.llcReads vk l.size
  | .tensor =>
    if l.kind = 2 ∧ 4 ≤ l.scope then
      match s.llcReads vk l.size with
      | .error d => .error d
      | .ok (bytes, s') => .ok (((List.range l.size).zip bytes).map fun p =>
          match Map.find? (s.core core).l1 (vk + p.1) with
          | some b => if b.dirty then b.val else p.2
          | none => p.2, s')
    else s.l1Load core vk (l.nc.contains lane) (!l.stream && s.mayAllocate core (lineOf vk)) l.size
  | _ => s.l1Load core vk false (!l.stream && s.mayAllocate core (lineOf vk)) l.size

/-- Every byte is valid in the core's L1, so that the access does not reach the LLC (R230, R248). -/
def State.l1Hit (s : State) (core vk : Nat) (l : Load) : Bool :=
  !l.isAtomic && !(l.kind == 2 && decide (4 ≤ l.scope)) && keySpace vk != .control
    && (keyRun vk l.size).all fun k => (Map.find? (s.core core).l1 k).isSome

/-- Ask for the data of a lane of a load or atomic. -/
def State.serveLane (s : State) (g : Group) (id : Nat) (l : Load) (lane : Nat) (a : Word) : Serve :=
  if a.toNat / 2 ^ 61 = 6 then
    match s.wgOf g with
    | none => .waits
    | some w =>
      let off := a.toNat % 2 ^ 20
      if s.sharedEarlier g.id.age id lane || l.lowerFirst lane a then .waits
      else
        let old := w.sharedBytes off l.size
        if l.isAtomic then
          let (x, sw) := l.operand lane
          let (new, fp) := atomicNew l.op (bytesVal old) x sw
          .data old fp (if atomicWrites l.op (bytesVal old) x new then s.sharedWrite w.id off (valBytes l.size new) else s)
        else .data old 0#4 s
  else
    let vk := vkey g.id.ctx a
    if s.othersPending g.id.age id vk l.size || s.ownEarlier g.id.age id lane vk l.size || l.lowerFirst lane a then .waits
    else if !s.l1Hit g.id.core vk l && (s.markHolds g.id.core (lineOf vk) || s.wherryOwns id (lineOf vk)) then .waits
    else if l.isAtomic && s.asksHome vk then
      if s.asking (.lane id lane) || s.controlStalled (vk % 2 ^ 48) then .waits else .asks
    else if l.isAtomic then s.atomicAt g.id.core vk l lane
    else
      let own := (keyRun vk l.size).map fun k => s.ownByte g.id.age l.before k
      if own.all (·.isSome) then .data (own.filterMap fun b => b) 0#4 s
      else match s.pathRead g.id.core vk l lane with
        | .error d => .fails d
        | .ok (bytes, s') => .data ((own.zip bytes).map fun p => p.1.getD p.2) 0#4 s'

/-! ## Completion (R185, R231) -/

/-- Carry out an acquire at a scope on a core's L1 (R231, Table 1.5). -/
def State.acquire (s : State) (core scope : Nat) : State :=
  if 4 ≤ scope then s.l1Drop core fun k b => keySpace k == .tensor && (!b.nc || !b.dirty)
  else if scope = 3 then s.l1Drop core fun k b => keySpace k == .tensor && !b.nc
  else s

/-- The cells that a load writes: the bytes of each lane, extended, in the registers of its run. -/
def Load.cells (l : Load) : List (Nat × Lane) :=
  l.staged.flatMap fun p =>
    let v := bytesVal p.2
    let low := if l.signed then BitVec.ofInt 32 (intOf (8 * l.size) true v) else BitVec.ofNat 32 v
    (List.range (max 1 (l.size / 4))).map fun j =>
      (32 * (l.reg + j) + p.1, if j = 0 then low else BitVec.ofNat 32 (v / 2 ^ (32 * j)))

/-- Replace what is pending of an instruction in flight. -/
def State.onPend (s : State) (id : Nat) (k : PendKind) : State :=
  { s with pend := s.pend.map fun p => if p.id == id then { p with kind := k } else p }

/-- Nothing of an operation is parked any more. -/
def State.unpark (s : State) (op : Nat) : State :=
  { s with parks := s.parks.filter fun p => match p.what with
      | .load o | .resent o => o != op
      | _ => true }

/-- The address of the lowest lane of a mask. -/
def Load.lowest (l : Load) (m : Lane) : Word :=
  ((l.addrs.find? fun a => a.1 == 32 || m.getLsbD a.1).map (·.2)).getD 0

/-- A lane of a load is held as failed by SYNONYM. -/
def Load.isSynonym (l : Load) (lane : Nat) : Bool := if lane = 32 then l.synonym != 0 else l.synonym.getLsbD lane

/-- A lane of a load is parked. -/
def Load.isParked (l : Load) (lane : Nat) : Bool := if lane = 32 then l.parked != 0 else l.parked.getLsbD lane

/-- The flags that the performed lanes of an instruction in flight raised. -/
def Pend.flags (p : Pend) : BitVec 4 :=
  match p.kind with
  | .load l => l.fp
  | _ => 0

/-- The load counts as complete without its data; its trap comes where the group stops (R202, R203).  The flags of the
lanes of an atomic that were performed go to FPSTAT, as at its completion (R68, R250; for ATOM log 87). -/
def State.declineLoad (s : State) (p : Pend) (token : Nat) (t : Trap) : State :=
  let s1 := if p.flags = 0 then s else s.onGroup p.age fun g => g.orFp p.flags
  ((s1.landPend p).unpark p.id).decline p.age token t p.entry 0 p.trapBank

/-- A load that has all its data writes its results; one whose unfinished lanes all met SYNONYM takes it where the group
stops (R185, R202, R203). -/
def State.settleLoad (s : State) (p : Pend) (l : Load) : State :=
  let left := l.addrs.filter fun a => l.waits a.1
  if left.isEmpty then
    let s1 := match l.kind with
      | 1 => s.writeBack p [] (l.staged.map fun (q : Nat × List Byte) => (l.reg, BitVec.ofNat 64 (bytesVal q.2))) 0#4
      | 4 => s.writeBack p [] [] l.fp
      | _ => s.writeBack p l.cells [] l.fp
    let s2 := if l.kind = 2 then match Map.find? s1.groups p.age with
      | some g => s1.acquire g.id.core l.scope
      | none => s1 else s1
    (s2.unpark p.id).deliverDeclined p.age
  else if left.all fun a => l.isSynonym a.1 then
    s.declineLoad { p with kind := .load l } s.tokens { cause := .synonym, pc := p.pc, addr := l.lowest l.synonym }
  else s.onPend p.id (.load l)

/-- A lane of an atomic asks the home of its line. -/
def State.askLane (s : State) (id : Nat) (l : Load) (lane : Nat) (a : Word) : State :=
  let (x, sw) := l.operand lane
  s.askHome (offset48 a) (.atomic l.op (BitVec.ofNat 64 x) (BitVec.ofNat 64 sw)) (.lane id lane)

/-- Serve the lanes of a load that a test selects, in ascending order, and stage what arrives. -/
def State.serveLanes (s : State) (p : Pend) (l : Load) (sel : Nat × Word → Bool) : Load × State :=
  match Map.find? s.groups p.age with
  | none => (l, s)
  | some g => l.addrs.foldl (fun acc a =>
      let (l, t) := acc
      if !sel a || !l.waits a.1 || l.isParked a.1 || l.isSynonym a.1 then acc
      else match t.serveLane g p.id l a.1 a.2 with
        | .data bytes fp t' => ({ l with staged := l.staged ++ [(a.1, bytes)], fp := l.fp ||| fp }, t')
        | .asks => (l, t.askLane p.id l a.1 a.2)
        | _ => acc) (l, s)

/-- The lanes of a load or atomic that a test selects and that need not wait get their data; with every lane's data the
load completes. -/
def State.arriveLanes (s : State) (op : Nat) (sel : Nat × Word → Bool) : State :=
  match s.pend.find? fun p => p.id == op with
  | none => s
  | some p => match p.kind with
    | .load l =>
      let (l1, s1) := s.serveLanes p l sel
      s1.settleLoad p l1
    | _ => s

/-- Every lane of a load or atomic that need not wait gets its data. -/
def State.arriveLoad (s : State) (op : Nat) : State := s.arriveLanes op fun _ => true

/-- LOAD_DATA_ARRIVE (R185). -/
def execLoadDataArrive (op : Nat) (s : State) : Host.Outcome State Fault Refusal := .next (s.arriveLoad op)

/-! ## Failed walks (R200, R203, R410) -/

/-- The lanes of a load that fail, with their details. -/
def State.failing (s : State) (g : Group) (p : Pend) (l : Load) : List (Nat × Nat) :=
  l.addrs.filterMap fun a =>
    if !l.waits a.1 || l.isParked a.1 || l.isSynonym a.1 then none
    else match s.serveLane g p.id l a.1 a.2 with
      | .fails d => some (a.1, d)
      | _ => none

/-- The mask of some lanes; a scalar access is bit 0. -/
def lanesMask (ls : List Nat) : Lane := maskOf (ls.map fun l => l % 32)

/-- A load parks for lanes whose walk failed: its record, and with FQSIZE = 0 its Decline (R200, R201).  DESIGN CHOICE (log
89): where further lanes of a parked load fail, one new record for all its failed lanes takes the place of the earlier, whose
token becomes stale. -/
def State.parkLoad (s : State) (g : Group) (p : Pend) (l : Load) (detail : Nat) : State :=
  let scalar := l.addrs.any fun a => a.1 == 32
  let lanes : Lane := if scalar then 0 else l.parked
  let a := l.lowest l.parked
  let park : Park := { token := s.tokens, age := p.age, kind := 1, detail := detail, pc := p.pc, addr := a, lanes := lanes,
                       what := .load p.id }
  let s1 := ((s.onPend p.id (.load l)).unpark p.id).stopIssue p.age
  let s2 := s1.raiseRecord 1 detail g.id.ctx g.id.core g.id.slot p.pc a lanes 0
  if s.fqLog = 0 then s2.declineLoad { p with kind := .load l } s.tokens park.declineTrap else { s2 with parks := s2.parks ++ [park] }

/-- Lanes of a load fail with their details: failed walks park the group, lanes that meet SYNONYM are held as failed. -/
def State.failLanes (s : State) (g : Group) (p : Pend) (l : Load) (bad : List (Nat × Nat)) : State :=
  let syn := bad.filter fun f => f.2 == 5
  let walk := bad.filter fun f => f.2 != 5
  let l1 := { l with synonym := l.synonym ||| lanesMask (syn.map (·.1)),
                     parked := l.parked ||| lanesMask (walk.map (·.1)) }
  match walk with
  | [] => if syn.isEmpty then s else s.settleLoad p l1
  | f :: _ => s.parkLoad g p { l1 with detail := f.2 } f.2

/-- LOAD_FAULT_PARK (R200, R203): lanes whose walk fails park the group; lanes that meet SYNONYM are held as failed. -/
def execLoadFaultPark (op : Nat) (s : State) : Host.Outcome State Fault Refusal :=
  match s.pend.find? fun p => p.id == op with
  | none => .next s
  | some p => match p.kind, Map.find? s.groups p.age with
    | .load l, some g => .next (s.failLanes g p l (s.failing g p l))
    | _, _ => .next s

/-- The home of its line has performed a lane of an atomic: the old bytes. -/
def State.laneAnswered (s : State) (op lane : Nat) (bytes : List Byte) : State :=
  match s.pend.find? fun p => p.id == op with
  | none => s
  | some p => match p.kind with
    | .load l =>
      let (x, sw) := l.operand lane
      let fp := (atomicNew l.op (bytesVal bytes) x sw).2
      if l.waits lane then s.settleLoad p { l with staged := l.staged ++ [(lane, bytes)], fp := l.fp ||| fp } else s
    | _ => s

/-- The home of its line refuses a lane of an atomic. -/
def State.laneRefused (s : State) (op lane detail : Nat) : State :=
  match s.pend.find? fun p => p.id == op with
  | none => s
  | some p => match p.kind, Map.find? s.groups p.age with
    | .load l, some g => if l.waits lane then s.failLanes g p l [(lane, detail)] else s
    | _, _ => s

/-- Put a load or atomic in flight; its lanes get their data one by one or together, later (R85, R185, R221). -/
def Ctx.startLoad (c : Ctx) (s : State) (flag : Option Nat) (path : Path) (l : Load) : State :=
  c.launch (c.finish s id) flag (some path) (.load l)

end Sys2Proof.Machine
end

