-- ==== Sys2Proof/Machine/Control.lean ====
section
/-! DEFINITION. Clause headers, branches, calls, rejoin masks and pauses: majors 0x00 and 0x04 to 0x06 but for EXIT (R31 to
R38, R91, R102 to R113, R115, R116). -/

namespace Sys2Proof.Machine

/-! ## Clause headers (R36 to R38) -/

/-- A clause header: deferred traps that its WAIT surfaces, then the wait, then the clause starts.  It uses no issue
slot. -/
def execClauseHeader (_g _e : Bool) (_m : BitVec 3) (_b _a : BitVec 4) (w : BitVec 12) (s : State) :
    Host.Outcome State Fault Refusal :=
  run s fun c => do
    c.checkHeader w
    if s.headerClear c.g c.age c.word then
      .ok (s.onGroup c.age fun g => g.onFrag c.entry fun f =>
        { f with header := some (BitVec.ofNat 32 c.word), clauseStart := c.npc, needHeader := false, pc := c.npc })
    else .ok (s.onGroup c.age fun g => g.onFrag c.entry fun f => { f with wait := .clause, hold := .flags c.word })

/-- CLAUSE_WAIT_SATISFIED (R38): the flags that a waiting header names are clear. -/
def execClauseWaitSatisfied (age entry : Nat) (s : State) : Host.Outcome State Fault Refusal :=
  match Map.find? s.groups age with
  | none => .next s
  | some g => match g.frag? entry with
    | none => .next s
    | some f =>
      let clear := match s.fetch g f.pc with
        | .ok (_, w, _) => s.headerClear g age w
        | .error (.trap _) => true
        | .error .wait => false
      if f.wait == .clause && clear then
        .next (s.onGroup age fun g => g.onFrag entry fun f => { f with wait := .ready, hold := .none })
      else .next s

/-! ## Branches (R102 to R104) -/

/-- The fragment goes to a target or to the next halfword, whole. -/
def branchIf (s : State) (o : BitVec 21) (taken : Ctx → Bool) : Host.Outcome State Fault Refusal :=
  run s fun c => .ok (if taken c then c.put s (c.jump c.g (c.target o)) else c.done s c.g)

/-- BRA. -/
def execBra (o : BitVec 21) (s : State) : Host.Outcome State Fault Refusal := branchIf s o fun _ => true

/-- BC.t. -/
def execBcT (o : BitVec 21) (k : BitVec 2) (s : State) : Host.Outcome State Fault Refusal := branchIf s o fun c => c.g.c k

/-- BC.f. -/
def execBcF (o : BitVec 21) (k : BitVec 2) (s : State) : Host.Outcome State Fault Refusal := branchIf s o fun c => !c.g.c k

/-- BVOTE.any. -/
def execBvoteAny (o : BitVec 21) (m : BitVec 2) (s : State) : Host.Outcome State Fault Refusal :=
  branchIf s o fun c => c.f.lanes &&& c.g.m m.toNat != 0

/-- BVOTE.all. -/
def execBvoteAll (o : BitVec 21) (m : BitVec 2) (s : State) : Host.Outcome State Fault Refusal :=
  branchIf s o fun c => c.f.lanes &&& ~~~(c.g.m m.toNat) == 0

/-- BVOTE.none. -/
def execBvoteNone (o : BitVec 21) (m : BitVec 2) (s : State) : Host.Outcome State Fault Refusal :=
  branchIf s o fun c => c.f.lanes &&& c.g.m m.toNat == 0

/-- Put a new fragment with the header in force into the group's bank, if an entry is to be had (R91, R104); in trap mode
to need a ninth is a fault in trap mode (R370).  It issues no earlier than so many cycles from now (R96).  Without room the fragment is
held until all the `count` entries that its instruction needs are to be had. -/
def Ctx.split (c : Ctx) (s : State) (g : Group) (count wait : Nat) (pc : Word) (lanes : Lane) : Except Stop Group :=
  if s.splitRoom g then
    .ok (g.setBank (insertFrag g.bank (newFrag c.f (s.newEntry g) c.clock (c.now + wait) pc lanes true)))
  else if g.flow.trapMode then .error c.illegal
  else .error (.hold (.entries count))

/-- BDIV: lanes whose bit is set go to the target; both sets non-empty, the fragment splits. -/
def execBdiv (o : BitVec 21) (m : BitVec 2) (s : State) : Host.Outcome State Fault Refusal :=
  run s fun c => do
    let t := c.f.lanes &&& c.g.m m.toNat
    let n := c.f.lanes &&& ~~~(c.g.m m.toNat)
    if n = 0 then .ok (c.put s (c.jump c.g (c.target o)))
    else if t = 0 then .ok (c.done s c.g)
    else
      let g1 := (c.advance c.g).onFrag c.entry fun f => { f with lanes := n }
      let g2 ← c.split s g1 1 3 (c.target o) t
      .ok (c.put s { g2 with work := { g2.work with divergent := g2.work.divergent + 1 } })

/-! ## The return stack (R106 to R108)

The first entry of the list is the top of the stack. -/

/-- Bytes of a spilled return entry (R107). -/
def RetEntry.bytes (e : RetEntry) : List Byte := valBytes 8 e.addr.toNat ++ valBytes 4 e.lanes.toNat ++ valBytes 4 0

/-- The checks of an access to the spill area, which lies in private space: PRIVHWM, a shootdown, and its walk (R107,
R204, R216). -/
def Ctx.spillAccess (c : Ctx) (s : State) (a : Word) : Except Stop State :=
  let vk := vkey c.ctx a
  if c.beyondHwm { lane := 32, addr := a, size := 16 } then .error (.park 2 4 0 a)
  else if s.underShootdown vk then .error (.hold (.underShootdown none 0 .none))
  else if (keyRun vk 16).all fun k => (Map.find? (s.core c.core).l1 k).isSome then .ok s
  else match s.llcPresent vk with
    | .ok s1 => .ok s1
    | .error 5 => .error (c.pcTrap .synonym a)
    | .error d => .error (.park 1 d 0 a)

/-- The spill area's address checks: RSBASE a multiple of 16 in private space.  R107 lists them for a CALL that spills;
DESIGN CHOICE (log 85): a RET that refills makes the same two, MISALIGN first. -/
def Ctx.spillBase (c : Ctx) : Except Stop Unit := do
  need (decide (c.g.sys.rsBase.toNat % 16 = 0)) (addrTrap .misalign 32 c.g.sys.rsBase)
  need (space? c.g.sys.rsBase == some .priv) (addrTrap .space 32 c.g.sys.rsBase)

/-- Address of entry n of the spill area. -/
def Ctx.spillAddr (c : Ctx) (n : Nat) : Word := c.g.sys.rsBase + BitVec.ofNat 64 (16 * n)

/-- Push a return entry; with 16 entries the bottom one is spilled first (R106, R107). -/
def Ctx.push (c : Ctx) (s : State) : Except Stop (Group × State) := do
  let e : RetEntry := { addr := c.npc, lanes := c.f.lanes }
  match c.g.flow.ret[15]? with
  | none => .ok ({ c.g with flow := { c.g.flow with ret := e :: c.g.flow.ret } }, s)
  | some bottom =>
    need (decide (c.g.sys.rsDepth < 256)) (c.pcTrap .privLimit (c.g.sys.rsBase + 4096))
    need (decide (c.g.sys.rsBase ≠ 0)) (c.pcTrap .privLimit 0)
    c.spillBase
    let a := c.spillAddr c.g.sys.rsDepth
    let s1 ← c.spillAccess s a
    let vk := vkey c.ctx a
    let bytes := (List.range 16).zip bottom.bytes |>.map fun p => (vk + p.1, p.2)
    let s2 := s1.eraseOlder c.age s1.nextOp vk 16
    let s3 := if s2.mayAllocate c.core (lineOf vk) then s2.l1Write c.core false bytes
      else (s2.l1Update c.core bytes).llcWrite bytes
    .ok ({ c.g with flow := { c.g.flow with ret := e :: c.g.flow.ret.dropLast },
                    sys := { c.g.sys with rsDepth := c.g.sys.rsDepth + 1 } }, s3)

/-- CALL: push, and go to the target. -/
def Ctx.callTo (c : Ctx) (s : State) (target : Word) : Except Stop State := do
  let (g, s1) ← c.push s
  .ok (c.put s1 (c.jump g target))

/-- CALL label. -/
def execCall (o : BitVec 18) (s : State) : Host.Outcome State Fault Refusal := run s fun c => c.callTo s (c.target o)

/-- A target from a register is a halfword address (R32). -/
def checkTarget (lane : Nat) (a : Word) : Except Stop Unit := need (!a.getLsbD 0) (addrTrap .misalign lane a)

/-- CALL.r. -/
def execCallR (a : BitVec 6) (s : State) : Host.Outcome State Fault Refusal :=
  run s fun c => do
    checkTarget 32 (c.g.s a)
    c.callTo s (c.g.s a)

/-- JMPI. -/
def execJmpi (a : BitVec 6) (s : State) : Host.Outcome State Fault Refusal :=
  run s fun c => do
    checkTarget 32 (c.g.s a)
    .ok (c.put s (c.jump c.g (c.g.s a)))

/-- Refill entries from the spill area until every lane has an entry on chip: the stack, RSDEPTH and the state.  An area
that is misaligned or outside private space traps (log 85). -/
def Ctx.refill (c : Ctx) : Nat → List RetEntry → Nat → State → Except Stop (List RetEntry × Nat × State)
  | 0, st, depth, s => .ok (st, depth, s)
  | fuel + 1, st, depth, s => do
    let covered := st.foldl (fun m (e : RetEntry) => m ||| e.lanes) 0
    if c.f.lanes &&& ~~~covered = 0 ∨ depth = 0 ∨ 16 ≤ st.length then .ok (st, depth, s)
    else
      c.spillBase
      let a := c.spillAddr (depth - 1)
      let s1 ← c.spillAccess s a
      let vk := vkey c.ctx a
      match s1.l1Load c.core vk false (s1.mayAllocate c.core (lineOf vk)) 16 with
      | .error d => .error (.park 1 d 0 a)
      | .ok (bytes, s2) =>
        let own := ((keyRun vk 16).zip bytes).map fun p => (s2.ownByte c.age c.g.work.seq p.1).getD p.2
        let e : RetEntry := { addr := BitVec.ofNat 64 (bytesVal (own.take 8)),
                              lanes := BitVec.ofNat 32 (bytesVal ((own.drop 8).take 4)) &&& c.g.flow.live }
        c.refill fuel (if e.lanes = 0 then st else st ++ [e]) (depth - 1) s2

/-- The address of a lane's topmost entry. -/
def returnAddr : List RetEntry → Nat → Option Word
  | [], _ => none
  | e :: st, l => if e.lanes.getLsbD l then some e.addr else returnAddr st l

/-- Remove the lanes of a mask, each from its topmost entry; entries left empty go. -/
def popLanes : List RetEntry → Lane → List RetEntry
  | [], _ => []
  | e :: st, m =>
    let rest := popLanes st (m &&& ~~~e.lanes)
    let left := e.lanes &&& ~~~m
    if left = 0 then rest else { e with lanes := left } :: rest

/-- Insert into an ascending list of addresses, once each. -/
def insertAddr : List Word → Word → List Word
  | [], a => [a]
  | b :: l, a => if a = b then b :: l else if BitVec.ult a b then a :: b :: l else b :: insertAddr l a

/-- RET (R108). -/
def execRet (s : State) : Host.Outcome State Fault Refusal :=
  run s fun c => do
    let (st, depth, s1) ← c.refill 512 c.g.flow.ret c.g.sys.rsDepth s
    let ls := lanesOf c.f.lanes
    need (ls.all fun l => (returnAddr st l).isSome) c.illegal
    let addr := fun (l : Nat) => (returnAddr st l).getD 0
    match ls.find? fun l => (addr l).getLsbD 0 with
    | some l => checkTarget l (addr l)
    | none => .ok ()
    let g0 := { c.g with flow := { c.g.flow with ret := popLanes st c.f.lanes }, sys := { c.g.sys with rsDepth := depth } }
    let lanesTo := fun (a : Word) => maskOf (ls.filter fun l => addr l == a)
    match ls.foldl (fun as l => insertAddr as (addr l)) [] with
    | [] => .ok (c.done s1 g0)
    | a :: more =>
      let g1 := (c.jump g0 a).onFrag c.entry fun f => { f with lanes := lanesTo a }
      let g2 ← more.foldlM (fun g b => c.split s1 g more.length 3 b (lanesTo b)) g1
      .ok (c.put s1 g2)

/-! ## Rejoin masks (R109 to R112) -/

/-- The fragment is parked at mask j. -/
def Frag.parkedAt (f : Frag) (j : Nat) : Bool := f.wait == .parked && f.rejoin == j

/-- The fragments of a bank that are parked at mask j with the resume address of `f`. -/
def parkedWith (fs : List Frag) (j : Nat) (f : Frag) : List Frag := fs.filter fun h => h.parkedAt j && h.pc == f.pc

/-- What a release of mask j makes of a fragment that is parked there: ready, from cycle `at_` on (R96), with the lanes of all that are
fused into it and, if there are others, an ageing counter of 0.  It keeps its own place in the issue order (DESIGN CHOICE, log 86). -/
def fused (fs : List Frag) (j at_ : Nat) (f : Frag) : Frag :=
  let same := parkedWith fs j f
  { f with wait := .ready, rejoin := 0, readyAt := at_, lanes := same.foldl (fun m h => m ||| h.lanes) f.lanes,
           age := if same.length ≤ 1 then f.age else 0 }

/-- Release the fragments parked at mask j: those with one resume address are fused into the one in the lowest entry (R111). -/
def releaseFrags (j at_ : Nat) (fs : List Frag) : List Frag :=
  fs.filterMap fun f =>
    if !f.parkedAt j then some f
    else if (parkedWith fs j f).all fun h => decide (f.entry ≤ h.entry) then some (fused fs j at_ f) else none

/-- release(j), by an instruction that issues at cycle `now`. -/
def Group.release (g : Group) (now j : Nat) : Group := (g.setBank (releaseFrags j (now + 3) g.bank)).setRejoin j 0 0

/-- Release mask j if every enrolled lane has arrived. -/
def Group.releaseIf (g : Group) (now j : Nat) : Group :=
  if g.rejoinA j = g.rejoinE j ∧ g.rejoinA j ≠ 0 then g.release now j else g

/-- JOIN j. -/
def execJoin (j : BitVec 3) (s : State) : Host.Outcome State Fault Refusal :=
  run s fun c => .ok (c.done s (c.g.setRejoin j.toNat (c.g.rejoinE j.toNat ||| c.f.lanes) (c.g.rejoinA j.toNat)))

/-- PARK j (R111): the enrolled lanes wait at the next halfword and keep the fragment's entry (DESIGN CHOICE, log 66); the
others go on. -/
def execPark (j : BitVec 3) (s : State) : Host.Outcome State Fault Refusal :=
  run s fun c => do
    let n := j.toNat
    let p := c.f.lanes &&& c.g.rejoinE n
    let on := c.f.lanes &&& ~~~(c.g.rejoinE n)
    let g1 := (c.advance c.g).onFrag c.entry fun f => { f with needHeader := true }
    if p = 0 then .ok (c.put s g1)
    else
      let g2 := (g1.onFrag c.entry fun f => { f with lanes := p, wait := .parked, rejoin := n }).setRejoin n
        (c.g.rejoinE n) (c.g.rejoinA n ||| p)
      let g3 ← if on = 0 then .ok g2 else c.split s g2 1 1 c.npc on
      .ok (c.put s (g3.releaseIf c.now n))

/-- STRIKE j. -/
def execStrike (j : BitVec 3) (s : State) : Host.Outcome State Fault Refusal :=
  run s fun c =>
    let n := j.toNat
    .ok (c.put s (((c.advance c.g).setRejoin n (c.g.rejoinE n &&& ~~~c.f.lanes) (c.g.rejoinA n &&& ~~~c.f.lanes)).releaseIf c.now n))

/-- REGANG: every other ready fragment at this address is fused into the issuing one. -/
def execRegang (s : State) : Host.Outcome State Fault Refusal :=
  run s fun c =>
    let joins := fun (f : Frag) => f.entry != c.entry && f.wait == .ready && f.pc == c.pc
    let lanes := (c.g.bank.filter joins).foldl (fun m f => m ||| f.lanes) c.f.lanes
    let g1 := c.advance (c.g.setBank (c.g.bank.filter fun f => !joins f))
    .ok (c.put s (g1.onFrag c.entry fun f => { f with lanes := lanes, needHeader := true }))

/-! ## NOP and YIELD (R105, R115) -/

/-- NOP. -/
def execNop (s : State) : Host.Outcome State Fault Refusal := run s fun c => .ok (c.done s c.g)

/-- YIELD: not ready for the next 32 cycles. -/
def execYield (s : State) : Host.Outcome State Fault Refusal :=
  run s fun c => .ok (c.put s ((c.advance c.g).onFrag c.entry fun f =>
    { f with wait := .paused, pausedUntil := s.cycleOf c.core + 33 }))

/-- YIELD_PAUSE_END. -/
def execYieldPauseEnd (age entry : Nat) (s : State) : Host.Outcome State Fault Refusal :=
  match Map.find? s.groups age with
  | none => .next s
  | some g =>
    let now := s.cycleOf g.id.core
    let ends := fun (f : Frag) =>
      if f.entry == entry && f.wait == .paused && decide (f.pausedUntil ≤ now) then { f with wait := .ready } else f
    .next (s.onGroup age fun g => { g with flow := { g.flow with frags := g.flow.frags.map ends,
                                                                 trapFrags := g.flow.trapFrags.map ends } })

end Sys2Proof.Machine
end

