-- ==== Sys2Proof/Machine/Ordering.lean ====
section
/-! DEFINITION. Fences, barriers, barrier objects, watches and counter waits: majors 0x2C to 0x2F (R229 to R235, R238 to
R247, R350). -/

namespace Sys2Proof.Machine

/-! ## Releases and fences (R229, R231 to R235, R238) -/

/-- A release waits until every earlier access of the group is complete and every earlier store has landed. -/
def Ctx.waitRelease (c : Ctx) (s : State) : Except Stop Unit :=
  need (!s.accessesBefore c.g c.age (c.opLimit s)) (.hold (.release (c.opLimit s)))

/-- An ordering point that is a release: the ordering point, a disturbance of the gang where the instruction is one, and
the wait. -/
def Ctx.releasePoint (c : Ctx) (s : State) (disturbs : Bool) : Except Stop Unit := do
  c.orderingPoint s
  if disturbs then c.checkDisturb s else .ok ()
  c.waitRelease s

/-- The group has issued a release: its later stores are not marked with an earlier fence's entry (R229). -/
def Group.clearMark (g : Group) : Group := { g with work := { g.work with markEntry := none } }

/-- Write back every landed NC dirty byte of a core (R232, R235). -/
def State.flushNc (s : State) (core : Nat) : State := s.l1Writeback core isNcByte

/-- The eager release of R232, steps 2 and 3, by a group: write back, and free the core's release entries. -/
def State.eagerRelease (s : State) (core age : Nat) : State :=
  ((s.flushNc core).onCore core fun c => { c with relEntries := [] }).onGroup age Group.clearMark

/-- FENCE.acq: later accesses come after the loads before it. -/
def execFenceAcq (src : BitVec 3) (s : State) : Host.Outcome State Fault Refusal :=
  run s fun c => do
    c.checkDeferred s
    need (!s.loadsBefore c.age (c.opLimit s)) (.hold (.loads (c.opLimit s)))
    .ok (c.finish (s.acquire c.core src.toNat) id)

/-- FENCE.rel: at .pkg and .rack it records a release entry, with which later tensor stores are marked until the group's next
release. -/
def execFenceRel (src : BitVec 3) (s : State) : Host.Outcome State Fault Refusal :=
  run s fun c => do
    c.releasePoint s false
    if 4 ≤ src.toNat then
      let (e, s1) := s.recordEntry c.core
      .ok (c.finish s1 fun g => { g with work := { g.work with markEntry := some e } })
    else .ok (c.finish s Group.clearMark)

/-- A store of the group has not been applied at the home of its line (R232). -/
def State.homeStores (s : State) (age : Nat) : Bool :=
  s.fabric.asks.any fun a => match a.who with
    | .store r _ => s.landing.any fun q => q.id == r && q.age == age
    | _ => false

/-- FENCE.full: eager at .pkg and .rack; at .rack it waits until the home of each earlier control-space store has applied it, as
the release does, since such a store has not landed before (R232, step 5). -/
def execFenceFull (src : BitVec 3) (s : State) : Host.Outcome State Fault Refusal :=
  run s fun c => do
    c.releasePoint s false
    need (decide (src.toNat < 5) || !s.homeStores c.age) (.hold (.release (c.opLimit s)))
    let s1 := if 4 ≤ src.toNat then s.eagerRelease c.core c.age else s
    .ok (c.finish (s1.acquire c.core src.toNat) Group.clearMark)

/-- TCFENCE: the group's later control-space stores come after its earlier stores, engine commands and remote atomics. -/
def execTcfence (s : State) : Host.Outcome State Fault Refusal :=
  run s fun c => do
    c.orderingPoint s
    .ok (c.finish (s.flushNc c.core) fun g => { g with work := { g.work with tcFence := s.nextOp, markEntry := none } })

/-! ## Barriers (R239 to R241) -/

/-- The barrier that a field selects: 16 for the workgroup's, else a cohort's that lists the group. -/
def Ctx.barrierOf (c : Ctx) (w : Workgroup) (sa : BitVec 6) : Except Stop Nat := do
  let i := sa.toNat
  if i = 32 then .ok 16
  else
    need (decide (i < 16) && cohortDefined (w.cohort i) && hasGroup (cohortMembers (w.cohort i)) c.g.id.num) c.illegal
    .ok i

/-- Change a barrier. -/
def Workgroup.onBarrier (w : Workgroup) (bar : Nat) (f : Barrier → Barrier) : Workgroup :=
  { w with barriers := Map.insert w.barriers bar (f (w.barrier bar)) }

/-- The phase completes once every member group has arrived or wholly exited. -/
def Workgroup.completeBarrier (w : Workgroup) (bar : Nat) : Workgroup :=
  let b := w.barrier bar
  if w.barrierMembers bar &&& ~~~(b.arrived ||| w.exited) = 0 ∧ b.arrived ≠ 0 then
    w.onBarrier bar fun b => { b with phase := b.phase + 1, lanes := [], arrived := 0 }
  else w

/-- Lanes of a group are counted at a barrier; the group arrives once every lane that has not exited is. -/
def Workgroup.arrive (w : Workgroup) (bar num : Nat) (lanes live : Lane) : Workgroup :=
  let b := w.barrier bar
  let counted := Map.get 0 b.lanes num ||| lanes
  let w1 := w.onBarrier bar fun b => { b with lanes := Map.set 0 b.lanes num counted }
  if live &&& ~~~counted = 0 then
    (w1.onBarrier bar fun b => { b with arrived := b.arrived ||| laneBit num, last := Map.set 0 b.last num (b.phase + 1) })
      |>.completeBarrier bar
  else w1

/-- Hold a fragment, past its instruction, until a phase of a barrier completes. -/
def Ctx.awaitPhase (c : Ctx) (s : State) (bar phase : Nat) : State :=
  let s1 := c.finish s id
  match s1.wgOf c.g with
  | none => s1
  | some w =>
    if (w.barrier bar).phase = phase then
      s1.onGroup c.age fun g => g.onFrag c.entry fun f => { f with wait := .held, hold := .barrier bar phase }
    else s1

/-- BAR and BARA up to the arrival: the barrier, its phase, and the state after it.  DESIGN CHOICE (log 126): a fragment of whose lanes
some are counted in the phase and some are not goes on, and those that were not are counted now; it is held only where all are. -/
def Ctx.arriveAt (c : Ctx) (s : State) (sa : BitVec 6) : Except Stop (Nat × Nat × State) := do
  match s.wgOf c.g with
  | none => .error c.illegal
  | some w =>
    let bar ← c.barrierOf w sa
    c.releasePoint s true
    let b := w.barrier bar
    need (c.f.lanes &&& ~~~(Map.get 0 b.lanes c.g.id.num) != 0) (.hold (.barrierAgain bar b.phase))
    .ok (bar, b.phase, (s.onWg w.id fun w => w.arrive bar c.g.id.num c.f.lanes c.g.flow.live).onGroup c.age Group.clearMark)

/-- BAR. -/
def execBar (src : BitVec 6) (s : State) : Host.Outcome State Fault Refusal :=
  run s fun c => do
    let (bar, phase, s1) ← c.arriveAt s src
    .ok (c.awaitPhase s1 bar phase)

/-- BARA. -/
def execBara (src : BitVec 6) (s : State) : Host.Outcome State Fault Refusal :=
  run s fun c => do
    let (_, _, s1) ← c.arriveAt s src
    .ok (c.finish s1 id)

/-- BARW: holds until the phase of the group's last arrival has completed. -/
def execBarw (src : BitVec 6) (s : State) : Host.Outcome State Fault Refusal :=
  run s fun c => do
    match s.wgOf c.g with
    | none => .error c.illegal
    | some w =>
      let bar ← c.barrierOf w src
      c.checkDisturb s
      match Map.get 0 (w.barrier bar).last c.g.id.num with
      | 0 => .ok (c.finish s id)
      | p + 1 => .ok (c.awaitPhase s bar p)

/-! ## Barrier objects (R242 to R244, Table 9.5) -/

/-- BYTES. -/
def objBytes (o : Nat) : Nat := o % 2 ^ 28

/-- ARRIVALS. -/
def objArrivals (o : Nat) : Nat := o / 2 ^ 28 % 4096

/-- RELOAD. -/
def objReload (o : Nat) : Nat := o / 2 ^ 40 % 4096

/-- An object with the given fields. -/
def objMake (phase prio reload arrivals bytes : Nat) : Nat :=
  bytes % 2 ^ 28 + arrivals % 4096 * 2 ^ 28 + reload % 4096 * 2 ^ 40 + prio % 16 * 2 ^ 52 + phase % 4 * 2 ^ 56

/-- The end of an update: with both counts zero the phase completes (R243). -/
def objSettle (phase prio reload arrivals bytes : Nat) : Nat :=
  if bytes % 2 ^ 28 = 0 ∧ arrivals % 4096 = 0 then objMake (phase + 1) 0 reload reload 0
  else objMake phase prio reload arrivals bytes

/-- An update that adds to BYTES (two's complement, 28 bits). -/
def objAddBytes (o : Nat) (n : Int) : Nat :=
  objSettle (objPhase o) (objPrio o) (objReload o) (objArrivals o) (BitVec.ofInt 28 (objBytes o + n)).toNat

/-- An arrival. -/
def objArrive (o : Nat) : Nat :=
  objSettle (objPhase o) (objPrio o) (objReload o) (objArrivals o + 4095) (objBytes o)

/-- The update of a waiter. -/
def objWait (o prio : Nat) : Nat :=
  objSettle (objPhase o) (max (objPrio o) prio) (objReload o) (objArrivals o) (objBytes o)

/-- Scope of an object, by its space (R224). -/
def objScope (a : Word) : Nat := if a.toNat / 2 ^ 61 = 6 then 2 else if a.toNat / 2 ^ 61 = 2 then 5 else 4

/-- Expected arrivers after a phase of an object completes: who arrived in it (R350). -/
def arriversNext (l : List (Nat × Nat × Nat)) (key : Nat) : List (Nat × Nat × Nat) :=
  l.filterMap fun e => if e.1 != key then some e else if e.2.2 = 1 then some (e.1, e.2.1, 0) else none

/-- What an update makes of an object; a waiter's changes it only while PHASE is the one that it waits out. -/
def objectNew (u : ObjectUpdate) (o : Nat) : Nat :=
  match u with
  | .init n => objMake 0 0 n n 0
  | .add n => objAddBytes o n
  | .arrive => objArrive o
  | .wait prio phase => if objPhase o = phase then objWait o prio else o

/-- Write an object at its place: the bank, its LLC slice or the control cache. -/
def State.objectStore (s : State) (wg ctx : Nat) (a : Word) (o : Nat) : State :=
  let bytes := valBytes 8 o
  if a.toNat / 2 ^ 61 = 6 then s.sharedWrite wg (a.toNat % 2 ^ 20) bytes
  else s.llcWrite ((List.range 8).zip bytes |>.map fun (p : Nat × Byte) => (vkey ctx a + p.1, p.2))

/-- The phase of an object has changed: others are expected to arrive (R350). -/
def State.objectMoved (s : State) (wg ctx : Nat) (a : Word) (u : ObjectUpdate) (old : Nat) : State :=
  match u with
  | .init _ => s
  | _ => if objPhase old = objPhase (objectNew u old) then s else { s with arrivers := arriversNext s.arrivers (memKey ctx wg a) }

/-- Update an object at its place from its old value. -/
def State.objectUpdate (s : State) (wg ctx : Nat) (a : Word) (u : ObjectUpdate) (old : Nat) : State :=
  (s.objectStore wg ctx a (objectNew u old)).objectMoved wg ctx a u old

/-- Read an object by an agent of a core: a mark of another core is recalled (R230), and a line that another package homes comes
from its home; none where its walk fails. -/
def State.objectLoad (s : State) (wg ctx core : Nat) (a : Word) : Except Nat (Nat × State) :=
  if a.toNat / 2 ^ 61 = 6 then
    match Map.find? s.wgs wg with
    | some w => .ok (bytesVal (w.sharedBytes (a.toNat % 2 ^ 20) 8), s)
    | none => .error 1
  else match (s.recallFor core (lineOf (vkey ctx a))).llcReads (vkey ctx a) 8 with
    | .ok (l, s1) => .ok (bytesVal l, s1)
    | .error d => .error d

/-- An object can take an update of an agent now: its word is not under another's pending store nor under shootdown, and, where
the update is made here, its walk is good and its granule is not poisoned (R216, R222, R266). -/
def State.countReady (s : State) (x : ObjectCount) : Bool :=
  let vk := vkey x.ctx x.addr
  (decide (x.addr.toNat / 2 ^ 61 = 6) || !(s.othersPending x.age x.op vk 8 || s.underShootdown vk))
    && (s.asksHome vk || match s.objectLoad x.wg x.ctx x.core x.addr with
      | .ok _ => true
      | .error _ => false)

/-- Make a count on an object: at its bank, its LLC slice or its home (R242). -/
def State.makeCount (s : State) (x : ObjectCount) : State :=
  if s.asksHome (vkey x.ctx x.addr) then s.askHome (offset48 x.addr) (.object (.add x.n)) (.count x)
  else match s.objectLoad x.wg x.ctx x.core x.addr with
    | .ok (o, s1) => s1.objectUpdate x.wg x.ctx x.addr (.add x.n) o
    | .error _ => s

/-- An engine or an acknowledgement adds to BYTES of an object; where the object cannot take it yet, the count is kept until
it can (R275, R266; log 91). -/
def State.objectCount (s : State) (x : ObjectCount) : State :=
  if s.countReady x then s.makeCount x else { s with counts := s.counts ++ [x] }

/-- The first kept count that its object can take now, and the others. -/
def State.countDue (s : State) : Option (ObjectCount × List ObjectCount) :=
  match s.counts.find? s.countReady with
  | some x => some (x, s.counts.erase x)
  | none => none

/-- Read an object as an instruction does where its update is made here: its walk must be good (R242, R428).  The core's own
landed bytes of the line are written back first, and its copy dropped, so that the update that follows is one with the read
(R242). -/
def Ctx.objectRead (c : Ctx) (s : State) (a : Word) : Except Stop (Nat × State) := do
  let s1 := if space? a = some .tensor then s.expel c.core (lineOf (vkey c.ctx a)) else s
  match s1.objectLoad c.g.id.wg c.ctx c.core a with
  | .ok r => .ok r
  | .error 5 => .error (c.pcTrap .synonym a)
  | .error d => .error (.park 1 d 0 a)

/-- What an object instruction does with its operands: the update of an object at an address; before that, what a release does; and
after it, by the object's old word. -/
structure ObjectForm where
  args : Ctx → Word × ObjectUpdate
  prepare : Ctx → Word → State → State
  finish : Ctx → Word → ObjectUpdate → Nat → State → State

/-- The operands of an object instruction: those of its issue, where it has issued (R41). -/
def Ctx.objectArgs (c : Ctx) (m : ObjectForm) : Word × ObjectUpdate :=
  match c.f.hold with
  | .objectOp a u _ _ _ => (a, u)
  | _ => m.args c

/-- The object instructions' access: 8 aligned bytes with the atomic right, not private and not a window (R242, R244). -/
def objectForm (addr : Ctx → Word) : MemForm where
  path := none
  pre := fun _ => .ok ()
  reads := true
  rule := { right := .atomic, priv := false }
  accs := fun c => [{ lane := 32, addr := addr c, size := 8 }]

/-- An object instruction that has issued as operation `n` makes its update once the object is free for it, at its place or by a
request to its home; until then its fragment is held. -/
def Ctx.objectStep (c : Ctx) (s : State) (m : ObjectForm) (a : Word) (u : ObjectUpdate) (n : Nat) : Except Stop State := do
  if !s.updateFree c.g a n then .ok (c.heldState s (.objectOp a u n false none))
  else if s.asksHome (vkey c.ctx a) then
    .ok (c.heldState ((m.prepare c a s).askHome (offset48 a) (.object u) (.object c.age c.entry)) (.objectOp a u n true none))
  else
    let (_, s0) ← c.objectRead s a
    let (o, s1) ← c.objectRead (m.prepare c a s0) a
    .ok (m.finish c a u o (s1.objectUpdate c.g.id.wg c.ctx a u o))

/-- An object instruction: its checks at issue, and its update; one that has issued goes on with the operands that it had, and
one whose home has answered ends. -/
def objectInstr (s : State) (m : ObjectForm) (checks : Ctx → State → Except Stop Unit) : Host.Outcome State Fault Refusal :=
  runMem s (objectForm fun c => (c.objectArgs m).1) fun c s => do
    match c.f.hold with
    | .objectOp a u n asked old =>
      match old with
      | some o => .ok (m.finish c a u o (s.objectMoved c.g.id.wg c.ctx a u o))
      | none => if asked then .ok (c.heldState s c.f.hold) else c.objectStep s m a u n
    | _ =>
      checks c s
      c.objectStep { s with nextOp := s.nextOp + 1 } m (m.args c).1 (m.args c).2 s.nextOp

/-- Note a group as an arriver of an object (R350): code 1 for an arrival, 2 for an MBEXP. -/
def State.noteArriver (s : State) (key age code : Nat) : State :=
  if s.arrivers.contains (key, age, code) then s else { s with arrivers := s.arrivers ++ [(key, age, code)] }

/-- MBINIT. -/
def execMbinit (b a : BitVec 6) (s : State) : Host.Outcome State Fault Refusal :=
  objectInstr s
    { args := fun c => (c.g.s a, .init (c.g.s b).toNat), prepare := fun _ _ s => s, finish := fun c _ _ _ s => c.finish s id }
    fun c _ => need (decide ((c.g.s b).toNat < 4096)) c.illegal

/-- MBEXP. -/
def execMbexp (b a : BitVec 6) (s : State) : Host.Outcome State Fault Refusal :=
  objectInstr s
    { args := fun c => (c.g.s a, .add (c.g.s b).toNat),
      prepare := fun c a s => s.noteArriver (memKey c.ctx c.g.id.wg a) c.age 2,
      finish := fun c _ _ _ s => c.finish s id }
    fun c _ => need (decide ((c.g.s b).toNat < 2 ^ 27)) c.illegal

/-- The release of an arrival at an object (R224, R229, R230): at .pkg a release entry, with which the object's line is marked,
so that another core's access to it recalls the entry; at .rack the entry is recalled at once, before the home applies the
arrival; at .wg nothing more (log 92). -/
def State.releaseObject (s : State) (core : Nat) (vk scope : Nat) : State :=
  if scope < 4 then s
  else
    let (e, s1) := s.recordEntry core
    if scope = 5 then s1.recall core e else s1.markLine (lineOf vk) core e

/-- MBARR: a release at the object's scope, then the arrival; the old PHASE is returned. -/
def execMbarr (b d : BitVec 6) (s : State) : Host.Outcome State Fault Refusal :=
  objectInstr s
    { args := fun c => (c.g.s b, .arrive),
      prepare := fun c a s => (s.releaseObject c.core (vkey c.ctx a) (objScope a)).noteArriver (memKey c.ctx c.g.id.wg a) c.age 1,
      finish := fun c _ _ o s => c.finish s fun g => g.clearMark.setS d (BitVec.ofNat 64 (objPhase o)) }
    fun c s => c.releasePoint s true

/-- MBWAIT leaves the phase: an acquire at the object's scope. -/
def Ctx.leavePhase (c : Ctx) (s : State) (a : Word) : State := c.finish (s.acquire c.core (objScope a)) id

/-- MBWAIT's update: it leaves at once where the phase is another, or becomes another by the update; else it holds. -/
def Ctx.waitForm (c0 : Ctx → Word × ObjectUpdate) : ObjectForm where
  args := c0
  prepare := fun _ _ s => s
  finish := fun c a u o s =>
    match u with
    | .wait _ phase =>
      if objPhase o = phase ∧ objPhase (objectNew u o) = phase then c.heldState s (.object a phase) else c.leavePhase s a
    | _ => s

/-- MBWAIT: holds while PHASE is the one given; one that holds has issued, keeps the operands that it issued with (R41), and disturbs
no gang any more (R316).  It updates PRIO as it begins to hold and when its priority rises. -/
def execMbwait (b a : BitVec 6) (s : State) : Host.Outcome State Fault Refusal :=
  match ((s.uncount.ctx?).map fun c => c.f.hold).getD .none with
  | .object addr phase =>
    runMem s (objectForm fun _ => addr) fun c s => do
      let prio := s.effPrio c.age
      match s.objectLoad c.g.id.wg c.ctx c.core addr with
      | .ok (o, s1) =>
        if objPhase o ≠ phase then .ok (c.leavePhase s1 addr)
        else if objPrio o < prio then
          c.objectStep { s1 with nextOp := s1.nextOp + 1 } (Ctx.waitForm fun _ => (addr, .wait prio phase)) addr (.wait prio phase) s1.nextOp
        else .ok (c.heldState s1 (.object addr phase))
      | .error 5 => .error (c.pcTrap .synonym addr)
      | .error d => .error (.park 1 d 0 addr)
  | _ =>
    objectInstr s (Ctx.waitForm fun c => (c.g.s a, .wait (s.effPrio c.age) ((c.g.s b).toNat % 4))) fun c s => c.checkDisturb s

/-! ## Watches (R245, R246) -/

/-- MON: arms the group's watch on a line. -/
def execMon (a : BitVec 6) (s : State) : Host.Outcome State Fault Refusal :=
  runMem s { path := none, pre := fun _ => .ok (), rule := { right := .read, align := false, priv := false },
             accs := fun c => [{ lane := 32, addr := c.g.s a, size := 1 }] } fun c s =>
    let w : Watch := { line := lineOf (memKey c.ctx c.g.id.wg (c.g.s a)), fired := false, lost := false }
    .ok (c.finish s fun g => { g with work := { g.work with watch := some w } })

/-- The code that MWAIT returns, if it returns now (R246).  The spec does not say when a line falls out of the watch point's tracking: the
schedule may lose a watch at any time, and no eviction loses one of itself (log 125). -/
def State.watchCode (s : State) (w : Option Watch) (deadline : Option Nat) : Option Nat :=
  let late := match deadline with
    | some d => decide (d ≤ s.time8)
    | none => false
  match w with
  | none => if late then some 1 else some 3
  | some w => if w.fired then some 0 else if late then some 1 else if w.lost then some 2 else none

/-- MWAIT. -/
def execMwait (b d : BitVec 6) (s : State) : Host.Outcome State Fault Refusal :=
  run s fun c =>
    let deadline := match c.f.hold with
      | .watch _ t => t
      | _ => if c.g.s b = 0 then none else some (s.time8 + 8 * (c.g.s b).toNat)
    match s.watchCode c.g.work.watch deadline with
    | some code => .ok (c.finish s fun g =>
        { g.setS d (BitVec.ofNat 64 code) with work := { g.work with watch := none } })
    | none => .error (.hold (.watch d.toNat deadline))

/-- MWAIT_TIMEOUT: the time of a held MWAIT is up. -/
def execMwaitTimeout (age entry : Nat) (s : State) : Host.Outcome State Fault Refusal :=
  match Map.find? s.groups age with
  | none => .next s
  | some g => match g.frag? entry with
    | none => .next s
    | some f => match f.wait, f.hold with
      | .held, .watch d (some t) =>
        if t ≤ s.time8 then
          let code := (s.watchCode g.work.watch (some t)).getD 1
          let g1 := { g.setS (BitVec.ofNat 6 d) (BitVec.ofNat 64 code) with work := { g.work with watch := none } }
          let g2 := g1.onFrag entry fun f => { f with pc := f.pc + 4, wait := .ready, hold := .none, age := 0 }
          let g3 := { g2 with work := { g2.work with issued := g2.work.issued + 1 } }
          .next { s with groups := Map.insert s.groups age g3 }
        else .next s
      | _, _ => .next s

/-- WATCH_FIRE (R246): a write is applied to a watched line of tensor or control space. -/
def execWatchFire (addr : BitVec 64) (s : State) : Host.Outcome State Fault Refusal :=
  .next (s.fireWatch none (lineOf addr.toNat))

/-! ## Waiting on counters (R247) -/

/-- WAITC: what surfaces at it, then the wait. -/
def waitc (s : State) (b : BitVec 6) (path : Path) (first : Ctx → Except Stop Unit) : Host.Outcome State Fault Refusal :=
  run s fun c => do
    first c
    let limit := match c.f.hold with
      | .counter _ n => n
      | _ => (c.g.s b).toNat
    need (decide (1023 ≤ limit) || decide (c.g.work.counter path ≤ limit)) (.hold (.counter path limit))
    .ok (c.finish s id)

/-- WAITC.ld. -/
def execWaitcLd (b : BitVec 6) (s : State) : Host.Outcome State Fault Refusal := waitc s b .ld fun _ => .ok ()

/-- WAITC.st, an ordering point. -/
def execWaitcSt (b : BitVec 6) (s : State) : Host.Outcome State Fault Refusal := waitc s b .st fun c => c.checkDeferred s

/-- WAITC.wh, where the records of Wherry commands surface. -/
def execWaitcWh (b : BitVec 6) (s : State) : Host.Outcome State Fault Refusal :=
  waitc s b .wh fun c => c.surface (fun _ => false) fun r => !r.ferry

/-- WAITC.an. -/
def execWaitcAn (b : BitVec 6) (s : State) : Host.Outcome State Fault Refusal := waitc s b .an fun _ => .ok ()

/-- WAITC.ra, where failed remote records surface. -/
def execWaitcRa (b : BitVec 6) (s : State) : Host.Outcome State Fault Refusal :=
  waitc s b .ra fun c => c.surface (fun _ => true) fun _ => false

/-- WAITC.fe, where the records of Ferry commands surface. -/
def execWaitcFe (b : BitVec 6) (s : State) : Host.Outcome State Fault Refusal :=
  waitc s b .fe fun c => c.surface (fun _ => false) fun r => r.ferry

end Sys2Proof.Machine
end

