-- ==== Sys2Proof/Machine/MemOps.lean ====
section
/-! DEFINITION. Acquiring loads, releasing stores, prefetch, cache maintenance and local atomics: majors 0x24, 0x25, 0x28 and
0x29 (R211 to R213, R236, R237, R250 to R256). -/

namespace Sys2Proof.Machine

/-! ## Loads of format M -/

/-- A load of format M as it stands at issue. -/
def Ctx.loadOf (c : Ctx) (s : State) (kind scope size : Nat) (signed stream : Bool) (reg : Nat) (accs : List Access) :
    Load where
  kind := kind
  size := size
  signed := signed
  reg := reg
  scope := scope
  stream := stream
  op := 0
  before := c.g.work.seq
  addrs := accs.map fun a => (a.lane, a.addr)
  nc := (accs.filter fun a => c.isNc s a.addr).map (·.lane)
  operands := []
  staged := []
  fp := 0
  parked := 0
  synonym := 0
  detail := 0

/-- LDACQ (R237).  DESIGN CHOICE (log 124): one beyond PRIVHWM parks as LD does, though R204's list does not name it. -/
def execLdacq (z : Bool) (src : BitVec 3) (o : BitVec 7) (b : BitVec 6) (t : BitVec 7) (s : State) :
    Host.Outcome State Fault Refusal :=
  let size := if z then 8 else 4
  runMem s
    { path := some .ld,
      pre := fun c => do
        c.checkRuns ((t.toNat, size / 4) :: runOff o)
        c.needA
        c.checkEcc c.active (runOff o),
      reads := true,
      rule := { right := .read, scope := src.toNat },
      accs := fun c => c.laneAccesses false o b size,
      watchRd := true } fun c s =>
    let accs := c.laneAccesses false o b size
    .ok (c.startLoad s c.flagA .ld (c.loadOf s 2 src.toNat size false false (c.g.vKey t.toNat) accs))

/-! ## Stores -/

/-- A store to tensor, control or private space as its landing record (Table 8.13). -/
def Ctx.landingOf (c : Ctx) (s : State) (kind size : Nat) (stream : Bool) (mark : Option Nat)
    (ls : List (Nat × Word × List Byte)) : Landing where
  id := s.nextOp
  age := c.age
  core := c.core
  slot := c.g.id.slot
  entry := c.entry
  pc := c.pc
  seq := c.g.work.seq
  kind := kind
  size := size
  detail := 0
  ctx := c.ctx
  stream := stream
  inTrap := c.g.flow.trapMode
  mark := mark
  fence := c.g.work.tcFence
  lanes := ls.map fun p => { lane := p.1, addr := p.2.1, nc := c.isNc s p.2.1, bytes := p.2.2.map some, landed := false,
                             faulted := false, direct := false, confirmed := false }

/-- Store to shared memory at once, after the lane's earlier loads there, and elsewhere by a landing record; system windows
are not written here (R186, R194, R205, R221). -/
def Ctx.storeTo (c : Ctx) (s : State) (kind size : Nat) (stream : Bool) (mark : Option Nat)
    (ls : List (Nat × Word × List Byte)) : Except Stop State := do
  let shared := ls.filter fun p => decide (p.2.1.toNat / 2 ^ 61 = 6)
  need (shared.isEmpty || !s.acquiring c.age) (.hold (.loads s.nextOp))
  need (!shared.any fun p => s.sharedEarlier c.age s.nextOp p.1) (.hold (.loads s.nextOp))
  let s1 ← c.store s (c.landingOf s kind size stream mark (ls.filter fun p => decide (p.2.1.toNat / 2 ^ 61 < 6)))
  .ok (shared.foldl (fun t p => t.sharedWrite c.g.id.wg (p.2.1.toNat % 2 ^ 20) p.2.2) s1)

/-- The bytes that a store of format M takes from each active lane's run. -/
def Ctx.storeData (c : Ctx) (accs : List Access) (vt size : Nat) : List (Nat × Word × List Byte) :=
  accs.map fun a => (a.lane, a.addr,
    ((List.range (max 1 (size / 4))).flatMap fun j => valBytes 4 (c.g.vRun vt j a.lane).toNat).take size)

/-- The release entry that marks a plain store: one to tensor space after a FENCE.rel; one to control space recalls it, so
that its reader synchronises with the fence too (R225, R229; log 90). -/
def Ctx.plainMark (c : Ctx) (a : Word) : Option Nat :=
  if a.toNat / 2 ^ 61 = 0 ∨ a.toNat / 2 ^ 61 = 2 then c.g.work.markEntry else none

/-- STREL (R237): the release step, then the store, its bytes marked at .pkg and wider.  DESIGN CHOICE (log 124): one beyond PRIVHWM
parks as ST does, though R204's list does not name it. -/
def execStrel (z : Bool) (src : BitVec 3) (o : BitVec 7) (b : BitVec 6) (t : BitVec 7) (s : State) :
    Host.Outcome State Fault Refusal :=
  let size := if z then 8 else 4
  let runs := (t.toNat, size / 4) :: runOff o
  runMem s
    { path := some .st,
      pre := fun c => do
        c.checkRuns runs
        c.checkEcc c.active runs,
      rule := { right := .write, scope := src.toNat },
      accs := fun c => c.laneAccesses false o b size,
      watchWr := true } fun c s => do
    c.releasePoint s false
    let ls := c.storeData (c.laneAccesses false o b size) t.toNat size
    let sz := if z then 5 else 4
    if 4 ≤ src.toNat then
      let (e, s1) := s.recordEntry c.core
      let s2 ← c.storeTo s1 2 sz false (some e) ls
      .ok (c.finish s2 Group.clearMark)
    else
      let s1 ← c.storeTo s 2 sz false none ls
      .ok (c.finish s1 Group.clearMark)

/-! ## Prefetch and cache maintenance -/

/-- The form of major 0x25: one byte at each active lane's address, no alignment. -/
def lineForm (path : Option Path) (right : Right) (limit : Bool) (x : Bool) (o : BitVec 7) (b : BitVec 6) : MemForm where
  path := path
  pre := fun c => do
    c.checkRuns (runOff o)
    c.checkEcc c.active (runOff o)
  rule := { right := right, align := false, window := true, limit := limit }
  accs := fun c => c.laneAccesses x o b 1

/-- Fill a line for a prefetch: into the LLC or the control cache, and with .l1 into the core's L1; a line whose
translation fails is dropped (R212). -/
def State.prefetch (s : State) (core : Nat) (l1 nc : Bool) (line : Nat) : State :=
  match (s.recallFor core line).llcWhole line with
  | .error _ => s
  | .ok s1 => if l1 && keySpace (line * 128) != .control && s1.mayAllocate core line then s1.l1Fill core line nc else s1

/-- PREF, once for each line (R211); one that a command owns is waited for (R248). -/
def execPref (l x : Bool) (o : BitVec 7) (b : BitVec 6) (s : State) : Host.Outcome State Fault Refusal :=
  runMem s (lineForm none .none false x o b) fun c s =>
    let keep := (c.laneAccesses x o b 1).filter fun a =>
      decide (a.addr.toNat / 2 ^ 61 < 6) && !c.beyondHwm a && (!a.hasRights || (s.rights c.core c.ctx a.addr).1.rd)
    let lines := (keep.map fun a => (lineOf (vkey c.ctx a.addr), c.isNc s a.addr)).eraseDups
    match lines.find? fun p => s.wherryOwns s.nextOp p.1 with
    | some p => .error (.hold (.busyLine (p.1 * 128) s.nextOp))
    | none => .ok (c.finish (lines.foldl (fun t p => t.prefetch c.core (!l) p.2 p.1) s) id)

/-- CFLUSH and CINV (R213): at once, or, where pinned bytes wait for their records, once these have left the pending
state. -/
def flushForm (s : State) (inv l x : Bool) (o : BitVec 7) (b : BitVec 6) : Host.Outcome State Fault Refusal :=
  runMem s (lineForm (some .st) .read true x o b) fun c s =>
    let accs := (c.laneAccesses x o b 1).filter fun a => decide (a.addr.toNat / 2 ^ 61 = 0) || decide (a.addr.toNat / 2 ^ 61 = 4)
    let lines := (accs.map fun a => lineOf (vkey c.ctx a.addr)).eraseDups
    let records := (lines.flatMap (s.pinning c.core)).eraseDups
    if records.isEmpty then .ok (c.finish (s.flushLines c.core inv l lines) id)
    else .ok (c.launch (c.finish s id) none (some .st) (.flush inv l lines records))

/-- CFLUSH. -/
def execCflush (l x : Bool) (o : BitVec 7) (b : BitVec 6) (s : State) : Host.Outcome State Fault Refusal :=
  flushForm s false l x o b

/-- CINV. -/
def execCinv (l x : Bool) (o : BitVec 7) (b : BitVec 6) (s : State) : Host.Outcome State Fault Refusal :=
  flushForm s true l x o b

/-! ## ATOM and RED -/

/-- Registers of the data run of an operation (Table 10.1). -/
def atomicRegs (code : Nat) : Nat := (if isCas code then 2 else 1) * (atomicSize code / 4)

/-- A value of n registers of a lane's run. -/
def Group.runValue (g : Group) (vt j n l : Nat) : Word :=
  BitVec.ofNat 64 ((List.range n).foldl (fun v i => v + (g.vRun vt (j + i) l).toNat * 2 ^ (32 * i)) 0)

/-- Operand and swap value of each lane. -/
def Ctx.atomicData (c : Ctx) (code vt : Nat) (lanes : List Nat) : List (Nat × Word × Word) :=
  let n := atomicSize code / 4
  lanes.map fun l => (l, c.g.runValue vt 0 n l, if isCas code then c.g.runValue vt n n l else 0)

/-- An atomic waits for a pending record of its own group that holds one of its bytes, and takes STORE-LANDING where the
record has faulted (R255). -/
def Ctx.checkOwnRecords (c : Ctx) (s : State) (accs : List Access) : Except Stop Unit := do
  let touched := s.landing.filter fun r => r.age == c.age && r.lanes.any fun l => accs.any fun a =>
    r.touches l (vkey c.ctx a.addr) a.size
  need (!touched.any (·.isPending)) (.hold (.ownRecord (accs.flatMap fun a => keyRun (vkey c.ctx a.addr) a.size)))
  match touched.filter (·.isFaulted) with
  | [] => .ok ()
  | r :: _ => .error (.trap r.trap)

/-- ATOM and RED at issue: the core's copies of the lines go, and the operation is in flight (R253 to R256). -/
def atomicForm (s : State) (red : Bool) (o : BitVec 5) (v : BitVec 7) (b : BitVec 6) (t : BitVec 7) :
    Host.Outcome State Fault Refusal :=
  let code := o.toNat
  let size := atomicSize code
  let runs := (t.toNat, atomicRegs code) :: runOff v
  let path : Path := if red then .st else .ld
  runMem s
    { path := some path,
      pre := fun c => do
        c.checkRuns runs
        if red then .ok () else c.needA
        c.checkEcc c.active runs,
      reads := true,
      rule := { right := .atomic, limit := false },
      accs := fun c => c.laneAccesses false v b size,
      watchRd := true, watchWr := true } fun c s => do
    let accs := c.laneAccesses false v b size
    c.checkOwnRecords s accs
    let l := { c.loadOf s (if red then 4 else 3) 0 size false false (c.g.vKey t.toNat) accs with
               op := code, operands := c.atomicData code t.toNat c.lanes }
    let lines := ((accs.filter fun a => decide (a.addr.toNat / 2 ^ 61 = 0) || decide (a.addr.toNat / 2 ^ 61 = 4)).map
      fun a => lineOf (vkey c.ctx a.addr)).eraseDups
    let s1 := lines.foldl (fun t line => t.expel c.core line) s
    .ok (c.startLoad s1 (if red then none else c.flagA) path l)

/-- ATOM. -/
def execAtom (o : BitVec 5) (v : BitVec 7) (b : BitVec 6) (t : BitVec 7) (s : State) : Host.Outcome State Fault Refusal :=
  atomicForm s false o v b t

/-- RED. -/
def execRed (o : BitVec 5) (v : BitVec 7) (b : BitVec 6) (t : BitVec 7) (s : State) : Host.Outcome State Fault Refusal :=
  atomicForm s true o v b t

end Sys2Proof.Machine
end

