-- ==== Sys2Proof/Machine/Remote.lean ====
section
/-! DEFINITION. Remote atomics: majors 0x2A and 0x2B, their transport, refusal, retry and completion (R257 to R267).

A line request is named by 65,536 × its core + its 16-bit request tag. -/

namespace Sys2Proof.Machine

/-- Operation code of minor3 (Table 10.3). -/
def remoteCode (red : Bool) (o : BitVec 3) : Nat :=
  match o.toNat with
  | 0 => 0x00
  | 1 => 0x01
  | 2 => 0x02
  | 3 => 0x04
  | 4 => 0x0C
  | 5 => 0x14
  | 6 => if red then 0x15 else 0x10
  | _ => 0x12

/-! ## Addresses and checks (R258) -/

/-- The address operand of a lane. -/
def Ctx.remoteWord (c : Ctx) (x : Bool) (b : BitVec 7) (l : Nat) : Word :=
  if x then c.g.s (b.setWidth 6) else BitVec.ofNat 64 (c.g.pair b.toNat l)

/-- The target address of a lane. -/
def Ctx.remoteAddr (c : Ctx) (x : Bool) (b a : BitVec 7) (l : Nat) : Word :=
  let w := (c.remoteWord x b l).toNat
  BitVec.ofNat 64 (w / 2 ^ 57 * 2 ^ 57 + (c.g.v a.toNat l).toNat % 512 * 2 ^ 48 + w % 2 ^ 48)

/-- SPACE for a lane: a peer of more than 9 bits, a package number in the operand, or another space. -/
def Ctx.remoteBad (c : Ctx) (x : Bool) (b a : BitVec 7) (l : Nat) : Bool :=
  decide (512 ≤ (c.g.v a.toNat l).toNat) || decide (pkgOf (c.remoteWord x b l) ≠ 0)
    || !(space? (c.remoteAddr x b a l) == some .tensor || space? (c.remoteAddr x b a l) == some .control)

/-- SPACE for ACKBAR: outside shared memory, the tensor space of this package and control space (R266). -/
def State.ackbarBad (s : State) (a : Word) : Bool :=
  match space? a with
  | some .shared | some .control => false
  | some .tensor => s.isRemote a
  | _ => true

/-- ACKBAR as an access that an XRED checks; none for XAT and for 0. -/
def Ctx.ackAccess (c : Ctx) (red : Bool) : List Access :=
  if red && c.g.sys.ackbar != 0 then [{ lane := 32, addr := c.g.sys.ackbar, size := 8 }] else []

/-- The lanes' accesses. -/
def Ctx.remoteAccesses (c : Ctx) (x : Bool) (b a : BitVec 7) (size : Nat) : List Access :=
  c.lanes.map fun l => { lane := l, addr := c.remoteAddr x b a l, size := size }

/-! ## Line requests (R262) -/

/-- Insert into an ascending list of numbers, once each. -/
def insertNat : List Nat → Nat → List Nat
  | [], n => [n]
  | m :: l, n => if n = m then m :: l else if n < m then n :: m :: l else m :: insertNat l n

/-- The line requests of lanes, one for each line, in ascending order of lines. -/
def remoteLines (ls : List (Nat × Word × Word × Word)) : List RemoteLine :=
  (ls.foldl (fun as p => insertNat as (lineOf p.2.1.toNat)) []).map fun line =>
    { tag := 0, lanes := ls.filter fun p => lineOf p.2.1.toNat == line, sent := false, retries := 0, retryAt := 0, detail := 0,
      waiting := false, acked := false, failed := false }

/-- The request is answered for good. -/
def RemoteLine.over (l : RemoteLine) : Bool := l.acked || l.failed

/-- The page of a request. -/
def RemoteLine.page (l : RemoteLine) : Nat := ((l.lanes.head?).map fun p => pageOf p.2.1.toNat).getD 0

/-- Sub-operations with the indexes of their line requests, in the order of issue. -/
def State.remoteRequests (s : State) : List (RemoteSub × Nat × RemoteLine) :=
  s.remote.flatMap fun r => ((List.range r.lines.length).zip r.lines).map fun p => (r, p.1, p.2)

/-- Two requests have lanes on one 8-byte word. -/
def RemoteLine.sharesWord (l m : RemoteLine) : Bool :=
  l.lanes.any fun p => m.lanes.any fun q => p.2.1.toNat / 8 == q.2.1.toNat / 8

/-- The requests before one of a group to the same page of a peer that are not over. -/
def State.remoteBefore (s : State) (r : RemoteSub) (i : Nat) (l : RemoteLine) : List RemoteLine :=
  (s.remoteRequests.filter fun q => q.1.age == r.age && q.1.peer == r.peer && q.2.2.page == l.page && !q.2.2.over
    && (decide (q.1.id < r.id) || (q.1.id == r.id && decide (q.2.1 < i)))).map (·.2.2)

/-- The name of a request. -/
def RemoteSub.name (r : RemoteSub) (l : RemoteLine) : Nat := 65536 * r.core + l.tag

/-- The request of a name: sent to be, and not over. -/
def RemoteSub.has (r : RemoteSub) (name : Nat) (l : RemoteLine) : Bool := r.entered && r.name l == name && !l.over

/-- Change a line request. -/
def State.onRemote (s : State) (name : Nat) (f : RemoteLine → RemoteLine) : State :=
  { s with remote := s.remote.map fun r => { r with lines := r.lines.map fun l => if r.has name l then f l else l } }

/-- The line request of a name. -/
def State.remoteOf (s : State) (name : Nat) : Option (RemoteSub × RemoteLine) :=
  s.remote.findSome? fun r => (r.lines.find? (r.has name)).map fun l => (r, l)

/-- How long a target keeps its answer to a request, and a source then does not use the tag again, in eighths of a ns: 65,536 ns
(log 93). -/
def answerTime : Nat := 8 * 65536

/-- The next request tags of a core that are not in use, with the count after them (R262; log 93). -/
def nextTags (used : List Nat) : Nat → Nat → Nat → List Nat × Nat
  | _, 0, c => ([], c)
  | 0, _, c => ([], c)
  | fuel + 1, n + 1, c =>
    let t := c % 65536
    if used.contains t then nextTags used fuel (n + 1) (c + 1)
    else
      let (l, d) := nextTags used fuel n (c + 1)
      (t :: l, d)

/-- What a line request carries (R262). -/
def State.requestOf (s : State) (r : RemoteSub) (l : RemoteLine) : RemoteRequest :=
  { src := s.pkg, core := r.core, tag := l.tag, ctx := ((Map.find? s.groups r.age).map (·.id.ctx)).getD 0, isRed := r.isRed,
    op := r.op, lanes := l.lanes }

/-- Send a request: to another package as a packet; one to this package reaches its slice by an event of its own. -/
def State.sendRemote (s : State) (name : Nat) : State :=
  match s.remoteOf name with
  | none => s
  | some (r, l) =>
    let s1 := s.onRemote name fun l => { l with sent := true, waiting := false }
    if r.peer = s.pkg then s1 else s1.send (.remoteLine r.peer (s.requestOf r l))

/-- A request waits for an earlier one of the group: to the same page, while it is unsent or being retried (R263), and to
the same 8-byte word until it is over (R261). -/
def RemoteLine.waitsFor (l b : RemoteLine) : Bool := !b.sent || decide (0 < b.retries) || l.sharesWord b

/-- Send every request that is due. -/
def State.sendDue (s : State) : State :=
  s.remoteRequests.foldl (fun t q =>
    match t.remoteOf (q.1.name q.2.2) with
    | none => t
    | some (r, l) =>
      if l.sent || l.waiting || l.over || (t.remoteBefore r q.2.1 l).any l.waitsFor then t
      else t.sendRemote (q.1.name q.2.2)) s

/-! ## Completion (R260, R264, R266, R267) -/

/-- The failed line with the latest refusal. -/
def lastRefused : List RemoteLine → Option RemoteLine
  | [] => none
  | l :: ls => match lastRefused ls with
    | none => some l
    | some m => some (if m.retryAt < l.retryAt then l else m)

/-- The failed remote record of a sub-operation: of its failed lanes, or of them all where its peer was lost before the last
line was acknowledged (R262, R264, R267). -/
def RemoteSub.record (r : RemoteSub) (lost : Bool) : Option FailedRemote :=
  let bad := r.lines.filter fun l => lost || l.failed
  match lastRefused bad with
  | none => none
  | some l =>
    let lanes := maskOf ((bad.flatMap (·.lanes)).map (·.1))
    let low := (bad.flatMap (·.lanes)).find? fun p => p.1 == lowestLane lanes
    some { order := r.id, pc := r.pc, peer := r.peer, lanes := lanes, addr := (low.map (·.2.1)).getD 0,
           retries := l.retries, detail := l.detail, flag := r.flag, lost := lost, inTrap := r.bank }

/-- The old values that an XAT writes: an acknowledged lane holds its old value in the operand's place. -/
def RemoteSub.cells (r : RemoteSub) : List (Nat × Lane) :=
  if r.isRed then []
  else (r.lines.filter (·.acked)).flatMap fun l => l.lanes.flatMap fun p =>
    (List.range (atomicSize (remoteCode r.isRed r.op) / 4)).map fun j =>
      (32 * (r.reg + j) + p.1, BitVec.ofNat 32 (p.2.2.1.toNat / 2 ^ (32 * j)))

/-- Lanes of a sub-operation. -/
def RemoteSub.laneCount (r : RemoteSub) : Nat := (r.lines.flatMap (·.lanes)).length

/-- An XAT whose sub-operations are all over completes. -/
def State.settleXat (s : State) (sub : Nat) : State :=
  s.pend.foldl (fun t p => match p.kind with
    | .xat subs =>
      if !subs.contains sub then t
      else
        let left := subs.filter (· != sub)
        if left.isEmpty then t.landPend p else t.onPend p.id (.xat left)
    | _ => t) s

/-- A sub-operation completes: old values and flags are written unless its peer was lost, a failure is recorded, the object
of ACKBAR is counted, and RA falls. -/
def State.finishSub (s : State) (r : RemoteSub) (lost : Bool) : State :=
  let s1 := s.onGroup r.age fun g =>
    let g1 := if lost then g else (g.setCells r.cells).orFp r.fp
    match r.record lost with
    | none => g1
    | some f => { g1 with work := { g1.work with failedRemote := g1.work.failedRemote ++ [f] } }
  let s2 := match Map.find? s1.groups r.age with
    | some g =>
      if r.isRed ∧ r.ackbar ≠ 0 then
        s1.objectCount { wg := g.id.wg, ctx := g.id.ctx, core := r.core, age := r.age, op := r.id, addr := r.ackbar,
                         n := -((atomicSize (remoteCode r.isRed r.op) * r.laneCount : Nat) : Int) }
      else s1
    | none => s1
  let s3 := if r.peer = s.pkg then s2 else s2.onCore r.core fun c =>
    { c with tagRest := (c.tagRest.filter fun t => decide (s.time8 < t.2)) ++ r.lines.map fun l => (l.tag, s.time8 + answerTime) }
  ({ s3 with remote := s3.remote.filter fun q => q.id != r.id }.finishOp r.age .ra r.id).settleXat r.id

/-- The peer has no package: its number is N or above, or it was lost (R267). -/
def State.peerGone (s : State) (p : Nat) : Bool := p != s.pkg && (decide (s.rackN ≤ p) || s.fabric.lost.contains p)

/-- A sub-operation takes its entry of the remote-atomic table: RA counts it, and its requests get their tags; one to a lost
peer completes at once (R259, R262, R267). -/
def State.enterSub (s : State) (r : RemoteSub) : State :=
  let (tags, count) := nextTags (s.tagsUsed r.core) 65536 r.lines.length (s.core r.core).tagCount
  let q := { r with entered := true, lines := (r.lines.zip tags).map fun p => { p.1 with tag := p.2 } }
  let s1 := State.onCore { s with remote := s.remote.map fun x => if x.id == r.id then q else x } r.core fun c =>
    { c with tagCount := count % 65536 }
  let s2 := s1.startOp r.age .ra r.id
  if s2.peerGone r.peer then s2.finishSub q true else s2

/-- Give entries to sub-operations that wait for one, in order, as far as there is room; then send what is due.  Once the last of a
group is sent, a trap that was held for it lands (R259). -/
def State.pumpRemote (s : State) : State :=
  let waiting := s.remote.filter fun r => !r.entered
  let t := State.sendDue (waiting.foldl (fun t r =>
    if t.remoteRoom r.core r.age && !t.remote.any (fun q => q.age == r.age && !q.entered && decide (q.id < r.id)) then t.enterSub r
    else t) s)
  ((waiting.map (·.age)).eraseDups.filter fun a => !t.sending a).foldl (fun u a => u.deliverDeclined a) t

/-- A sub-operation all of whose requests are over completes; then what waited behind them is sent. -/
def State.settleSub (s : State) (id : Nat) : State :=
  State.pumpRemote (match s.remote.find? fun r => r.id == id with
    | none => s
    | some r => if r.entered && r.lines.all (·.over) then s.finishSub r false else s)

/-- The sub-operations towards a peer that was lost complete with PEER-LOST (R267). -/
def State.losePeer (s : State) (peer : Nat) : State :=
  State.pumpRemote ((s.remote.filter fun r => r.peer == peer && r.entered).foldl (fun t r => t.finishSub r true) s)

/-! ## XAT and XRED -/

/-- XAT and XRED: the sub-operations of one instruction, in ascending order of peers; the fragment is held until each has
its entry (R259). -/
def remoteForm (s : State) (red x : Bool) (o : BitVec 3) (b a d : BitVec 7) : Host.Outcome State Fault Refusal :=
  let code := remoteCode red o
  let size := atomicSize code
  let vb := if x then [] else [(b.toNat, 2)]
  let runs := (d.toNat, atomicRegs code) :: (a.toNat, 1) :: vb
  runMem s
    { path := some .ra,
      pre := fun c => do
        c.checkRuns runs
        if red then .ok () else c.needA
        c.checkEcc c.active runs
        match c.lanes.find? (c.remoteBad x b a) with
        | some l => .error (addrTrap .space l (c.remoteAddr x b a l))
        | none => .ok ()
        need ((c.ackAccess red).all fun k => !s.ackbarBad k.addr) (addrTrap .space 32 c.g.sys.ackbar),
      rule := { right := .atomic, limit := false, direct := false },
      accs := fun c => c.remoteAccesses x b a size ++ c.ackAccess red } fun c s => do
    match (c.remoteAccesses x b a size).find? fun k => decide (k.addr.toNat / 2 ^ 61 = 2) with
    | some k => .error (addrTrap .class_ k.lane k.addr)
    | none => .ok ()
    let data := (c.atomicData code d.toNat c.lanes).map fun p => (p.1, c.remoteAddr x b a p.1, p.2)
    let peers := data.foldl (fun ps p => insertNat ps (pkgOf p.2.1)) []
    let ids := (List.range peers.length).map fun i => s.nextOp + 1 + i
    let subs := (ids.zip peers).map fun p => 
      { id := p.1, entered := false, age := c.age, core := c.core, pc := c.pc, isRed := red, op := o, peer := p.2,
        reg := c.g.vKey d.toNat, bank := c.g.flow.trapMode, flag := if red then none else c.flagA,
        ackbar := if red then c.g.sys.ackbar else 0, limit := (s.queue c.g.id.queue).retry, fp := 0,
        lines := remoteLines (data.filter fun q => pkgOf q.2.1 == p.2) : RemoteSub }
    if subs.isEmpty then .ok (c.finish s id)
    else
      let s1 := c.finish s id
      let s2 := if red then { s1 with nextOp := s1.nextOp + 1 } else c.launch s1 c.flagA none (.xat ids)
      let s3 := State.pumpRemote { s2 with nextOp := s2.nextOp + subs.length, remote := s2.remote ++ subs }
      .ok (if s3.sending c.age then
          s3.onGroup c.age fun g => g.onFrag c.entry fun f => { f with wait := .held, hold := .remoteRoom }
        else s3)

/-- XAT. -/
def execXat (x : Bool) (o : BitVec 3) (b a d : BitVec 7) (s : State) : Host.Outcome State Fault Refusal :=
  remoteForm s false x o b a d

/-- XRED. -/
def execXred (x : Bool) (o : BitVec 3) (b a d : BitVec 7) (s : State) : Host.Outcome State Fault Refusal :=
  remoteForm s true x o b a d

/-! ## At the target (R260, R263) -/

/-- Answer a request: this package's own issuer next, another package by a packet. -/
def State.answerRemote (s : State) (req : RemoteRequest) (own : Event) (away : Message) : State :=
  if req.src = s.pkg then { s with agenda := own :: s.agenda } else s.send away

/-- The name of a request at its source. -/
def requestName (r : RemoteRequest) : Nat := 65536 * r.core + r.tag

/-- The line of a request. -/
def requestLine (req : RemoteRequest) : Nat := ((req.lanes.head?).map fun p => lineOf p.2.1.toNat).getD 0

/-- Answer that a request was performed, with the old values and the flags. -/
def State.acknowledge (s : State) (req : RemoteRequest) (olds : List (Nat × Word)) (fp : Flags) : State :=
  s.answerRemote req (.remoteAtomicAck (requestName req) olds fp) (.remoteReply req.src req.core req.tag (requestLine req) olds fp)

/-- The answers to performed requests that are still kept: for a time in which their tags name no new request (R262; log 93). -/
def State.kept (s : State) : List Performed := s.fabric.performed.filter fun p => decide (s.time8 < p.until_)

/-- Keep the answer to a request of another package. -/
def State.notePerformed (s : State) (req : RemoteRequest) (olds : List (Nat × Word)) (fp : Flags) : State :=
  let a : Performed := { src := req.src, core := req.core, tag := req.tag, until_ := s.time8 + answerTime, olds := olds, fp := fp }
  { s with fabric := { s.fabric with performed := s.kept ++ [a] } }

/-- The answer to a request that was performed before (R262). -/
def State.performedBefore (s : State) (req : RemoteRequest) : Option Performed :=
  s.kept.find? fun a => a.src == req.src && a.core == req.core && a.tag == req.tag

/-- Receiver-not-ready, or with 256 above the detail a failure for good (R263, R410). -/
def State.refuseRemote (s : State) (req : RemoteRequest) (detail : Nat) : State :=
  s.answerRemote req (.remoteAtomicRnr (requestName req) detail) (.remoteRefusal req.src req.core req.tag (requestLine req) detail)

/-- The request's access waits at the slice (R222, R230, R248). -/
def State.remoteWaits (s : State) (req : RemoteRequest) : Bool :=
  let size := atomicSize (remoteCode req.isRed req.op)
  req.lanes.any fun p =>
    let vk := p.2.1.toNat
    (s.landing.any fun r => r.isPending && r.lanes.any fun l => r.touches l vk size)
      || s.markHolds (if req.src = s.pkg then req.core else 512) (lineOf vk) || s.wherryOwns s.nextOp (lineOf vk)

/-- Every byte of a request can be read: a detail where one cannot. -/
def State.remoteReady (s : State) (size : Nat) : List (Nat × Word × Word × Word) → Except Nat State
  | [] => .ok s
  | p :: ls => match s.llcReads p.2.1.toNat size with
    | .error d => .error d
    | .ok (_, s1) => s1.remoteReady size ls

/-- Perform the lanes of a request in ascending order: the old values and the flags. -/
def State.performRemote (s : State) (code : Nat) : List (Nat × Word × Word × Word) → List (Nat × Word) × Flags × State
  | [] => ([], 0#4, s)
  | (l, a, x, w) :: ls =>
    let size := atomicSize code
    match s.llcReads a.toNat size with
    | .error _ => ([], 0#4, s)
    | .ok (bytes, s1) =>
      let old := bytesVal bytes
      let (new, fp) := atomicNew code old x.toNat w.toNat
      let s2 := if atomicWrites code old x.toNat new then
          s1.llcWrite ((List.range size).zip (valBytes size new) |>.map fun (p : Nat × Byte) => (a.toNat + p.1, p.2))
        else s1
      let (olds, fps, s3) := s2.performRemote code ls
      ((l, BitVec.ofNat 64 old) :: olds, fp ||| fps, s3)

/-- A request of a package for a line, which travels on one plane and so stays in order (R394). -/
def sameRemoteLine (src : Nat) (a : Word) : Event → Bool
  | .remoteAtomicRequest r => r.src == src && (r.lanes.head?.map fun p => lineOf p.2.1.toNat) == some (lineOf a.toNat)
  | _ => false

/-- The detail of a refusal for a shootdown or a missing right: one of Table 8.10's codes, which the spec does not name
(R264; log 4). -/
def refusalDetail (free : Word) : Nat := 1 + free.toNat % 4

/-- REMOTE_ATOMIC_REQUEST (R260, R263): a line request reaches the package that owns the line.  One that was performed
before is answered again and not performed (R262); one whose access waits stays until it need not. -/
def execRemoteAtomicRequest (req : RemoteRequest) (s : State) : Host.Outcome State Fault Refusal :=
  let s0 := s.served (.remoteAtomicRequest req)
  let code := remoteCode req.isRed req.op
  match req.lanes with
  | [] => .next s0
  | p :: _ =>
    if pkgOf p.2.1 ≠ s.pkg ∨ s.fabric.lost.contains req.src = true then .next s0
    else match s.performedBefore req with
    | some a => .next (s0.acknowledge req a.olds a.fp)
    | none =>
    if s.underShootdown p.2.1.toNat || !(s.walkRights req.ctx p.2.1).at_ then
      .next (State.refuseRemote { s0 with freeCtr := s0.freeCtr + 1 } req (refusalDetail (Config.freeWord s.freeCtr)))
    else if s.remoteWaits req || (s.before (.remoteAtomicRequest req)).any (sameRemoteLine req.src p.2.1) then
      .next (if req.src = s.pkg then s else s.keep (.remoteAtomicRequest req))
    else match s0.remoteReady (atomicSize code) req.lanes with
      | .error 12 => .next (s0.refuseRemote req (256 + 12))
      | .error d => .next (s0.refuseRemote req d)
      | .ok s1 =>
        let (olds, fp, s2) := s1.performRemote code req.lanes
        let back := if req.isRed then [] else olds
        let s3 := if req.src = s.pkg then s2 else s2.notePerformed req back fp
        .next (s3.acknowledge req back fp)

/-! ## At the source (R260, R263) -/

/-- REMOTE_ATOMIC_ACK (R260): a line request was performed; the old values come with it. -/
def execRemoteAtomicAck (sub : Nat) (olds : List (Nat × BitVec 64)) (flags : BitVec 4) (s : State) :
    Host.Outcome State Fault Refusal :=
  match s.remoteOf sub with
  | none => .next s
  | some (r, l) =>
    if !l.sent then .next s
    else
      let s1 := s.onRemote sub fun l => { l with
        acked := true,
        lanes := l.lanes.map fun p => (p.1, p.2.1, ((olds.find? fun o => o.1 == p.1).map (·.2)).getD p.2.2.1, p.2.2.2) }
      let s2 := { s1 with remote := s1.remote.map fun (q : RemoteSub) => if q.id == r.id then { q with fp := q.fp ||| flags } else q }
      .next (s2.settleSub r.id)

/-- REMOTE_ATOMIC_RNR (R263): a request was refused; it is retried after its backoff, or fails at the limit. -/
def execRemoteAtomicRnr (sub detail : Nat) (s : State) : Host.Outcome State Fault Refusal :=
  match s.remoteOf sub with
  | none => .next s
  | some (r, l) =>
    if !l.sent then .next s
    else if l.retries < r.limit ∧ detail < 256 then
      .next ((s.onRemote sub fun l => { l with
        sent := false, waiting := true, retries := l.retries + 1, retryAt := s.time8 + 8000 * 2 ^ l.retries,
        detail := detail }).settleSub r.id)
    else
      .next ((s.onRemote sub fun l => { l with failed := true, retryAt := s.time8, detail := detail % 256 }).settleSub r.id)

/-- REMOTE_RETRY_TIMER (R263): the backoff of a request is over, and it is sent again. -/
def execRemoteRetryTimer (sub : Nat) (s : State) : Host.Outcome State Fault Refusal :=
  match s.remoteOf sub with
  | none => .next s
  | some (_, l) => if l.waiting ∧ l.retryAt ≤ s.time8 then .next (s.sendRemote sub) else .next s

/-- The requests to this package that may reach their slice now: those that wait for no earlier one, in any order (R261, R263). -/
def State.remoteDue (s : State) : List Event :=
  (s.remoteRequests.filter fun q => q.1.peer == s.pkg && q.1.entered && q.2.2.sent && !q.2.2.over
    && !(s.remoteBefore q.1 q.2.1 q.2.2).any q.2.2.waitsFor).filterMap fun q =>
      let req := s.requestOf q.1 q.2.2
      let under := req.lanes.any fun p => s.underShootdown p.2.1.toNat
      if s.remoteWaits req && !under then none else some (.remoteAtomicRequest req)

end Sys2Proof.Machine
end

