-- ==== Sys2Proof/Machine/Shootdown.lean ====
section
/-! DEFINITION. Virtual shootdown, and the walks of the translation units and rights walkers: UNMAPV and its events (R192,
R199, R201, R214 to R218, R426, R427). -/

namespace Sys2Proof.Machine

/-! ## Ranges -/

/-- First virtual key of a request's range. -/
def Shootdown.lo (d : Shootdown) : Nat := vkey d.ctx d.base

/-- A virtual key lies in the range. -/
def Shootdown.covers (d : Shootdown) (vk : Nat) : Bool := decide (d.lo ≤ vk) && decide (vk < d.lo + d.len)

/-- A run of n keys meets the range. -/
def Shootdown.meets (d : Shootdown) (vk n : Nat) : Bool := overlap d.lo d.len vk n

/-- Pages of a run from page `lo` on, less than n. -/
def cutRun (r : PageRun) (lo n : Nat) : List PageRun :=
  let hi := lo + n
  if r.vpage + r.count ≤ lo ∨ hi ≤ r.vpage then [r]
  else
    (if r.vpage < lo then [{ r with count := lo - r.vpage }] else [])
      ++ (if hi < r.vpage + r.count then
        [{ vpage := hi, count := r.vpage + r.count - hi, frame := r.frame + (hi - r.vpage) }] else [])

/-- Count and log a RAS event whose die, unit and location the spec does not state (log 4). -/
def State.rasFree (s : State) (i : Nat) : State :=
  let w := fun k => (Config.freeWord (s.freeCtr + k)).toNat
  State.ras { s with freeCtr := s.freeCtr + 3 } i (w 0) (w 1) (w 2)

/-! ## The steps of a request (R215) -/

/-- The watches of lines that a request covers are lost (R246). -/
def State.loseWatches (s : State) (d : Shootdown) : State :=
  let lose := fun (w : Watch) => if d.meets (w.line * 128) 128 then { w with lost := true } else w
  { s with groups := s.groups.map fun p => (p.1, { p.2 with work := { p.2.work with watch := p.2.work.watch.map lose } }) }

/-- Step 1: the permission-cache entries of the range go; the range is under shootdown.  A control-space request of this
package goes to every other package (R217). -/
def State.startShootdown (s : State) (d : Shootdown) : State :=
  let stays := fun (e : PermEntry) => !d.meets (vkey e.ctx (BitVec.ofNat 64 (e.page * 65536))) 65536
  let cores := s.cores.map fun (k, c) => (k, { c with perms := c.perms.filter stays })
  let peers := if keySpace d.lo = .control ∧ d.remote = none then
      (List.range s.rackN).filter fun p => p != s.pkg && !s.fabric.lost.contains p else []
  let all := s.shootdowns.map fun (e : Shootdown) =>
    if e.id = d.id then { e with started := true, before := s.nextOp, waiting := peers, drained := decide (d.mode = 2) } else e
  let s1 := State.loseWatches { s with cores := cores, shootdowns := all } d
  if peers.isEmpty then s1 else s1.send (.shootdown d.base d.len d.mode)

/-- Bytes that a compressed stream of a shape takes at most: its header of 64 bytes, and no block longer than its plain
bytes with the largest block header (R281; log 95). -/
def streamBound (d : Shape) : Nat := 64 + 2 * (d.runs 0).foldl (fun n r => n + r.2) 0

/-- The source bytes of a Wherry command that lie in memory: address and length of each run. -/
def Wherry.sources (w : Wherry) : List (Word × Nat) :=
  match w.body with
  | .copy _ s | .comp _ s | .loado _ _ s _ | .moves _ s _ => s.runs 0
  | .gather _ s i | .scatter _ s i => s.runs 0 ++ i.runs 0
  | .decomp dst a => [(a, streamBound dst)]
  | .fill _ _ | .stash _ _ _ _ _ _ | .writes _ | .blocks _ => []

/-- Step 2: no access to the range that issued before the start is still to be performed (R215). -/
def State.drainedFor (s : State) (d : Shootdown) : Bool :=
  let loads := s.pend.any fun p => decide (p.id < d.before) && match Map.find? s.groups p.age, p.kind with
    | some g, .load l => l.addrs.any fun a =>
        l.waits a.1 && !l.isParked a.1 && !l.isSynonym a.1 && d.meets (vkey g.id.ctx a.2) l.size
    | some _, .flush _ _ lines _ => lines.any fun line => d.meets (line * 128) 128
    | _, _ => false
  let stores := s.landing.any fun r => r.lanes.any fun l => !l.landed && !l.faulted && d.meets (r.key l) l.bytes.length
  let engines := s.wherry.any fun w => decide (w.id < d.before) && (w.state == .queued || w.state == .running)
    && (w.left_ ++ w.sources).any fun r => d.meets (vkey w.ctx r.1) r.2
  let atomics := s.remote.any fun r => r.peer == s.pkg && decide (r.id < d.before) && r.lines.any fun l =>
    l.sent && !l.over && l.lanes.any fun p => d.meets p.2.1.toNat 8
  let ferries := s.ferry.any fun c => decide (c.id < d.before) && c.toCome.any fun r => d.meets r.1 r.2
  !(loads || stores || engines || atomics || ferries)

/-- A line of a core's L1 holds pinned bytes: bytes of a store that has not landed (R195). -/
def State.pinnedLine (s : State) (core line : Nat) : Bool :=
  s.pinned core line

/-- Step 3 for one core. -/
def State.shootL1 (s : State) (d : Shootdown) (core : Nat) : State :=
  let s1 := if d.mode = 0 then s.l1Writeback core fun k _ => d.covers k else s
  let s2 := s1.l1Drop core fun k b => d.covers k && ((b.dirty && d.mode != 0) || !s.pinnedLine core (lineOf k))
  s2.onCore core fun c =>
    { c with l1Landed := c.l1Landed.filter fun line => !d.covers (line * 128) }

/-- The lines of the range at the LLC or the control cache. -/
def State.llcLines (s : State) (d : Shootdown) : List Nat :=
  ((s.mem.llc.filter fun p => d.covers p.1).map fun p => lineOf p.1).eraseDups

/-- Step 4 for one line: a mark on it is recalled; dirty bytes go to memory, or, with no translation, are dropped and
counted (R427). -/
def State.shootLine (s : State) (d : Shootdown) (line : Nat) : State :=
  let s0 := s.recallLine line
  let s1 := if d.mode = 0 then
      let t := s0.llcWriteback line
      if (t.mem.dirtyOf line).isEmpty then t else t.rasFree 20
    else s0
  { s1 with mem := s1.mem.llcDrop line }

/-- Step 5. -/
def State.shootXlate (s : State) (d : Shootdown) : State :=
  let cut := fun (l : List PageRun) => l.flatMap fun r => cutRun r (pageOf d.lo) (d.len / 65536)
  { s with mem := { s.mem with xlate := s.mem.xlate.flatMap fun p => (cut [p.2]).map fun r => (p.1, r), owners := cut s.mem.owners } }

/-- Steps 3 to 5. -/
def State.shoot (s : State) (d : Shootdown) : State :=
  let s1 := (s.cores.map (·.1)).foldl (fun t core => t.shootL1 d core) s
  ((s1.llcLines d).foldl (fun t line => t.shootLine d line) s1).shootXlate d

/-- Queue a request. -/
def State.queueShootdown (s : State) (base : Word) (len mode ctx : Nat) (window : Bool) (remote : Option Nat) : State :=
  let d : Shootdown := { id := s.nextOp, base := base, len := len, mode := mode, ctx := ctx, window := window,
                         remote := remote, started := false, before := 0, waiting := [], drained := false }
  { s with nextOp := s.nextOp + 1, shootdowns := s.shootdowns ++ [d] }

/-- A request of the window that waited takes its place once the unit has room (R214, R218). -/
def State.admitWindow (s : State) : State :=
  match s.win.sdWait with
  | none => s
  | some (base, len, mode, ctx) =>
    if s.shootdownRoom then State.queueShootdown { s with win := { s.win with sdWait := none } } base len mode ctx true none
    else s

/-- Step 6, once the package has done its steps and every other package has answered; the end of a request of the window is
signalled (R392; log 96). -/
def State.finishShootdown (s : State) (id : Nat) : State :=
  match s.shootdowns.find? fun d => d.id == id with
  | none => s
  | some d =>
    if d.started && d.drained && d.waiting.isEmpty then
      let s1 := State.admitWindow { s with shootdowns := s.shootdowns.filter fun e => e.id != id }
      match d.remote with
      | none => if d.window then s1.signal 3 else s1
      | some p => s1.send (.shootdownDone p)
    else s

/-- The request that may start: the first of this package's own, one at a time, or one from another package, which waits
for none of these. -/
def State.shootdownNext (s : State) : Option Shootdown :=
  match s.shootdowns.find? fun d => d.remote.isSome && !d.started with
  | some d => some d
  | none => match s.shootdowns.filter (·.remote.isNone) with
    | d :: _ => if d.started then none else some d
    | [] => none

/-- SHOOTDOWN_START (R215). -/
def execShootdownStart (s : State) : Host.Outcome State Fault Refusal :=
  match s.shootdownNext with
  | none => .next s
  | some d => .next ((s.startShootdown d).finishShootdown d.id)

/-- The started request that has drained and not done its steps. -/
def State.shootdownDrained (s : State) : Option Shootdown :=
  s.shootdowns.find? fun d => d.started && !d.drained && s.drainedFor d

/-- SHOOTDOWN_DRAIN_DONE (R215). -/
def execShootdownDrainDone (s : State) : Host.Outcome State Fault Refusal :=
  match s.shootdownDrained with
  | none => .next s
  | some d =>
    let s1 := s.shoot d
    let all := s1.shootdowns.map fun (e : Shootdown) => if e.id = d.id then { e with drained := true } else e
    .next (State.finishShootdown { s1 with shootdowns := all } d.id)

/-- SHOOTDOWN_MGT_REQUEST (R217): another package's control-space request. -/
def execShootdownMgtRequest (src : Nat) (base len : BitVec 64) (mode : Nat) (s : State) :
    Host.Outcome State Fault Refusal :=
  .next (s.queueShootdown base len.toNat mode 0 false (some src))

/-- A package has answered a control-space request, or is lost (R217). -/
def State.shootdownAnswer (s : State) (pkg : Nat) : State :=
  let s1 : State := { s with shootdowns := s.shootdowns.map fun (d : Shootdown) => { d with waiting := d.waiting.filter (· != pkg) } }
  (s1.shootdowns.map (·.id)).foldl (fun t id => t.finishShootdown id) s1

/-- SHOOTDOWN_PACKAGE_ANSWER (R217). -/
def execShootdownPackageAnswer (pkg : Nat) (s : State) : Host.Outcome State Fault Refusal := .next (s.shootdownAnswer pkg)

/-! ## UNMAPV (R214) and SDCTL (R218) -/

/-- The range lies outside the spaces of R214, or not within one. -/
def State.rangeBad (s : State) (base : Word) (len : Nat) : Bool :=
  match space? base with
  | some .tensor => !s.isRemote base && decide (2 ^ 48 < offset48 base + len)
  | some .control | some .priv => decide (2 ^ 48 < offset48 base + len)
  | _ => true

/-- The range is misaligned. -/
def rangeMisaligned (base : Word) (len : Nat) : Bool := decide (base.toNat % 65536 ≠ 0) || decide (len % 65536 ≠ 0)

/-- UNMAPV, held until its request completes. -/
def unmap (s : State) (b a : BitVec 6) (mode : Nat) : Host.Outcome State Fault Refusal :=
  run s fun c => do
    c.needTrapMode
    match c.f.hold with
    | .shootdown _ => .ok (c.finish s id)
    | _ =>
      let base := c.g.s a
      let len := (c.g.s b).toNat
      need (!s.rangeBad base len) (addrTrap .space 32 base)
      need (!s.isRemote base) (addrTrap .remoteDirect 32 base)
      need (!rangeMisaligned base len) (addrTrap .misalign 32 base)
      if len = 0 then .ok (c.finish s id)
      else
        need s.shootdownRoom (.hold .shootdownRoom)
        .ok (c.heldState (s.queueShootdown base len mode c.ctx false none) (.shootdown s.nextOp))

/-- UNMAPV. -/
def execUnmapv (b a : BitVec 6) (s : State) : Host.Outcome State Fault Refusal := unmap s b a 0

/-- UNMAPV.discard. -/
def execUnmapvDiscard (b a : BitVec 6) (s : State) : Host.Outcome State Fault Refusal := unmap s b a 1

/-- UNMAPV.rights. -/
def execUnmapvRights (b a : BitVec 6) (s : State) : Host.Outcome State Fault Refusal := unmap s b a 2

/-- BUSY of SDCTL: the window's request is queued, or waits for a place, or runs. -/
def State.sdBusy (s : State) : Bool := s.win.sdWait.isSome || s.shootdowns.any (·.window)

/-- A write of SDCTL (Table 8.16): a GO while BUSY is 1 is ignored but for OVR. -/
def State.writeSdctl (s : State) (v : Word) : State :=
  if v.getLsbD 0 && s.sdBusy then { s with win := { s.win with sdOvr := true } }
  else
    let ctx := v.toNat / 2 ^ 20 % 4096
    let mode := v.toNat / 4 % 4
    let s1 := { s with win := { s.win with sdCtx := ctx, sdMode := mode, sdOvr := s.win.sdOvr && !v.getLsbD 6,
                                           sdErr := s.win.sdErr && !v.getLsbD 5 } }
    if !v.getLsbD 0 then s1
    else
      let len := s.win.sdLen.toNat
      if mode = 3 || s.rangeBad s.win.sdBase len || s.isRemote s.win.sdBase || rangeMisaligned s.win.sdBase len then
        { s1 with win := { s1.win with sdErr := true } }
      else if len = 0 then s1
      else State.admitWindow { s1 with win := { s1.win with sdWait := some (s.win.sdBase, len, mode, ctx) } }

/-- SDCTL_GO (R218): a control core writes SDCTL with GO = 1. -/
def execSdctlGo (value : BitVec 64) (s : State) : Host.Outcome State Fault Refusal := .next (s.writeSdctl (value ||| 1))

/-! ## Walks (R192, R199, R426) -/

/-- RIGHTS_WALK_COMPLETE (R192): a rights walker caches the rights of a page. -/
def execRightsWalkComplete (core ctx : Nat) (addr : BitVec 64) (s : State) : Host.Outcome State Fault Refusal :=
  let a : Access := { lane := 32, addr := addr, size := 1 }
  if a.hasRights && !s.underShootdown addr.toNat then .next (s.rights core ctx addr).2 else .next s

/-- TRANSLATION_WALK (R199): a unit walks a page; a good walk that the frame table admits is installed. -/
def execTranslationWalk (ctx : Nat) (addr : BitVec 64) (s : State) : Host.Outcome State Fault Refusal :=
  let vk := vkey ctx addr
  let here := match space? addr with
    | some .tensor => !s.isRemote addr
    | some .control | some .priv => true
    | _ => false
  if !here || s.underShootdown vk then .next s
  else match s.translate vk with
    | .ok (_, s1) => .next s1
    | .error _ => .next s

/-! ## The fault queue's registers (R201, Table 8.11) -/

/-- FAULT_RECORD_RETRY (R201): the device tries to write the records that wait. -/
def execFaultRecordRetry (s : State) : Host.Outcome State Fault Refusal := .next s.fqDrain

/-- Write FQBASE, FQSIZE or FQCONS, and try again to write the records that wait. -/
def State.writeFaultReg (s : State) (off : Nat) (v : Word) : State :=
  match off with
  | 0x010 => State.fqDrain { s with win := { s.win with fqBase := v } }
  | 0x018 => State.fqDrain { s with win := { s.win with fqSize := v &&& 0x1F } }
  | 0x028 => State.fqDrain { s with win := { s.win with fqCons := v } }
  | _ => s

/-- FAULT_QUEUE_REG_WRITE. -/
def execFaultQueueRegWrite (off : Nat) (value : BitVec 64) (s : State) : Host.Outcome State Fault Refusal :=
  .next (s.writeFaultReg off value)

end Sys2Proof.Machine
end

