-- ==== Sys2Proof/Machine/Anvil.lean ====
section
/-! DEFINITION. Operand memory, the accumulator store, the format word, K-steps, drains, and the order of operations on slots
and tiles (R294, R300, R302 to R312, R318 to R325, R333). -/

namespace Sys2Proof.Machine

/-! ## Slots and tiles (Table 12.1) -/

/-- An unclaimed slot that holds zeros. -/
def Slot.empty : Slot := { data := [], owner := none, ro := none, tag := 0 }

/-- An unclaimed tile that holds zeros. -/
def Tile.empty : Tile := { data := [], owner := none, i32 := false, rv := 0 }

/-- An operand slot of a core. -/
def State.operand (s : State) (core n : Nat) : Slot := Map.get Slot.empty (s.core core).slots n

/-- An accumulator tile of a core. -/
def State.tile (s : State) (core n : Nat) : Tile := Map.get Tile.empty (s.core core).tiles n

/-- Change a slot. -/
def State.onOperand (s : State) (core n : Nat) (f : Slot → Slot) : State :=
  s.onCore core fun c => { c with slots := Map.set Slot.empty c.slots n (f (Map.get Slot.empty c.slots n)) }

/-- Change a tile. -/
def State.onTile (s : State) (core n : Nat) (f : Tile → Tile) : State :=
  s.onCore core fun c => { c with tiles := Map.set Tile.empty c.tiles n (f (Map.get Tile.empty c.tiles n)) }

/-- Write bytes of a slot, and forget the poison of the words written whole. -/
def State.slotWrite (s : State) (core n off : Nat) (l : List Byte) : State :=
  let s1 := s.onOperand core n fun o => { o with data := Map.setRun 0 o.data off l }
  { s1 with mem := { s1.mem with poison := clearWords s1.mem.poison (fun i => poisonSlot core (16384 * n + i)) off l.length } }

/-- A map of n keys as an array. -/
def cellsArray {α : Type} (d : α) (n : Nat) (m : Cells α) : Array α :=
  m.foldl (fun a p => a.setIfInBounds p.1 p.2) (Array.replicate n d)

/-- An array as a map that lists no default. -/
def arrayCells {α : Type} [DecidableEq α] (d : α) (a : Array α) : Cells α :=
  ((List.range a.size).zip a.toList).filter fun p => !decide (p.2 = d)

/-- The element of w bits at a bit offset of packed bytes (R74). -/
def packedAt (a : Array Byte) (bit w : Nat) : Nat :=
  let b := fun i => ((a[bit / 8 + i]?).getD 0).toNat
  (b 0 + 256 * b 1 + 65536 * b 2) / 2 ^ (bit % 8) % 2 ^ w

/-! ## The format word (R302 to R304) -/

/-- Format of a code of AF or BF. -/
def matFmt : Nat → Fmt
  | 0 => .e4m3
  | 1 => .e5m2
  | 2 => .e2m1
  | 3 => .lg6
  | 4 => .bf16
  | 5 => .fp16
  | _ => .int8

/-- K class of a code (R303). -/
def kClass : Nat → Nat
  | 0 | 1 => 0
  | 6 => 1
  | 4 | 5 => 2
  | _ => 3

/-- AF. -/
def fwA (w : Nat) : Nat := w % 16
/-- BF. -/
def fwB (w : Nat) : Nat := w / 16 % 16
/-- SCALE is BS8. -/
def fwScale (w : Nat) : Bool := decide (w / 2 ^ 8 % 4 = 1)
/-- SPARSE. -/
def fwSparse (w : Nat) : Nat := w / 2 ^ 10 % 4
/-- MODE is precise. -/
def fwPrecise (w : Nat) : Bool := decide (w / 2 ^ 12 % 4 = 1)
/-- AT. -/
def fwAT (w : Nat) : Bool := decide (w / 2 ^ 14 % 2 = 1)
/-- BT. -/
def fwBT (w : Nat) : Bool := decide (w / 2 ^ 15 % 2 = 1)
/-- ACC is i32. -/
def fwInt (w : Nat) : Bool := decide (w / 2 ^ 16 % 16 = 1)

/-- The word fails its vote on its own, in an MMA or MMAS to a tile of a type (R303). -/
def formatBad (w : Nat) (sparse i32 : Bool) : Bool :=
  decide (w / 2 ^ 20 ≠ 0) || decide (1 < w / 2 ^ 16 % 16) || decide (1 < w / 2 ^ 12 % 4) || decide (fwSparse w = 3)
    || decide (1 < w / 2 ^ 8 % 4) || decide (6 < fwA w) || decide (6 < fwB w) || kClass (fwA w) != kClass (fwB w)
    || fwInt w != decide (fwA w = 6) || (fwScale w && (decide (3 < fwA w) || decide (3 < fwB w)))
    || decide (fwSparse w ≠ 0) != sparse || (decide (fwSparse w ≠ 0) && fwAT w) || fwInt w != i32

/-- Kd (Table 12.4). -/
def fwKd (w : Nat) : Nat :=
  match kClass (fwA w) with
  | 0 | 1 => 64
  | 2 => 32
  | _ => 128

/-- Logical K of one step. -/
def fwK (w : Nat) : Nat := fwKd w * 2 ^ fwSparse w

/-- Bytes of one A step. -/
def fwStep (w : Nat) : Nat := 8 * fwKd w * (matFmt (fwA w)).width

/-- KC: B rows in a slot. -/
def fwKC (w : Nat) : Nat := if fwB w = 3 then 64 else fwKd w

/-- b: slots of one step's B. -/
def fwSlots (w : Nat) : Nat := fwK w / fwKC w

/-- Largest S. -/
def fwLargest (w : Nat) : Nat := if fwA w = 3 then 2 else if fwScale w then 3 else 4

/-! ## One K-step (R307 to R309) -/

/-- Stored A element t of row m in step j. -/
def aStored (w : Nat) (a : Array Byte) (j m t : Nat) : Nat :=
  let n := (matFmt (fwA w)).width
  packedAt a (8 * j * fwStep w + (if fwAT w then t * 64 + m else m * fwKd w + t) * n) n

/-- The kept element of a row that names logical position k, the last one (R308). -/
def keptAt (w : Nat) (side : Array Byte) (j m k : Nat) : Option Nat :=
  let q := if fwSparse w = 1 then 4 else 2
  ((List.range q).map fun i => k / 8 * q + i).foldl (fun best t =>
    if packedAt side (3 * (j * 64 * fwKd w + m * fwKd w + t)) 3 = k % 8 then some t else best) none

/-- Logical A element k of row m in step j: zero where no kept element names it (R308).  DESIGN CHOICE (log 109): that zero is
multiplied as R309 writes it, and not left out as R81's 'contributes +0' could be read. -/
def aLogical (w : Nat) (a side : Array Byte) (j m k : Nat) : Nat :=
  if fwSparse w = 0 then aStored w a j m k
  else match keptAt w side j m k with
    | some t => aStored w a j m t
    | none => 0

/-- B element (k, n) of step j from the run. -/
def bElem (w : Nat) (run : Nat → Array Byte) (j k n : Nat) : Nat :=
  let kc := fwKC w
  let kk := k % kc
  let e := (matFmt (fwB w)).width
  packedAt (run (j * fwSlots w + k / kc)) ((if fwBT w then n * kc + kk else kk * 192 + n) * e) e

/-- Scale of an A element. -/
def aScale (w : Nat) (a : Array Byte) (steps j m k : Nat) : Option Nat :=
  if fwScale w then
    some ((a[12288 + m * (steps * fwK w / 32) + j * fwK w / 32 + k / 32]?).getD 0).toNat
  else none

/-- Scale of a B element. -/
def bScale (w : Nat) (run : Nat → Array Byte) (j k n : Nat) : Option Nat :=
  if fwScale w then
    some (((run (j * fwSlots w + k / fwKC w))[12288 + n * fwKC w / 32 + k % fwKC w / 32]?).getD 0).toNat
  else none

/-- One entry after a step: anvil_dot (R81), or the wrapping sum (R83).  A pruned position is a product of +0 with its B element
and the scales, −0, or NaN, where that is (DESIGN CHOICE, log 109). -/
def stepEntry (w : Nat) (a side : Array Byte) (run : Nat → Array Byte) (steps j m n : Nat) (acc : Lane) : Lane × Flags :=
  let k := fwK w
  if fwInt w then
    let sum := (List.range k).foldl (fun (z : Int) i =>
      z + intOf 8 true (aLogical w a side j m i) * intOf 8 true (bElem w run j i n)) 0
    (acc + BitVec.ofInt 32 sum, 0#4)
  else
    let g := if fwPrecise w then 2 else 8
    let r := (List.range (k / g)).foldl (fun (s : Nat × Flags) i =>
      let ps := (List.range g).map fun d =>
        let q := i * g + d
        anvilProduct (matFmt (fwA w)) (matFmt (fwB w)) (aLogical w a side j m q) (bElem w run j q n)
          (aScale w a steps j m q) (bScale w run j q n)
      let (x, fl) := anvilGroup s.1 ps
      (x, s.2 ||| fl)) (acc.toNat, 0#4)
    (BitVec.ofNat 32 r.1, r.2)

/-- A step on the valid rows of a tile. -/
def stepTile (w : Nat) (a side : Array Byte) (run : Nat → Array Byte) (steps j : Nat) (rows : Word) (t : Array Lane) :
    Array Lane × Flags :=
  ((List.range 64).filter fun m => rows.getLsbD m).foldl (fun acc m =>
    (List.range 192).foldl (fun (acc : Array Lane × Flags) n =>
      let i := 192 * m + n
      let (x, fl) := stepEntry w a side run steps j m n ((acc.1[i]?).getD 0)
      (acc.1.setIfInBounds i x, acc.2 ||| fl)) acc) (t, 0#4)

/-! ## Conversions of a tile (R321, R325) -/

/-- An entry of a tile. -/
def tileEntry (t : Array Lane) (m n : Nat) : Nat := ((t[192 * m + n]?).getD 0).toNat

/-- A block of 32 entries converted with its scale, or each entry on its own; code list, scale and flags. -/
def convertBlock (f : Fmt) (bs8 : Bool) (mode : Mode) (xs : List Nat) : List Nat × Nat × Flags :=
  let vs := xs.map (value .fp32)
  if bs8 then
    let (s, fl) := bs8Scale f vs
    let cs := vs.map (bs8Element f mode s)
    (cs.map (·.1), s, cs.foldl (fun a c => a ||| c.2) fl)
  else
    let cs := vs.map (roundVal f mode 0)
    (cs.map (·.1), 0, cs.foldl (fun a c => a ||| c.2) 0#4)

/-- Blocks of 32 of a row of n entries. -/
def blocksOf (f : Fmt) (bs8 : Bool) (mode : Mode) (n : Nat) (row : Nat → Nat) : List (List Nat × Nat × Flags) :=
  (List.range (n / 32)).map fun b => convertBlock f bs8 mode ((List.range 32).map fun i => row (32 * b + i))

/-- What ADRAIN.o writes: byte offsets and bytes, and the flags (R321). -/
def drainBytes (t : Array Lane) (f : Fmt) (bs8 tr : Bool) (mode : Mode) : List (Nat × Byte) × Flags :=
  let rows := (List.range 64).map fun m => (m, blocksOf f bs8 mode 192 fun n => tileEntry t m n)
  let codes := rows.flatMap fun r => ((List.range 192).zip (r.2.flatMap (·.1))).map fun p =>
    let k := p.1 % 64
    (4096 * (p.1 / 64) + (if tr then 64 * k + r.1 else 64 * r.1 + k), BitVec.ofNat 8 p.2)
  let scales := if bs8 then rows.flatMap fun r => ((List.range 6).zip r.2).map fun p =>
      (12288 + 6 * r.1 + p.1, BitVec.ofNat 8 p.2.2.1) else []
  (codes ++ scales, rows.foldl (fun a r => r.2.foldl (fun b x => b ||| x.2.2) a) 0#4)

/-- A list of codes of w bits packed into bytes (R74). -/
def packBytes (w : Nat) (codes : List Nat) : List Byte :=
  let v := codes.foldr (fun c acc => c % 2 ^ w + 2 ^ w * acc) 0
  valBytes (codes.length * w / 8) v

/-- One copy of ASTASH: the bytes of each row, its scales, and the flags (R325).  `fmt` is a code of Table 11.2. -/
def stashCopy (t : Array Lane) (fmt : Nat) (bs8 tr : Bool) (mode : Mode) : List (List Byte) × List Byte × Flags :=
  let w := (fmtWidth fmt).getD 8
  let n := if tr then 64 else 192
  let entry := fun r c => if tr then tileEntry t c r else tileEntry t r c
  let rows := (List.range (if tr then 192 else 64)).map fun r =>
    if fmt < 6 then blocksOf (matFmt fmt) bs8 mode n (entry r)
    else [((List.range n).map (entry r), 0, 0#4)]
  (rows.map fun r => packBytes w (r.flatMap (·.1)),
   if bs8 then rows.flatMap fun r => r.map fun b => BitVec.ofNat 8 b.2.1 else [],
   rows.foldl (fun a r => r.foldl (fun b x => b ||| x.2.2) a) 0#4)

/-! ## The order of operations (R300) -/

/-- Slots that an operation reads. -/
def ObjectOp.reads : ObjectOp → List Nat
  | .mma sparse _ bs run _ _ parts =>
    (List.range run).map (bs + ·) ++ parts.flatMap fun p => if sparse then [p.slotA, p.side] else [p.slotA]
  | .oget slot _ _ _ _ => [slot]
  | _ => []

/-- Slots that an operation writes. -/
def ObjectOp.writes : ObjectOp → List Nat
  | .drainO _ slot _ _ _ _ | .oput slot _ _ => [slot]
  | .engine (some slot) _ _ => [slot]
  | _ => []

/-- Tiles that an operation acts on. -/
def ObjectOp.tiles : ObjectOp → List Nat
  | .mma _ _ _ _ _ _ parts => parts.map (·.tile)
  | .azero tile | .drainO tile _ _ _ _ _ | .drainV tile _ _ _ _ => [tile]
  | .guided c u _ _ _ _ _ _ => [c, u]
  | .engine _ (some tile) _ => [tile]
  | _ => []

/-- Two lists of numbers share one. -/
def meets (a b : List Nat) : Bool := a.any b.contains

/-- An operation waits for an earlier one. -/
def ObjectOp.waitsFor (e d : ObjectOp) : Bool :=
  meets d.writes (e.reads ++ e.writes) || meets d.reads e.writes || meets d.tiles e.tiles

/-- No operation before the one of a number in a list keeps it from its objects. -/
def objectFree (op : ObjectOp) (id : Nat) : List ObjectEntry → Bool
  | [] => true
  | d :: l => if d.id = id then true else !op.waitsFor d.op && objectFree op id l

/-- The operation may act now. -/
def State.objectReady (s : State) (core : Nat) (e : ObjectEntry) : Bool := objectFree e.op e.id (s.core core).aops

/-- An operation leaves the list. -/
def State.dropObject (s : State) (core id : Nat) : State :=
  s.onCore core fun c => { c with aops := c.aops.filter fun e => e.id != id }

/-- An open operation of a group has finished, with flags (R311). -/
def State.finishOpen (s : State) (age op : Nat) (fp : Flags) : State :=
  s.onGroup age fun g => { g.orFp fp with work := g.work.forgetOp op }

/-- Forget the poison of a tile's words. -/
def State.cleanTile (s : State) (core tile : Nat) : State :=
  { s with mem := { s.mem with poison := s.mem.poison.filter fun p =>
      !(decide (poisonTile core (49152 * tile) ≤ p) && decide (p < poisonTile core (49152 * (tile + 1)))) } }

/-- Perform a ready operation of the operand-memory port: a write of OPUT, a clear, a drain, or a read. -/
def State.performObject (s : State) (core : Nat) (e : ObjectEntry) : State :=
  let s1 := s.dropObject core e.id
  match e.op with
  | .oput slot _ data => data.foldl (fun t p => t.slotWrite core slot p.1 (valBytes 4 p.2.toNat)) s1
  | .azero tile =>
    ((s1.onTile core tile fun t => { t with data := [], rv := 0 }).cleanTile core tile).finishOpen e.age e.id 0#4
  | .drainO tile slot fmt bs8 tr mode =>
    let (l, fl) := drainBytes (cellsArray 0 12288 (s.tile core tile).data) (if fmt = 1 then .e5m2 else .e4m3) bs8 tr
      (Mode.ofCode mode)
    let s2 := s1.onOperand core slot fun o =>
      let a := l.foldl (fun a p => a.setIfInBounds p.1 p.2) (cellsArray 0 16384 o.data)
      { o with data := arrayCells 0 a }
    s2.finishOpen e.age e.id fl
  | .oget slot off reg count lanes =>
    let o := s.operand core slot
    s1.onPend e.id (.result (runCells reg (lanesOf lanes) count fun l j =>
      BitVec.ofNat 32 (bytesVal (Map.getRun 0 o.data (off + 128 * j + 4 * l) 4))) [] 0#4)
  | .drainV tile row0 rows reg lanes =>
    let t := s.tile core tile
    s1.onPend e.id (.result (runCells reg (lanesOf lanes) (6 * rows) fun l j =>
      Map.get 0 t.data (192 * (row0 + j / 6) + 6 * l + j % 6)) [] 0#4)
  | _ => s

/-- The operation acts through the operand-memory port as soon as it is ready. -/
def ObjectOp.atPort : ObjectOp → Bool
  | .oput _ _ _ | .azero _ | .drainO _ _ _ _ _ _ | .oget _ _ _ _ _ | .drainV _ _ _ _ _ => true
  | .mma _ _ _ _ _ _ _ | .guided _ _ _ _ _ _ _ _ | .engine _ _ _ => false

/-- Perform what is ready at the port, in the order of reach. -/
def State.pumpObjects (s : State) (core : Nat) : State :=
  (s.core core).aops.foldl (fun t e =>
    if e.op.atPort && t.objectReady core e then t.performObject core e else t) s

/-- An operation reaches its objects. -/
def State.reachObject (s : State) (core : Nat) (e : ObjectEntry) : State :=
  (s.onCore core fun c => { c with aops := c.aops ++ [e] }).pumpObjects core

/-! ## The array (R309, R318) -/

/-- The class of an entry heads it: no earlier queued entry has it. -/
def classHead (e : ObjectEntry) : List ObjectEntry → Bool
  | [] => true
  | d :: l => if d.id = e.id then true else !(d.queued && d.cls == e.cls) && classHead e l

/-- The entry of highest class. -/
def highest : List ObjectEntry → Option ObjectEntry
  | [] => none
  | e :: l => match highest l with
    | none => some e
    | some d => some (if e.cls < d.cls then d else e)

/-- The operation whose K-step runs next: of the heads of the classes that need not wait, the one of highest class. -/
def State.arrayNext (s : State) (core : Nat) : Option ObjectEntry :=
  let l := (s.core core).aops
  highest (l.filter fun e => e.queued && classHead e l && s.objectReady core e)

/-- The array has started an operation and stops it for one of a higher class: a trace record (Table 15.11). -/
def State.traceStop (s : State) (core next : Nat) : State :=
  match (s.core core).running with
  | none => s
  | some r =>
    if r = next then s
    else match (s.core core).aops.find? fun e => e.id == r with
      | some e => match e.op with
        | .mma _ _ _ _ _ _ (p :: _) => match Map.find? s.groups p.age with
          | some g => s.traceRecord (s.sessionOf g) false p.pc p.lanes g.who 10 (BitVec.ofNat 64 p.tile)
          | none => s
        | _ => s
      | none => s

/-- One step of an MMA for each of its members. -/
def State.runStep (s : State) (core : Nat) (fmt : Nat) (bs steps j : Nat) (parts : List MmaPart) : State :=
  let run := fun i => cellsArray 0 16384 (s.operand core (bs + i)).data
  parts.foldl (fun t p =>
    let a := cellsArray 0 16384 (s.operand core p.slotA).data
    let side := cellsArray 0 16384 (s.operand core p.side).data
    let (x, fl) := stepTile fmt a side run steps j p.rows (cellsArray 0 12288 (t.tile core p.tile).data)
    (t.onTile core p.tile fun k => { k with data := arrayCells 0 x }).onGroup p.age (·.orFp fl)) s

/-- ARRAY_K_STEP (R318): the array runs one K-step of the operation it chooses; after the last one the operation is done. -/
def execArrayKStep (core : Nat) (s : State) : Host.Outcome State Fault Refusal :=
  match s.arrayNext core with
  | none => .next s
  | some e => match e.op with
    | .mma sparse fmt bs run steps next parts =>
      let s1 := (s.traceStop core e.id).runStep core fmt.toNat bs steps next parts
      let s2 := s1.onCore core fun c => { c.count 0x0307 (64 * parts.length) with running := some e.id }
      if next + 1 < steps then
        let op := ObjectOp.mma sparse fmt bs run steps (next + 1) parts
        .next (s2.onCore core fun c => { c with aops := c.aops.map fun d => if d.id == e.id then { d with op := op } else d })
      else
        let s3 := parts.foldl (fun t p =>
          (t.onTile core p.tile fun k => { k with rv := k.rv ||| p.rows }).finishOpen p.age p.op 0#4) s2
        let s4 := s3.onCore core fun c => { c with running := none }
        .next ((s4.dropObject core e.id).pumpObjects core)
    | _ => .next s

/-! ## Guided drains (R333) -/

/-- A row of the guided tile: entries and flags. -/
def guideRow (w : Lane) (vc vu : Bool) (c u : Lane) : Lane × Flags :=
  if vc && vu then
    let d := fsub .fp32 .rne c.toNat u.toNat
    let r := fma .fp32 .rne false w.toNat d.1 u.toNat
    (BitVec.ofNat 32 r.1, d.2 ||| r.2)
  else if vu then (u, 0#4)
  else if vc then (c, 0#4)
  else (0, 0#4)

/-- The guided tile: every entry, and the flags. -/
def guideTile (w : Lane) (rc ru : Word) (c u : Array Lane) : Array Lane × Flags :=
  (List.range 12288).foldl (fun (acc : Array Lane × Flags) i =>
    let cell := fun (a : Array Lane) => (a[i]?).getD 0
    let (x, fl) := guideRow w (rc.getLsbD (i / 192)) (ru.getLsbD (i / 192)) (cell c) (cell u)
    (acc.1.setIfInBounds i x, acc.2 ||| fl)) (c, 0#4)

/-- GUIDED_DRAIN (R333): the first guided drain whose tiles are free extrapolates into the conditional member's tile. -/
def execGuidedDrain (core : Nat) (s : State) : Host.Outcome State Fault Refusal :=
  let ready := (s.core core).aops.find? fun e => s.objectReady core e && match e.op with
    | .guided _ _ _ _ _ _ _ _ => true
    | _ => false
  match ready with
  | none => .next s
  | some e => match e.op with
    | .guided tc tu w ageC ageU opC opU _ =>
      let c := s.tile core tc
      let u := s.tile core tu
      let (x, fl) := guideTile w c.rv u.rv (cellsArray 0 12288 c.data) (cellsArray 0 12288 u.data)
      let s1 := s.onTile core tc fun t => { t with data := arrayCells 0 x, rv := c.rv ||| u.rv }
      let s2 := (s1.finishOpen ageC opC fl).finishOpen ageU opU 0#4
      .next ((s2.dropObject core e.id).pumpObjects core)
    | _ => .next s

/-! ## Batches (R311) -/

/-- Batches at the front whose operations have finished complete, in order. -/
def Group.settleBatches (g : Group) : Group :=
  let done := g.work.batches.takeWhile (·.ops.isEmpty)
  let w := done.foldl (fun (w : Work) b => w.finish .an b.num) g.work
  { g with work := { w with batches := g.work.batches.drop done.length } }

/-- BATCH_COMPLETE. -/
def execBatchComplete (age : Nat) (s : State) : Host.Outcome State Fault Refusal := .next (s.onGroup age (·.settleBatches))

/-- Close a group's open operations into a batch, which counts on AN; one without operations is complete at once. -/
def Group.closeBatch (g : Group) (op : Nat) : Group :=
  let w := g.work.start .an op
  let g1 := { g with work := { w with batchCount := (w.batchCount + 1) % 2 ^ 64, openOps := [],
                                      batches := w.batches ++ [{ num := op, ops := w.openOps }] } }
  if g.work.openOps.isEmpty && g.work.batches.isEmpty then g1.settleBatches else g1

end Sys2Proof.Machine
end

