-- ==== Sys2Proof/Machine/Interlock.lean ====
section
/-! DEFINITION. Operand interlocks: the registers that each instruction names, and the cycles after which the results of the
instructions of fixed latency can be used (R92, R95, R121, R133, R140, R142, Tables 4.3, 5.1 and 6.4).

The latencies are the spec's implementation figures.  They delay an issue and change no result (R95).  Log 111 says what
the rules leave open here. -/

namespace Sys2Proof.Machine

/-- What an instruction names.  `v` is a run of vector registers in the fragment's lanes and `row` one in every lane; `anyV`
is every vector register; `m` is the fragment's bits of a mask register and `whole` all of them; `k` is the base register
of a shape record; `drain` and `stash` are the registers that ADRAIN.v writes and ASTASH reads; `every` stands for every
earlier instruction of fixed latency. -/
inductive Named where
  | none
  | s (n : BitVec 6)
  | c (n : BitVec 2)
  | m (n : Nat)
  | whole (n : Nat)
  | v (n len : Nat)
  | row (n len : Nat)
  | anyV
  | k (n : BitVec 3)
  | drain (d b : BitVec 6)
  | stash (copies : BitVec 2) (bs8 : Bool) (p q : BitVec 3)
  | every
  deriving DecidableEq, Repr

/-- The vb operand: a run of vector registers, or with X = 1 a scalar register (R48). -/
def operandB (x : Bool) (b : BitVec 7) (n : Nat) : Named := if x then .s (b.setWidth 6) else .v b.toNat n

/-- The lane offset of format M (R184). -/
def offset (o : BitVec 7) : Named := if o = 0x7F#7 then .none else .v o.toNat 1

/-- SRD and SWR of FPSTAT wait for every earlier instruction of fixed latency (R140). -/
def special (n : BitVec 12) : Named := if n = 0x011#12 then .every else .none

/-- Registers of a lane's datum of LD and ST (Table 8.2). -/
def laneRegs (s : BitVec 3) : Nat := if s.toNat < 5 then 1 else if s = 5#3 then 2 else 4

/-- Registers that a conversion reads and writes, and those that hold its random bits (R155, R157). -/
def convRuns (p : BitVec 7) : Nat × Nat × Nat :=
  let (src, dst) := cvtPair p
  let (n, m, k) := cvtRuns src dst
  (m, k, (n + 1) / 2)

/-- Vector registers that a field names: a run of `len`. -/
def va (w lo n len : Nat) : Named := .v (fld w lo n).toNat len

/-- The scalar register that a field names. -/
def sc (w lo : Nat) : Named := .s (fld w lo 6)

/-- The vb operand of formats V3, X and their like. -/
def vb (w len : Nat) : Named := operandB (bit w 31) (fld w 21 7) len

/-- The word is a VMOV of a register to itself, which reads and writes nothing (R46). -/
def movesNothing (w : Nat) : Bool := w % 32 == 0 && !bit w 15 && (fld w 10 5 : BitVec 5) == fld w 5 5

/-- What the instruction of a word names, by its major and minor (Tables 2.3 and 2.5); a word of no instruction
names nothing, or what others of its major name (log 111). -/
def named (w : Nat) : List Named :=
  if w % 2 = 0 then
    if movesNothing w then [] else match w / 2 % 16 with
    | 0xF => [va w 5 5 1]
    | _ => [operandB (bit w 15) ((fld w 10 5).setWidth 7) 1, va w 5 5 1]
  else match w / 2 % 64 with
  | 0x01 =>
    match w / 2 ^ 25 % 128 with
    | 0x0 | 0x1 | 0x2 | 0x3 | 0x4 | 0x5 | 0x6 | 0x7 | 0x8 | 0x9 | 0xA | 0xB | 0xC | 0xD | 0xE | 0xF | 0x16 | 0x17 | 0x18 =>
      [sc w 13, sc w 19, sc w 7]
    | 0x10 | 0x11 | 0x12 | 0x13 => [sc w 13, sc w 19, .c (fld w 25 2), sc w 7]
    | 0x14 | 0x15 | 0x1A => [sc w 13, sc w 7]
    | 0x19 => [sc w 13, sc w 19, .c (fld w 7 2)]
    | _ => []
  | 0x02 =>
    match w / 2 ^ 28 % 16 with
    | 0x0 | 0x1 | 0x2 | 0x3 | 0x4 | 0x5 | 0x6 | 0x7 | 0x8 | 0x9 => [sc w 13, sc w 7]
    | 0xA => [sc w 13, .c (fld w 7 2)]
    | _ => []
  | 0x03 | 0x2D => [sc w 7]
  | 0x04 => if bit w 10 then [.c (fld w 8 2)] else []
  | 0x05 => [.m (fld w 7 2).toNat]
  | 0x06 =>
    match w / 2 ^ 25 % 128 with
    | 0x1 | 0x3 => [sc w 7]
    | _ => []
  | 0x07 => [sc w 7, special (fld w 13 12)]
  | 0x08 | 0x09 | 0x10 | 0x14 => [va w 14 7 1, vb w 1, va w 7 7 1]
  | 0x0A =>
    match w / 2 ^ 28 % 8 with
    | 0x0 => [va w 14 7 1, va w 7 7 1]
    | 0x1 | 0x2 | 0x3 => [va w 14 7 1, vb w 1, va w 7 7 1]
    | 0x4 | 0x5 => [va w 14 7 1, vb w 1, va w 7 7 1, .m 7]
    | _ => []
  | 0x0B =>
    match w / 2 ^ 21 % 8 with
    | 0x0 | 0x1 | 0x2 | 0x3 | 0x4 | 0x5 | 0x6 => [va w 14 7 1, va w 7 7 1]
    | 0x7 => [va w 7 7 1]
    | _ => []
  | 0x0C | 0x0D => [va w 13 6 1, va w 19 6 1, va w 7 6 1]
  | 0x0E => [va w 14 7 1, vb w 1, .m (fld w 7 3).toNat]
  | 0x0F =>
    match w / 2 ^ 28 % 8 with
    | 0x0 => [va w 14 7 1, vb w 1, va w 7 7 1, .m 6]
    | 0x1 => [sc w 21, .row (fld w 14 7).toNat 1, sc w 7]
    | 0x2 | 0x4 => [.anyV, vb w 1]
    | 0x3 | 0x5 => [vb w 1, va w 7 7 1]
    | _ => []
  | 0x11 => [va w 13 6 1, va w 19 6 1, va w 25 6 1, va w 7 6 1]
  | 0x12 =>
    match w / 2 ^ 28 % 8 with
    | 0x0 | 0x1 | 0x2 | 0x3 | 0x4 => [va w 14 7 1, va w 7 7 1]
    | 0x5 => [va w 14 7 1, vb w 1, .m (fld w 7 3).toNat]
    | _ => []
  | 0x13 | 0x15 => [va w 14 7 2, vb w 2, va w 7 7 2]
  | 0x16 => [va w 14 7 1, va w 7 7 1]
  | 0x17 =>
    match w / 2 ^ 28 % 8 with
    | 0x0 => [va w 14 7 1, va w 7 7 1]
    | 0x1 | 0x2 => [va w 14 7 1, vb w 1, va w 7 7 1]
    | _ => []
  | 0x18 =>
    let (src, dst, random) := convRuns (fld w 21 7)
    [va w 14 7 src, va w 7 7 (dst + if fld w 28 3 = 4#3 then random else 0)]
  | 0x19 =>
    match w / 2 ^ 28 % 8 with
    | 0x0 | 0x1 | 0x2 | 0x3 | 0x4 | 0x5 => [sc w 21, va w 14 7 1, va w 7 7 1]
    | 0x6 => [va w 14 7 (packWidth (fld w 21 2)).2, va w 7 7 1]
    | 0x7 => [va w 14 7 1, va w 7 7 (packWidth (fld w 21 2)).2]
    | _ => []
  | 0x1A => [sc w 21, .s (fld w 21 6 + 1), va w 14 7 1, va w 7 7 1]
  | 0x1C =>
    match w / 2 ^ 28 % 8 with
    | 0x0 | 0x1 | 0x2 | 0x3 => [.row (fld w 14 7).toNat 1, va w 7 7 1]
    | 0x4 => [.row (fld w 14 7).toNat 1, vb w 1, va w 7 7 1]
    | 0x5 => [.row (fld w 14 7).toNat 1, if bit w 31 then sc w 21 else .none, va w 7 7 1]
    | _ => []
  | 0x1D =>
    match w / 2 ^ 28 % 8 with
    | 0x0 | 0x1 | 0x2 => [va w 14 7 1, va w 7 7 1]
    | 0x3 => [va w 14 7 1, sc w 7]
    | _ => []
  | 0x1E =>
    match w / 2 ^ 25 % 128 with
    | 0x0 | 0x1 => [va w 7 6 ((fld w 17 2).toNat + 1)]
    | 0x2 => [.row (fld w 7 6).toNat 1]
    | _ => []
  | 0x1F =>
    match w / 2 ^ 25 % 128 with
    | 0x0 | 0x1 | 0x2 => [.whole (fld w 19 3).toNat, .whole (fld w 13 3).toNat, .whole (fld w 7 3).toNat]
    | 0x3 => [.whole (fld w 13 3).toNat, .whole (fld w 7 3).toNat]
    | 0x4 | 0x5 | 0x7 => [.whole (fld w 13 3).toNat, sc w 7]
    | 0x6 => [sc w 13, .whole (fld w 7 3).toNat]
    | 0x8 => [sc w 7]
    | _ => []
  | 0x20 | 0x21 => [va w 7 7 (laneRegs (fld w 28 3)), offset (fld w 20 7), sc w 14]
  | 0x22 | 0x23 | 0x2E | 0x34 => [sc w 13, sc w 7]
  | 0x24 => [va w 7 7 (if bit w 30 then 2 else 1), offset (fld w 20 7), sc w 14]
  | 0x25 => [offset (fld w 20 7), sc w 14]
  | 0x26 =>
    match w / 2 ^ 25 % 128 with
    | 0x0 => [sc w 7]
    | 0x1 | 0x2 | 0x3 => [sc w 13, sc w 7]
    | _ => []
  | 0x28 | 0x29 => [va w 7 7 (atomicRegs (fld w 27 5).toNat), offset (fld w 20 7), sc w 14]
  | 0x2A => [va w 14 7 1, vb w 2, va w 7 7 (atomicRegs (remoteCode false (fld w 28 3)))]
  | 0x2B => [va w 14 7 1, vb w 2, va w 7 7 (atomicRegs (remoteCode true (fld w 28 3)))]
  | 0x2F =>
    match w / 2 ^ 25 % 128 with
    | 0x0 => [sc w 7]
    | 0x1 => [sc w 13, sc w 7]
    | 0x10 | 0x11 | 0x12 | 0x13 | 0x14 | 0x15 => [sc w 13]
    | _ => []
  | 0x30 => [sc w 19, .k (fld w 13 3), .k (fld w 7 3)]
  | 0x31 => [sc w 25, .k (fld w 19 3), .k (fld w 13 3), .k (fld w 7 3)]
  | 0x32 =>
    match w / 2 ^ 25 % 128 with
    | 0x0 | 0x2 => [sc w 19, sc w 13, .k (fld w 7 3)]
    | 0x1 => [sc w 19, .k (fld w 13 3), sc w 7]
    | _ => []
  | 0x33 =>
    match w / 2 ^ 27 % 32, bit w 25 with
    | 0x0, _ => [sc w 19, .k (fld w 13 3)]
    | 0x4, false => [sc w 13, sc w 7]
    | 0x4, true => [sc w 13]
    | _, _ => []
  | 0x35 =>
    match w / 2 ^ 25 % 128 with
    | 0x0 => [sc w 19, sc w 13, sc w 7]
    | 0x1 => [sc w 7]
    | _ => []
  | 0x36 =>
    match w / 2 ^ 25 % 128 with
    | 0x0 | 0x4 => [sc w 19, sc w 13, sc w 7]
    | 0x1 | 0x5 => [sc w 19, sc w 13]
    | 0x2 | 0x3 => [va w 7 6 ((fld w 19 3).toNat + 1), sc w 13]
    | _ => []
  | 0x37 => [va w 19 6 1, sc w 13, sc w 7]
  | 0x38 =>
    match w / 2 ^ 25 % 128 with
    | 0x0 | 0x4 => [sc w 7]
    | _ => []
  | 0x39 =>
    match w / 2 ^ 30 % 4 with
    | 0x0 => [sc w 13, .drain (fld w 7 6) (fld w 13 6)]
    | 0x1 => [sc w 13]
    | _ => []
  | 0x3A => [sc w 19, .stash (fld w 30 2) (bit w 29) (fld w 13 3) (fld w 16 3)]
  | 0x3C =>
    match w / 2 ^ 25 % 128 with
    | 0x0 | 0x1 => [sc w 13, sc w 7]
    | _ => []
  | 0x3D =>
    match w / 2 ^ 25 % 128 with
    | 0x0 | 0x1 | 0x4 => [sc w 7]
    | 0x2 | 0x3 => [sc w 13, sc w 7]
    | _ => []
  | 0x3E =>
    match w / 2 ^ 25 % 128 with
    | 0x3 | 0x7 => [sc w 7]
    | 0x5 | 0x8 => [sc w 13, sc w 7]
    | _ => []
  | _ => []

/-- The results of a word's instruction of fixed latency, and the cycles after its issue from which each can be used (Tables
4.3, 5.1 and 6.4). -/
def results (w : Nat) : List (Named × Nat) :=
  if w % 2 = 0 then
    if movesNothing w then [] else match w / 2 % 16 with
    | 0x3 => [(va w 5 5 1, 6)]
    | _ => [(va w 5 5 1, 4)]
  else match w / 2 % 64 with
  | 0x01 =>
    match w / 2 ^ 25 % 128 with
    | 0x0 | 0x1 | 0x6 | 0x7 | 0x8 | 0x9 | 0xA | 0xB | 0xC | 0xD | 0xE | 0xF | 0x10 | 0x11 | 0x12 | 0x13 | 0x1A => [(sc w 7, 2)]
    | 0x2 | 0x3 | 0x4 => [(sc w 7, 4)]
    | 0x5 => [(sc w 7, 24)]
    | 0x14 | 0x15 | 0x16 | 0x17 | 0x18 => [(sc w 7, 3)]
    | 0x19 => [(.c (fld w 7 2), 2)]
    | _ => []
  | 0x02 =>
    match w / 2 ^ 28 % 16 with
    | 0x0 | 0x2 | 0x3 | 0x4 | 0x5 | 0x6 | 0x7 | 0x8 | 0x9 => [(sc w 7, 2)]
    | 0x1 => [(sc w 7, 4)]
    | 0xA => [(.c (fld w 7 2), 2)]
    | _ => []
  | 0x03 => [(sc w 7, 2)]
  | 0x07 =>
    match w / 2 ^ 25 % 128 with
    | 0x0 => [(sc w 7, 4)]
    | _ => []
  | 0x08 =>
    match w / 2 ^ 28 % 8 with
    | 0x0 | 0x1 | 0x4 | 0x5 | 0x6 => [(va w 7 7 1, 4)]
    | 0x2 | 0x3 | 0x7 => [(va w 7 7 1, 6)]
    | _ => []
  | 0x09 | 0x0B | 0x10 | 0x14 => [(va w 7 7 1, 4)]
  | 0x0A =>
    match w / 2 ^ 28 % 8 with
    | 0x0 | 0x1 | 0x2 | 0x3 => [(va w 7 7 1, 6)]
    | 0x4 | 0x5 => [(va w 7 7 1, 6), (.m 7, 6)]
    | _ => []
  | 0x0C | 0x0D | 0x11 => [(va w 7 6 1, 4)]
  | 0x0E => [(.m (fld w 7 3).toNat, 4)]
  | 0x0F =>
    match w / 2 ^ 28 % 8 with
    | 0x0 | 0x3 | 0x5 => [(va w 7 7 1, 4)]
    | 0x1 => [(sc w 7, 6)]
    | 0x2 => [(va w 7 7 1, 8)]
    | 0x4 => [(.anyV, 8)]
    | _ => []
  | 0x12 =>
    match w / 2 ^ 28 % 8 with
    | 0x0 | 0x1 | 0x2 | 0x3 | 0x4 => [(va w 7 7 1, 4)]
    | 0x5 => [(.m (fld w 7 3).toNat, 4)]
    | _ => []
  | 0x13 => [(va w 7 7 2, 4)]
  | 0x15 => [(va w 7 7 2, 8)]
  | 0x1F =>
    match w / 2 ^ 25 % 128 with
    | 0x0 | 0x1 | 0x2 | 0x3 | 0x6 => [(.whole (fld w 7 3).toNat, 2)]
    | 0x4 | 0x5 | 0x7 | 0x8 => [(sc w 7, 2)]
    | _ => []
  | _ => []

/-! ## Keys of the registers under an interlock -/

/-- The key that stands for all vector registers, as VMOVXW writes them (R133). -/
def keyAllV : Nat := 17201

/-- The key of every instruction of fixed latency. -/
def keyEvery : Nat := 17200

/-- The key of scalar register n; s63 has none. -/
def Group.scalarKeys (g : Group) (n : BitVec 6) : List Nat := if n = 63#6 then [] else [16640 + g.sKey n]

/-- The keys of a run of vector registers in some lanes. -/
def Group.runKeys (g : Group) (n len : Nat) (lanes : List Nat) : List Nat :=
  lanes.flatMap fun l => (List.range len).map fun j => 32 * g.runKey n j + l

/-- The base register of a shape record (Table 11.1). -/
def Group.baseReg (g : Group) (k : BitVec 3) : BitVec 6 := BitVec.ofNat 6 ((Map.get 0 g.regs.k k.toNat).toNat / 2 ^ 53 % 64)

/-- The registers that ASTASH reads for a copy: the base, and under BS8 the one after it (R324). -/
def Group.stashKeys (g : Group) (bs8 : Bool) (k : BitVec 3) : List Nat :=
  g.scalarKeys (g.baseReg k) ++ if bs8 then g.scalarKeys (g.baseReg k + 1) else []

/-- The keys of what a fragment's instruction names. -/
def Named.keys (g : Group) (lanes : Lane) : Named → List Nat
  | .none => []
  | .s n => g.scalarKeys n
  | .c n => [17100 + n.toNat]
  | .m n => (lanesOf lanes).map fun l => 16800 + 32 * n + l
  | .whole n => (List.range 32).map fun l => 16800 + 32 * n + l
  | .v n len => g.runKeys n len (lanesOf lanes)
  | .row n len => g.runKeys n len (List.range 32)
  | .anyV => [keyAllV]
  | .k n => g.scalarKeys (g.baseReg n)
  | .drain d b => g.runKeys d.toNat (6 * ((g.s b).toNat / 2 ^ 8 % 8 + 1)) (lanesOf lanes)
  | .stash copies bs8 p q =>
    (if copies.getLsbD 0 then g.stashKeys bs8 p else []) ++ if copies.getLsbD 1 then g.stashKeys bs8 q else []
  | .every => [keyEvery]

/-- It names vector registers. -/
def Named.isVector : Named → Bool
  | .v _ _ | .row _ _ | .anyV | .drain _ _ => true
  | _ => false

/-- An interlock holds the fragment back: a result among what it names cannot be used yet. -/
def Named.locked (g : Group) (lanes : Lane) (now : Nat) (n : Named) : Bool :=
  let late := fun (k : Nat) => decide (now < Map.get 0 g.work.busy k)
  (n.keys g lanes).any late || (n.isVector && late keyAllV)
    || (n == .anyV && g.work.busy.any fun p => decide (p.1 < 16640) && decide (now < p.2))

/-- The mask of a header's guard (R36). -/
def guardNamed (h : Option (BitVec 32)) : Named :=
  match h with
  | some h => if h.getLsbD 30 then .m (h.toNat / 2 ^ 27 % 8) else .none
  | Option.none => .none

/-- Some operand interlock of an instruction is not satisfied: of what it names, and of the guard of its clause, where it names
a vector register (R42, R92, R121). -/
def Group.interlocked (g : Group) (lanes : Lane) (h : Option (BitVec 32)) (now w : Nat) : Bool :=
  let ns := named w
  ns.any (Named.locked g lanes now) || (ns.any Named.isVector && (guardNamed h).locked g lanes now)

/-- The results of an instruction that issues now cannot be used before its latency has passed (R95). -/
def Group.lock (g : Group) (lanes : Lane) (now w : Nat) : Group :=
  let live := g.work.busy.filter fun p => decide (now < p.2)
  let set := fun (m : Cells Nat) (k t : Nat) => Map.set 0 m k (max t (Map.get 0 m k))
  let busy := (results w).foldl (fun m r =>
    set ((r.1.keys g lanes).foldl (fun m k => set m k (now + r.2)) m) keyEvery (now + r.2)) live
  { g with work := { g.work with busy := busy } }

end Sys2Proof.Machine
end

