-- ==== Sys2Proof/Machine/Issue.lean ====
section
/-! DEFINITION. A cycle of a sub-core: candidates, selection, ageing, slice packing and stall accounting (R92 to R94,
R388). -/

namespace Sys2Proof.Machine

/-- A debugger steps the group, and it has not issued since (R380). -/
def State.isStepping (s : State) (g : Group) : Bool :=
  s.dbg.stepping == some (g.id.age, g.work.issued) && g.id.resident && !g.id.dbl

/-- The group may issue: resident, neither halted nor being saved or restored, nothing of it parked, and no remote atomic
of it half sent (R92, R200, R259, R374); or a debugger steps it. -/
def State.mayIssue (s : State) (g : Group) : Bool :=
  (g.running || s.isStepping g) && g.id.saving == 0 && !s.parked g.id.age && !s.sending g.id.age

/-- Major opcode of a word; 16-bit instructions have none. -/
def majorOf (len w : Nat) : Nat := if len = 4 then w / 2 % 64 else 64

/-- The next instruction of a fragment that can issue in this cycle, past a header that starts a clause: its length and
word, (0, 0) where the fetch takes a trap, and the header it issues under; or the fragment waits for the flags of a
header, or is not ready. -/
inductive NextWord where
  | word (len w : Nat) (h : Option (BitVec 32))
  | flags
  | notYet
  deriving DecidableEq, Repr

/-- What a fragment issues next (R38, R92). -/
def State.nextWord (s : State) (g : Group) (f : Frag) : NextWord :=
  match s.fetch g f.pc with
  | .error (.trap _) => .word 0 0 none
  | .error .wait => .notYet
  | .ok (n, w, s1) =>
    if n = 4 ∧ isHeader w = true then
      if s.headerClear g g.id.age w then
        match s1.fetch g (f.pc + 4) with
        | .error (.trap _) => .word 0 0 none
        | .error .wait => .notYet
        | .ok (n', w', _) => .word n' w' (some (BitVec.ofNat 32 w))
      else .flags
    else .word n w f.header

/-- The word at which a fragment stands; 0 where it cannot be fetched now. -/
def State.wordAt (s : State) (g : Group) (f : Frag) : Nat :=
  match s.fetch g f.pc with
  | .ok (_, w, _) => w
  | .error _ => 0

/-- The FP64 rate allows an instruction of major 0x15 in this cycle (R92). -/
def SubCore.fp64Ok (sc : SubCore) (now : Nat) : Bool :=
  match sc.lastFp64 with
  | none => true
  | some t => decide (t + 4 ≤ now)

/-- A fragment that is ready in this cycle, with what it issues. -/
structure ReadyFrag where
  age : Nat
  f : Frag
  len : Nat
  word : Nat
  deriving DecidableEq, Repr

/-- The sub-core after reset. -/
def SubCore.reset : SubCore := { next := 0, hist := [], reasons := [], lastFp64 := none }

/-- A sub-core of a core. -/
def State.subCore (s : State) (core sub : Nat) : SubCore := Map.get SubCore.reset (s.core core).subs sub

/-- Change a sub-core. -/
def State.onSubCore (s : State) (core sub : Nat) (h : SubCore → SubCore) : State :=
  s.onCore core fun c => { c with subs := Map.set SubCore.reset c.subs sub (h (Map.get SubCore.reset c.subs sub)) }

/-- The ready fragments of a group (R92): in wait state 0, past a redirect, with every operand interlock satisfied and
within the FP64 rate. -/
def State.readyFrags (s : State) (sc : SubCore) (g : Group) : List ReadyFrag :=
  let now := s.cycleOf g.id.core
  if !s.mayIssue g then []
  else g.bank.filterMap fun f =>
    if f.wait != .ready || decide (now < f.readyAt) then none
    else match s.nextWord g f with
      | .word n w h =>
        if g.interlocked f.lanes h now w || (majorOf n w == 0x15 && !sc.fp64Ok now) then none
        else some { age := g.id.age, f := f, len := n, word := w }
      | _ => none

/-- The first comes before the second: it issued less recently, or ties and stands in the lower entry. -/
def ReadyFrag.before (a b : ReadyFrag) : Bool :=
  decide (a.f.lastIssue < b.f.lastIssue) || (a.f.lastIssue == b.f.lastIssue && decide (a.f.entry < b.f.entry))

/-- The least recently issued of ready fragments. -/
def candidate? : List ReadyFrag → Option ReadyFrag
  | [] => none
  | x :: l => match candidate? l with
    | none => some x
    | some y => some (if y.before x then y else x)

/-- A ready fragment is aged (R93). -/
def ReadyFrag.aged (r : ReadyFrag) : Bool := decide (256 ≤ r.f.age)

/-- The first is selected before the second: aged ones first, in the order in which they became aged; then by effective
priority; among equals the older group. -/
def selectBefore (ps : Cells Nat) (a b : ReadyFrag) : Bool :=
  if a.aged && b.aged then decide (a.f.agedAt < b.f.agedAt) || (a.f.agedAt == b.f.agedAt && decide (a.age < b.age))
  else if a.aged then true
  else if b.aged then false
  else
    let pa := Map.get 0 ps a.age
    let pb := Map.get 0 ps b.age
    decide (pb < pa) || (pa == pb && decide (a.age < b.age))

/-- The eligible fragment that is selected. -/
def select? (ps : Cells Nat) : List ReadyFrag → Option ReadyFrag
  | [] => none
  | x :: l => match select? ps l with
    | none => some x
    | some y => some (if selectBefore ps y x then y else x)

/-- An instruction that slice packing admits (R94). -/
def packable (len w : Nat) : Bool :=
  len == 2 || (len == 4 && ((decide (0x08 ≤ majorOf len w) && decide (majorOf len w ≤ 0x0D))
    || (decide (0x10 ≤ majorOf len w) && decide (majorOf len w ≤ 0x15))))

/-- The fragment of the selected fragment's group that issues with it (R94). -/
def partner? (p : ReadyFrag) (ready : List ReadyFrag) : Option ReadyFrag :=
  if !packable p.len p.word then none
  else candidate? (ready.filter fun q =>
    q.f.entry != p.f.entry && packable q.len q.word && decide (slicesOf q.f.lanes &&& slicesOf p.f.lanes = 0)
      && !(majorOf q.len q.word == 0x15 && majorOf p.len p.word == 0x15))

/-! ## Ageing and stall accounting -/

/-- A cycle in which an eligible fragment does not issue (R93). -/
def Frag.older (f : Frag) (now : Nat) : Frag :=
  if 256 ≤ f.age then f else { f with age := f.age + 1, agedAt := if f.age = 255 then now else f.agedAt }

/-- Stall reason of a held fragment (Table 15.12).  DESIGN CHOICE (log 116): R181 does not name a fragment that is held because the
receive side of its slot is occupied; it is charged to the rendezvous. -/
def Hold.reason : Hold → Nat
  | .records _ | .release _ | .loads _ => 2
  | .underShootdown (some .ld) _ _ => 1
  | .underShootdown (some .st) _ _ => 2
  | .underShootdown (some .ra) _ _ => 5
  | .objectOp _ (.wait _ _) _ _ _ => 7
  | .ownRecord _ | .busyLine _ _ | .objectOp _ _ _ _ _ => 15
  | .counter .ld _ => 1
  | .counter .st _ => 2
  | .counter .wh _ => 3
  | .counter .an _ => 4
  | .counter .ra _ => 5
  | .counter .fe _ => 6
  | .engines => 2
  | .wherryRoom => 3
  | .remoteRoom => 5
  | .barrier _ _ | .barrierAgain _ _ | .object _ _ => 7
  | .sendSide _ _ | .recvSide _ | .transfer _ | .edgeRead _ | .deposits _ _ => 8
  | .latched | .latchBusy => 9
  | .arrayRoom => 10
  | .rgrow => 11
  | .watch _ _ => 13
  | .landingRoom => 14
  | .none | .entries _ | .flags _ | .retry | .ferryRoom | .shrink _ | .shootdownRoom | .shootdown _ | .underShootdown _ _ _ | .claiming | .releasing _ _ _
  | .slotLoading _ | .queueRoom _ | .trapResults | .launch _ => 15

/-- The least recently issued of a group's fragments. -/
def oldestFrag? : List Frag → Option Frag
  | [] => none
  | x :: l => match oldestFrag? l with
    | none => some x
    | some y => some (if y.lastIssue < x.lastIssue then y else x)

/-- The group's gang has every operation latched, and the array queue is full (R318). -/
def State.latchFull (s : State) (g : Group) : Bool :=
  let c := s.core g.id.core
  match s.latchedOf g with
  | none => false
  | some l => decide (32 ≤ (c.aops.filter (·.queued)).length) && (lanesOf l.members).all fun n =>
      c.latch.any fun k => k.wg == l.wg && k.cohort == l.cohort && k.num == n

/-- The stall reason of a sub-core's oldest group (R388). -/
def State.stallReason (s : State) (g : Group) : Nat :=
  if g.id.halted then 15
  else if s.parked g.id.age then 12
  else if s.sending g.id.age then 5
  else match oldestFrag? g.bank with
    | none => 15
    | some f => match f.wait with
      | .clause => 0
      | .parked => 7
      | .held => match f.hold with
        | .latched => if s.latchFull g then 10 else 9
        | h => h.reason
      | .ready => match s.nextWord g f with
        | .flags => 0
        | _ => 15
      | .paused | .splitHold => 15

/-- Add to a counter of 64 bits. -/
def addCount (m : Cells Nat) (k n : Nat) : Cells Nat := Map.set 0 m k ((Map.get 0 m k + n) % 2 ^ 64)

/-- Cycles before this one in which the sub-core held no group and so had no eligible fragment. -/
def State.emptyCycles (s : State) (core sub : Nat) : Nat := s.cycleOf core - (s.subCore core sub).next

/-- Account for a cycle of a sub-core: one in the bucket of its eligible fragments, and a reason where there is none; the
cycles since the last one accounted for were empty and count in bucket 0 (R388). -/
def State.account (s : State) (core sub eligible : Nat) (groups : List (Nat × Group)) : State :=
  let s1 := s.onSubCore core sub fun c =>
    { c with next := s.cycleOf core + 1, hist := addCount (addCount c.hist 0 (s.emptyCycles core sub)) (min eligible 16) 1 }
  match eligible, groups with
  | 0, (_, g) :: _ => s1.onSubCore core sub fun c => { c with reasons := addCount c.reasons (s.stallReason g) 1 }
  | _, _ => s1

/-! ## The cycle -/

/-- Held fragments of a sub-core whose reason is over become ready; a fragment at a header whose flags are set enters
clause wait (R38).  DESIGN CHOICE (log 119): so a fragment takes the trap of an abandoned XRECV whose flag its header names only once
the header's other flags are clear (R178). -/
def State.wake (s : State) (core sub : Nat) : State :=
  (s.subGroups core sub).foldl (fun t p =>
    if !t.mayIssue p.2 then t
    else t.onGroup p.1 fun g => g.setBank (g.bank.map fun f =>
      let f1 := t.wakeFrag g f
      if f1.wait == .ready && t.nextWord g f1 == .flags then { f1 with wait := .clause, hold := .flags (t.wordAt g f1) } else f1)) s

/-- SUBCORE_ISSUE_CYCLE (R93): wake, choose each group's candidate, select one eligible fragment and perhaps pack a
second, count ages, lock the results of what issues, and account.  What is selected issues in the next steps, the selected
fragment first (R88). -/
def execSubcoreIssueCycle (core sub : Nat) (s : State) : Host.Outcome State Fault Refusal :=
  let s1 := s.wake core sub
  let groups := s1.subGroups core sub
  let sc := s1.subCore core sub
  let now := s1.cycleOf core
  let ready := groups.map fun p => s1.readyFrags sc p.2
  let eligible := ready.filterMap candidate?
  let chosen := if eligible.length ≤ 1 then eligible.head? else select? s1.priorities eligible
  let s2 := s1.account core sub eligible.length groups
  match chosen with
  | none => .next s2
  | some p =>
    let mates := (ready.flatten).filter fun q => q.age == p.age
    let q? := if s.dbg.stepping.any fun d => d.1 == p.age then none else partner? p mates
    let issues := fun (r : ReadyFrag) => r.age == p.age && (r.f.entry == p.f.entry || match q? with
      | some q => r.f.entry == q.f.entry
      | none => false)
    let s3 := (eligible.filter fun r => !issues r).foldl (fun t r =>
      t.onGroup r.age fun g => g.onFrag r.f.entry fun f => f.older s.ticks) s2
    let fp64 := majorOf p.len p.word == 0x15 || match q? with
      | some q => majorOf q.len q.word == 0x15
      | none => false
    let s3 := (p :: q?.toList).foldl (fun t r => t.onGroup r.age fun g => g.lock r.f.lanes now r.word) s3
    let s3 := s3.onCore core fun c => { c with idle := 0 }
    let s4 := if fp64 then s3.onSubCore core sub fun c => { c with lastFp64 := some now } else s3
    .next { s4 with issuing := s4.issuing ++ (p.age, p.f.entry, false) :: match q? with
      | some q => [(q.age, q.f.entry, true)]
      | none => [] }

end Sys2Proof.Machine
end

