-- ==== Sys2Proof/Machine/Create.lean ====
section
/-! DEFINITION. The state of a thread group at its creation (R339, Tables 14.4 and 15.2). -/

namespace Sys2Proof.Machine

/-- What a launch gives a new group besides its identity: entry, ARGS, coordinates word, allocation, PRIVHWM, RSBASE and
TRAPVEC. -/
structure GroupStart where
  entry : Word
  args : Word
  coords : Word
  alloc : Nat
  privHwm : Word
  rsBase : Word
  trapVec : Word
  deriving DecidableEq, Repr

/-- The one fragment of a new group: every lane at the entry, no header in force. -/
def firstFrag (splitEntry clock : Nat) (pc : Word) : Frag :=
  { entry := splitEntry, pc := pc, lanes := BitVec.allOnes 32, header := none, clauseStart := pc, needHeader := true,
    wait := .ready, hold := .none, rejoin := 0, age := 0, agedAt := 0, lastIssue := clock, pausedUntil := 0, readyAt := 0 }

/-- No gang (Table 12.6). -/
def GangReg.none : GangReg := { valid := false, pair := false, cohort := 0, members := 0 }

/-- The work of a new group: none. -/
def Work.none : Work where
  inflight := []
  seq := 0
  markEntry := Option.none
  tcFence := 0
  wherryCount := 0
  wherryIds := []
  batchCount := 0
  openOps := []
  batches := []
  shard := Option.none
  failedRemote := []
  failedEngine := []
  declined := []
  abandoned := []
  watch := Option.none
  triggered := false
  sendAbandon := []
  issued := 0
  packed := 0
  divergent := 0
  traps := 0
  busy := []

/-- A new group (Table 14.4): s0 ARGS, s1 the coordinates, s2 GROUP, the launch values of Table 15.2, all else zero. -/
def Group.create (id : Ident) (x : GroupStart) (splitEntry clock : Nat) : Group where
  id := id
  regs := { s := Map.set 0 (Map.set 0 (Map.set 0 [] 0 x.args) 1 x.coords) 2 (BitVec.ofNat 64 id.num),
            ts := [], v := [], tv := [], poison := [], alloc := x.alloc, m := [], c := 0, k := [] }
  flow := { live := BitVec.allOnes 32, frags := [firstFrag splitEntry clock x.entry], rejoinE := [], rejoinA := [],
            ret := [], trapMode := false, trapFrags := [], trapE := [], trapA := [], stopped := 0, stopHeader := none,
            stopKept := none }
  sys := { fpctl := 0, fpstat := 0, lossScale := 0x3F800000, guideW := 0x3F800000, ackbar := 0, privHwm := x.privHwm,
           rsBase := x.rsBase, rsDepth := 0, gang := GangReg.none, trapVec := x.trapVec, trapCause := 0, trapPc := 0,
           trapNpc := 0, trapFrag := 0, trapRec := [] }
  work := Work.none
  saved := Option.none

end Sys2Proof.Machine
end

