-- ==== Sys2Proof/Machine/Compress.lean ====
section
/-! DEFINITION. The compressed stream of WCOMP and WDCOMP (R281 to R283, Table 11.5). -/

namespace Sys2Proof.Machine

/-- Width code of an element width. -/
def widthCode (w : Nat) : Nat := if w ≤ 8 then 0 else if w ≤ 16 then 1 else if w ≤ 32 then 2 else 3

/-- A list cut into pieces of n, at most `fuel` of them. -/
def pieces {α : Type} (n : Nat) : Nat → List α → List (List α)
  | 0, _ => []
  | fuel + 1, l => if l.isEmpty then [] else l.take n :: pieces n fuel (l.drop n)

/-- Word i of plane p of a block's elements: bit k is bit p of element 64 i + k. -/
def planeWord (es : Array Nat) (p i : Nat) : Nat :=
  (List.range 64).foldl (fun v k => if Nat.testBit ((es[64 * i + k]?).getD 0) p then v + 2 ^ k else v) 0

/-- Header of a block. -/
def blockHeader (len raw w : Nat) : List Byte := valBytes 8 (len + raw * 2 ^ 16 + w * 2 ^ 17)

/-- One block of 4,096 bytes, coded or raw (R282). -/
def packBlock (w : Nat) (bytes : List Byte) : List Byte :=
  let e := 2 ^ w
  let n := 4096 / e
  let es := ((pieces e n bytes).map bytesVal).toArray
  let planes := (List.range (8 * e)).map fun p => (p, (List.range (n / 64)).map (planeWord es p))
  let used := planes.filter fun p => p.2.any (· != 0)
  let mask := used.foldl (fun v p => v + 2 ^ p.1) 0
  let body := used.flatMap fun p =>
    let occ := ((List.range (n / 64)).zip p.2).foldl (fun v q => if q.2 = 0 then v else v + 2 ^ q.1) 0
    valBytes 8 occ ++ (p.2.filter (· != 0)).flatMap (valBytes 8)
  let len := 16 + body.length
  if len ≤ 4104 then blockHeader len 0 w ++ valBytes 8 mask ++ body else blockHeader 4104 1 w ++ bytes

/-- Offsets of blocks that follow one another. -/
def offsets (at_ : Nat) : List (List Byte) → List Nat
  | [] => []
  | b :: l => at_ :: offsets (at_ + b.length) l

/-- The stream of a sequence of whole blocks (R281). -/
def packStream (width : Nat) (bytes : List Byte) : List Byte :=
  let w := widthCode width
  let blocks := (pieces 4096 (bytes.length / 4096) bytes).map (packBlock w)
  let n := blocks.length
  let dir := (4 * n + 63) / 64 * 64
  let data := blocks.flatMap id
  let entries := (offsets (64 + dir) blocks).flatMap fun o => valBytes 4 (o / 8)
  valBytes 4 n ++ valBytes 1 w ++ valBytes 3 0 ++ valBytes 8 (64 + dir + data.length) ++ valBytes 48 0
    ++ entries ++ List.replicate (dir - 4 * n) 0 ++ data

/-! ## Reading a stream (R283) -/

/-- The planes of a coded block after its mask: occupancy maps and words, none where the length or a map disagrees. -/
def readPlanes (n : Nat) : List Nat → List Byte → Option (List (Nat × List Nat))
  | [], l => if l.isEmpty then some [] else none
  | p :: ps, l =>
    let occ := bytesVal (l.take 8)
    let used := (List.range 64).filter fun i => Nat.testBit occ i
    let words := pieces 8 used.length (l.drop 8)
    if l.length < 8 + 8 * used.length ∨ used.any (fun i => decide (n / 64 ≤ i)) = true then none
    else
      let all := (List.range (n / 64)).map fun i => ((used.zip (words.map bytesVal)).find? fun u => u.1 == i).map (·.2) |>.getD 0
      match readPlanes n ps (l.drop (8 + 8 * used.length)) with
      | none => none
      | some r => some ((p, all) :: r)

/-- The 4,096 bytes of a block, header included in the bytes given; none where it is malformed. -/
def unpackBlock (w : Nat) (block : List Byte) : Option (List Byte) :=
  let h := bytesVal (block.take 8)
  let len := h % 65536
  if h / 2 ^ 19 ≠ 0 ∨ h / 2 ^ 17 % 4 ≠ w ∨ len ≠ block.length then none
  else if h / 2 ^ 16 % 2 = 1 then (if len = 4104 then some (block.drop 8) else none)
  else
    let e := 2 ^ w
    let n := 4096 / e
    let mask := bytesVal ((block.drop 8).take 8)
    let used := (List.range 64).filter fun p => Nat.testBit mask p
    if len < 16 ∨ used.any (fun p => decide (8 * e ≤ p)) = true then none
    else match readPlanes n used (block.drop 16) with
      | none => none
      | some planes =>
        let es := (List.range n).map fun k => planes.foldl (fun v p =>
          if Nat.testBit ((p.2[k / 64]?).getD 0) (k % 64) then v + 2 ^ p.1 else v) 0
        some (es.flatMap (valBytes e))

/-- What to read next of a stream of which some bytes are read: the header, the directory, and each block in turn; or the
stream is malformed, or read whole, with its blocks. -/
inductive StreamNext where
  | read (off n : Nat)
  | bad
  | blocks (l : List (List Byte))
  deriving DecidableEq, Repr

/-- Blocks that follow the directory in what was read: `dir` gives the offsets of those still to take. -/
def streamBlocks (len : Nat) : List Nat → List Byte → List (List Byte) → StreamNext
  | [], _, done => .blocks done
  | o :: os, l, done =>
    if l.length < 8 then (if len < 8 * o + 8 then .bad else .read (8 * o + l.length) (8 - l.length))
    else
      let n := bytesVal (l.take 2)
      if n < 8 ∨ len < 8 * o + n then .bad
      else if l.length < n then .read (8 * o + l.length) (n - l.length)
      else streamBlocks len os (l.drop n) (done ++ [l.take n])

/-- What to read next of a stream that is to fill `total` bytes. -/
def streamNext (total : Nat) (buf : List Byte) : StreamNext :=
  if buf.length < 64 then .read buf.length (64 - buf.length)
  else
    let n := bytesVal (buf.take 4)
    let len := bytesVal ((buf.drop 8).take 8)
    let zeros := (buf.drop 5).take 3 ++ (buf.drop 16).take 48
    if total ≠ 4096 * n ∨ 4 ≤ bytesVal ((buf.drop 4).take 1) ∨ bytesVal zeros ≠ 0 then .bad
    else if buf.length < 64 + 4 * n then .read buf.length (64 + 4 * n - buf.length)
    else streamBlocks len ((pieces 4 n ((buf.drop 64).take (4 * n))).map bytesVal) (buf.drop (64 + 4 * n)) []

/-- The bytes of a stream read whole, none where a block is malformed. -/
def unpackStream (buf : List Byte) (blocks : List (List Byte)) : Option (List Byte) :=
  let w := bytesVal ((buf.drop 4).take 1)
  blocks.foldr (fun b acc => match unpackBlock w b, acc with
    | some x, some y => some (x ++ y)
    | _, _ => none) (some [])

end Sys2Proof.Machine
end

