-- ==== Sys2Proof/Machine/Wherry.lean ====
section
/-! DEFINITION. The copy engine: its accesses, the progress of a command, its failures and completion, and its events (R270
to R277, R283 to R285, R301, R324, R325). -/

namespace Sys2Proof.Machine

/-! ## Accesses of an engine (R248, R273, R276) -/

/-- Why an engine cannot go on: it waits, a walk failed on its source or destination side, or the command fails. -/
inductive EngineStop where
  | wait
  | fault (detail : Nat) (addr : Word) (dst : Bool)
  | fail (detail : Nat) (addr : Word)
  deriving DecidableEq, Repr

/-- Bytes up to the end of a line. -/
def lineRoom (a : Word) (n : Nat) : Nat := min n (128 - a.toNat % 128)

/-- A shutdown of the address's range has drained, so that an access waits for its end (R216). -/
def State.afterDrain (s : State) (vk : Nat) : Bool := s.shootdowns.any fun d => d.started && d.drained && d.covers vk

/-- The right of a page, where the space has rights (R273). -/
def State.engineRight (s : State) (w : Wherry) (a : Word) (dst : Bool) : Except EngineStop State :=
  if a.toNat / 2 ^ 61 = 0 ∨ a.toNat / 2 ^ 61 = 2 then
    let (r, s1) := s.rights w.core w.ctx a
    if (if dst then r.wr else r.rd) then .ok s1 else .error (.fail 7 a)
  else .ok s

/-- A store of the command's group that issued before it has still to land in the bytes (R248). -/
def State.ownBefore (s : State) (w : Wherry) (vk n : Nat) : Bool :=
  s.landing.any fun r => r.age == w.age && decide (r.id < w.id) && r.isPending && r.lanes.any fun l => r.touches l vk n

/-- The address of the first of n bytes that cannot be read at the LLC (R274). -/
def State.firstBad (s : State) (a : Word) (vk n : Nat) : Word :=
  match (List.range n).find? fun i => match s.llcRead (vk + i) with
    | .error _ => true
    | .ok _ => false with
  | some i => a + BitVec.ofNat 64 i
  | none => a

/-- Read n bytes within a line.  The read waits for a pending store of another group (R222), and at the LLC it does not see one
of its own group that has not landed (R248).  DESIGN CHOICE (log 121): the spec names no outcome where a stream's length, which only
its header gives, runs past the shared allocation or the space of the stream; the read goes on there, in shared memory at the offset
modulo 2^20, with no failure of its own. -/
def State.engineRead (s : State) (w : Wherry) (a : Word) (n : Nat) : Except EngineStop (List Byte × State) := do
  if a.toNat / 2 ^ 61 = 6 then
    let off := a.toNat % 2 ^ 20
    match (List.range n).find? fun i => s.mem.poison.contains (poisonShared w.wg (off + i)) with
    | some i => .error (.fail 12 (a + BitVec.ofNat 64 i))
    | none => match Map.find? s.wgs w.wg with
      | some g => .ok (g.sharedBytes off n, s)
      | none => .error .wait
  else
    let vk := vkey w.ctx a
    if s.afterDrain vk then .error .wait
    else
      let s1 ← s.engineRight w a false
      if s1.markHolds w.core (lineOf vk) || s1.wherryOwns w.id (lineOf vk) || s1.othersPending w.age w.id vk n then .error .wait
      else match s1.llcReads vk n with
        | .ok r => .ok r
        | .error 5 => .error (.fail 5 a)
        | .error 12 => .error (.fail 12 (s1.firstBad a vk n))
        | .error d => .error (.fault d a false)

/-- Addresses that follow one another within a line, as runs. -/
def addrRuns : List Word → List (Word × Nat)
  | [] => []
  | a :: l => match addrRuns l with
    | (x, n) :: rest => if x = a + 1 ∧ x.toNat % 128 ≠ 0 then (a, n + 1) :: rest else (a, 1) :: (x, n) :: rest
    | [] => [(a, 1)]

/-- Read runs of bytes. -/
def State.engineReads (s : State) (w : Wherry) : List (Word × Nat) → Except EngineStop (List Byte × State)
  | [] => .ok ([], s)
  | (a, n) :: l => do
    let (x, s1) ← s.engineRead w a n
    let (y, s2) ← s1.engineReads w l
    .ok (x ++ y, s2)

/-- Cells that follow one another, as runs of bytes. -/
def cellRuns : List (Word × Byte) → List (Word × List Byte)
  | [] => []
  | (a, b) :: l => match cellRuns l with
    | (x, bs) :: rest => if x = a + 1 then (a, b :: bs) :: rest else (a, [b]) :: (x, bs) :: rest
    | [] => [(a, [b])]

/-- Bytes from an address on go to a package: to its tensor space, or to control granules of 1 GiB that it homes (R395). -/
def State.reaches (s : State) (a : Word) (n pkg : Nat) : Bool :=
  if keySpace a.toNat = .control then
    (List.range (n / 2 ^ 30 + 2)).any fun i => s.homePkg (min (offset48 a + i * 2 ^ 30) (offset48 a + n - 1)) == pkg
  else s.isRemote a && pkgOf a == pkg

/-- An earlier command of the group has still to write to the package, or has written what is not acknowledged: commands of one
group arrive there in issue order (R276). -/
def State.packageEarlier (s : State) (w : Wherry) (pkg : Nat) : Bool :=
  s.wherry.any fun v => v.age == w.age && decide (v.id < w.id)
    && ((v.out.any fun p => p.pkg == pkg) || v.active && v.left_.any fun r => s.reaches r.1 r.2 pkg)

/-- Write bytes of a line that is not present at the LLC without allocating it there (R278). -/
def State.streamWrite (s : State) (line : Nat) (cells : List (Nat × Byte)) : State :=
  if s.mem.llc.any fun p => lineOf p.1 == line then s.llcWrite cells
  else
    let t := (s.llcWrite cells).llcWriteback line
    if (t.mem.dirtyOf line).isEmpty then { t with mem := t.mem.llcDrop line } else t

/-- A packet of bytes to a package, with the tag of its request where a home is asked. -/
def packetTo (pkg : Nat) (runs : List (Word × List Byte)) (tag : Option Nat) : EnginePacket :=
  { pkg := pkg, runs := runs, tag := tag, retries := 0, retryAt := 0, waiting := false, detail := 0 }

/-- Ask the home of a control line, for a command, to write runs of bytes of it (R276). -/
def State.askRuns (s : State) (cmd : Nat) (runs : List (Word × List Byte)) : State :=
  s.askBytes (runs.flatMap fun r => (List.range r.2.length).zip r.2 |>.map fun p => (r.1.toNat + p.1, p.2)) (.engine cmd)

/-- Write bytes of one line: the state, and what is for another package; the packet to a home has gone, with its tag. -/
def State.engineWrite (s : State) (w : Wherry) (cells : List (Word × Byte)) : Except EngineStop (State × List EnginePacket) := do
  match cells with
  | [] => .ok (s, [])
  | (a, _) :: _ =>
    if a.toNat / 2 ^ 61 = 6 then
      .ok (cells.foldl (fun (t : State) p => t.sharedWrite w.wg (p.1.toNat % 2 ^ 20) [p.2]) s, [])
    else
      let vk := vkey w.ctx a
      let line := lineOf vk
      if s.afterDrain vk then .error .wait
      else
        let s1 ← s.engineRight w a true
        if s1.isRemote a then
          if s1.peerGone (pkgOf a) then .error (.fail 11 a)
          else if s1.packageEarlier w (pkgOf a) then .error .wait
          else .ok (s1, [packetTo (pkgOf a) (cellRuns cells) none])
        else if s1.markHolds w.core line || s1.wherryOwns w.id line
            || (cells.any fun p => s1.ownBefore w (vkey w.ctx p.1) 1 || s1.othersPending w.age w.id (vkey w.ctx p.1) 1) then
          .error .wait
        else if s1.asksHome vk then
          if s1.controlStalled (offset48 a) || s1.packageEarlier w (s1.homePkg (offset48 a)) then .error .wait
          else
            let out := packetTo (s1.homePkg (offset48 a)) (cellRuns cells) (some s1.fabric.askTag)
            match (if s1.homedHere (offset48 a) then s1.translate vk else .ok (0, s1)) with
            | .ok (_, s2) => .ok (s2.askRuns w.id out.runs, [out])
            | .error 5 => .error (.fail 5 a)
            | .error d => .error (.fault d a true)
        else
          let keys := s1.stillWrites w.id (cells.map fun p => (vkey w.ctx p.1, p.2))
          let put := fun (t : State) => if w.stream then t.streamWrite line keys else t.llcWrite keys
          if s1.mem.llcLanded.contains line then .ok (put s1, [])
          else match s1.translate vk with
            | .ok (_, s2) => .ok (put s2, [])
            | .error 5 => .error (.fail 5 a)
            | .error d => .error (.fault d a true)

/-- Write bytes of several lines, all or none. -/
def State.engineWrites (s : State) (w : Wherry) : List (List (Word × Byte)) → Except EngineStop (State × List EnginePacket)
  | [] => .ok (s, [])
  | cells :: l => do
    let (s1, x) ← s.engineWrite w cells
    let (s2, y) ← s1.engineWrites w l
    .ok (s2, x ++ y)

/-! ## Progress -/

/-- What one piece of work leaves: the state, the command, and how many bytes of its count are visible by it; none where
nothing is left to do. -/
abbrev Piece := Except EngineStop (Option (State × Wherry × Nat))

/-- Read the next source bytes into the buffer: at once where they are local, else by a request to their package. -/
def State.pull (s : State) (w : Wherry) (a : Word) (n : Nat) : Piece := do
  let k := lineRoom a n
  if s.isRemote a then
    let s1 ← s.engineRight w a false
    if s1.peerGone (pkgOf a) then .error (.fail 11 a)
    else if w.asked then .error .wait
    else .ok (some (s1.send (.bulkRead (pkgOf a) a k), { w with asked := true }, 0))
  else
    let (l, s1) ← s.engineRead w a k
    .ok (some (s1, { w with buf := w.buf ++ l }, 0))

/-- Read the sequence of a shape into the buffer, from what is there on; none once it is whole. -/
def State.pullShape (s : State) (w : Wherry) (k : Shape) : Piece :=
  let p := w.buf.length
  if k.total ≤ p then .ok none else s.pull w (k.byteAddr p) (k.rowBytes - p % k.rowBytes)

/-- The rows of a destination with the bytes of a sequence. -/
def rowsWith (d : Shape) (l : List Byte) : List (Word × List Byte) :=
  ((d.runs 0).map (·.1)).zip (pieces d.rowBytes (d.planes * d.rows) l)

/-- The positions from p on, below n, that lie in the destination line of position p: addresses rise along a destination, so
that a command which works by lines stops at a line boundary (R273, R285). -/
def linePositions (dst : Nat → Word) (p n : Nat) : List Nat :=
  ((List.range (min 128 (n - p))).map (p + ·)).takeWhile fun q => (dst q).toNat / 128 == (dst p).toNat / 128

/-- The command after it has written cells. -/
def Wherry.wrote (w : Wherry) (n : Nat) (out : List EnginePacket) : Wherry := { w with done := w.done + n, out := w.out ++ out }

/-- How much of a number of bytes is visible at once: what is sent elsewhere counts once it is acknowledged (R275). -/
def visibleOf (n : Nat) (out : List EnginePacket) : Nat := n - (out.map (·.size)).sum

/-- The lines of one piece of work that are for another package, as one packet, so that it takes them all or none (R273, R283;
log 117). -/
def onePacket (out : List EnginePacket) : List EnginePacket :=
  match out.filter fun p => p.tag.isNone with
  | [] => []
  | p :: l => [{ p with runs := p.runs ++ l.flatMap (·.runs) }]

/-- Write the cells of one line, or of one block. -/
def State.writePiece (s : State) (w : Wherry) (lines : List (List (Word × Byte))) : Piece := do
  let n := (lines.map List.length).sum
  let (s1, l) ← s.engineWrites w lines
  let sent := onePacket l
  let out := sent ++ l.filter fun p => p.tag.isSome
  .ok (some (sent.foldl (fun (t : State) p => t.send (.bulk p.pkg w.stream p.runs)) s1, w.wrote n out, visibleOf n out))

/-- Copy the bytes of one destination line: n positions in all, with the address of each at the source and the
destination. -/
def State.moveLine (s : State) (w : Wherry) (n : Nat) (src dst : Nat → Word) : Piece := do
  let ps := linePositions dst w.done n
  let (l, s1) ← s.engineReads w (addrRuns (ps.map src))
  s1.writePiece w [(ps.map dst).zip l]

/-- The bytes of one row that WFILL writes: its value in every element (R280). -/
def fillRow (d : Shape) (v : Word) : List Byte := packBytes d.width (List.replicate d.rowlen v.toNat)

/-- At most n cells of pieces that follow one another, from an offset on. -/
def cellsFrom : List (Word × List Byte) → Nat → Nat → List (Word × Byte)
  | [], _, _ => []
  | (a, l) :: rest, skip, n =>
    if l.length ≤ skip then cellsFrom rest (skip - l.length) n
    else
      let mine := (List.range (min n (l.length - skip))).map fun i => (a + BitVec.ofNat 64 (skip + i), l.getD (skip + i) 0)
      if mine.length < n then mine ++ cellsFrom rest 0 (n - mine.length) else mine

/-- Cells cut where the line changes. -/
def lineGroups : List (Word × Byte) → List (List (Word × Byte))
  | [] => []
  | p :: l => match lineGroups l with
    | (q :: qs) :: rest => if q.1.toNat / 128 = p.1.toNat / 128 then (p :: q :: qs) :: rest else [p] :: (q :: qs) :: rest
    | rest => [p] :: rest

/-- The 4-byte indexes of a list. -/
def indexes (l : List Byte) : List Nat := (pieces 4 (l.length / 4) l).map bytesVal

/-- The rows that WSCATTER moves, by rising destination row: of several rows with one index the highest (R279). -/
def scatterRows (bound : Nat) (l : List (Nat × Nat)) : List (Nat × Nat) :=
  l.foldl (fun (m : Cells Nat) p => if p.1 < bound then Map.insert m p.1 p.2 else m) []

/-- The elements of a sequence as WLOADO places them: in order, or with each plane turned (R301). -/
def loadBytes (k : Shape) (l : List Byte) : List Byte :=
  if k.t then
    let a := l.toArray
    packBytes k.width ((List.range k.planes).flatMap fun p => (List.range k.rowlen).flatMap fun c =>
      (List.range k.rows).map fun r =>
        let bit := ((p * k.rows + r) * k.rowlen + c) * k.width
        (List.range ((k.width + 15) / 8)).foldl (fun v i => v + ((a[bit / 8 + i]?).getD 0).toNat * 2 ^ (8 * i)) 0
          / 2 ^ (bit % 8) % 2 ^ k.width)
  else l

/-- The object operation of a command may act. -/
def State.engineReady (s : State) (w : Wherry) : Bool :=
  match w.aop.bind fun i => (s.core w.core).aops.find? fun e => e.id == i with
  | some e => s.objectReady w.core e
  | none => true

/-- A command is done with its slot or tile. -/
def State.dropEngine (s : State) (w : Wherry) : State :=
  match w.aop with
  | some i => (s.dropObject w.core i).pumpObjects w.core
  | none => s

/-- The rows and scales of one copy of ASTASH, with their addresses. -/
def stashRows (t : Array Lane) (fmt : Nat) (bs8 tr : Bool) (mode : Mode) : Option (Shape × Word) →
    List (Word × List Byte) × Flags
  | none => ([], 0#4)
  | some (k, scales) =>
    let (rows, sc, fl) := stashCopy t fmt bs8 tr mode
    (((k.runs 0).map (·.1)).zip rows ++ (if bs8 then [(scales, sc)] else []), fl)

/-- One piece of a command's work: bytes read into its buffer, a destination line, or a block. -/
def State.wherryWork (s : State) (w : Wherry) : Piece :=
  match w.body with
  | .copy d k =>
    if s.isRemote k.base then do
      match ← s.pullShape w k with
      | some r => .ok (some r)
      | none => .ok (some (s, { w with body := .writes (rowsWith d w.buf), buf := [] }, 0))
    else if d.total ≤ w.done then .ok none
    else s.moveLine w d.total k.byteAddr d.byteAddr
  | .gather d k i => do
    match ← s.pullShape w i with
    | some r => .ok (some r)
    | none =>
      let rows := ((List.range d.rows).zip (indexes w.buf)).filter fun p => decide (p.2 < k.rows)
      .ok (some (s, { w with body := .moves d k rows, buf := [] }, 0))
  | .scatter d k i => do
    match ← s.pullShape w i with
    | some r => .ok (some r)
    | none =>
      let rows := scatterRows d.rows ((indexes w.buf).zip (List.range k.rows))
      .ok (some (s, { w with body := .moves d k rows, buf := [] }, 0))
  | .moves d k rows =>
    let n := d.rowBytes
    if s.isRemote k.base then
      match rows[w.buf.length / n]? with
      | some (_, r) => s.pull w (k.byteAddr (r * n + w.buf.length % n)) (n - w.buf.length % n)
      | none =>
        let l := (rows.map fun p => d.byteAddr (p.1 * n)).zip (pieces n rows.length w.buf)
        .ok (some (s, { w with body := .writes l, buf := [] }, 0))
    else if rows.length * n ≤ w.done then .ok none
    else
      let row := fun (p : Nat) => (rows[p / n]?).getD (0, 0)
      s.moveLine w (rows.length * n) (fun p => k.byteAddr ((row p).2 * n + p % n)) fun p => d.byteAddr ((row p).1 * n + p % n)
  | .fill d v =>
    if d.total ≤ w.done then .ok none
    else
      let row := (fillRow d v).toArray
      s.writePiece w [(linePositions d.byteAddr w.done d.total).map fun p => (d.byteAddr p, (row[p % d.rowBytes]?).getD 0)]
  | .comp a k => do
    match ← s.pullShape w k with
    | some r => .ok (some r)
    | none => .ok (some (s, { w with body := .writes [(a, packStream k.width w.buf)], buf := [] }, 0))
  | .decomp d a =>
    match streamNext d.total w.buf with
    | .read off n => s.pull w (a + BitVec.ofNat 64 off) n
    | .bad => .error (.fail 8 a)
    | .blocks l => match unpackStream w.buf l with
      | none => .error (.fail 8 a)
      | some bytes => .ok (some (s, { w with body := .blocks (rowsWith d bytes), buf := [] }, 0))
  | .loado slot _ k _ => do
    match ← s.pullShape w k with
    | some r => .ok (some r)
    | none =>
      if w.done = k.total then .ok none
      else if !s.engineReady w then .error .wait
      else .ok (some (s.slotWrite w.core slot 0 (loadBytes k w.buf), { w with done := k.total }, k.total))
  | .stash tile fmt bs8 mode p t =>
    if !s.engineReady w then .error .wait
    else
      let k := s.tile w.core tile
      let a := cellsArray 0 12288 k.data
      let (lp, fp) := stashRows a fmt bs8 false (Mode.ofCode mode) p
      let (lt, ft) := stashRows a fmt bs8 true (Mode.ofCode mode) t
      .ok (some ((s.dropEngine w).onGroup w.age (·.orFp (fp ||| ft)), { w with body := .writes (lp ++ lt), aop := none }, 0))
  | .writes l =>
    match cellsFrom l w.done 128 with
    | [] => .ok none
    | p :: cs => s.writePiece w [p :: cs.takeWhile fun q => q.1.toNat / 128 == p.1.toNat / 128]
  | .blocks l =>
    match cellsFrom l w.done 4096 with
    | [] => .ok none
    | cs => s.writePiece w (lineGroups cs)

/-- One piece of a command's work; nothing is left to do only once everything sent is acknowledged (R275). -/
def State.wherryPiece (s : State) (w : Wherry) : Piece :=
  match s.wherryWork w with
  | .ok none => if w.out.isEmpty then .ok none else .error .wait
  | r => r

/-! ## Counting, completion, failure (R273 to R275, R277) -/

/-- Replace a command. -/
def State.putWherry (s : State) (w : Wherry) : State :=
  { s with wherry := s.wherry.map fun v => if v.id == w.id then w else v }

/-- A command subtracts part of its count from its object. -/
def State.countWherry (s : State) (w : Wherry) (n : Nat) : State :=
  let k := min n w.left
  match w.bar with
  | none => s.putWherry { w with left := w.left - k }
  | some a => if k = 0 then s.putWherry w
    else (s.putWherry { w with left := w.left - k }).objectCount
      { wg := w.wg, ctx := w.ctx, core := w.core, age := w.age, op := w.id, addr := a, n := -(k : Int) }

/-- How much of its count a command makes for so many visible bytes of its destination: WCOMP, whose count is of source bytes, makes
it at its end (R275, R281). -/
def Wherry.counted (w : Wherry) (n : Nat) : Nat := if w.major = 0x32 ∧ w.minor = 1 then 0 else n

/-- The command without packets that are not written: their bytes are not done. -/
def Wherry.without (w : Wherry) (sel : EnginePacket → Bool) : Wherry :=
  { w with out := w.out.filter fun p => !sel p, done := w.done - ((w.out.filter sel).map (·.size)).sum }

/-- A command is over: its whole count is made, its objects are free, and WH falls.  What was refused does not go again; what is on its
way is still written or not (R285). -/
def State.endWherry (s : State) (w : Wherry) (state : WherryState) : State :=
  let s1 := (s.countWherry w w.left).dropEngine w
  (s1.putWherry { w.without (·.waiting) with left := 0, state := state, buf := [], asked := false }).finishOp w.age .wh w.id

/-- The load that a restore makes of a read-only-staged slot clears RO where it fails (R378). -/
def State.failReload (s : State) (w : Wherry) : State :=
  match w.major, w.body with
  | 0, .loado slot _ _ _ => s.onOperand w.core slot fun o => { o with ro := none }
  | _, _ => s

/-- A command fails, and leaves a record in its group (R274). -/
def State.failWherry (s : State) (w : Wherry) (detail : Nat) (a : Word) : State :=
  let r : FailedEngine := { order := w.id, ferry := false, pc := w.pc, detail := detail, addr := a, peer := pkgOf a,
                            inTrap := w.inTrap }
  ((s.failReload w).endWherry { w with detail := detail, failAddr := a } .failed).onGroup w.age fun g =>
    { g with work := { g.work with failedEngine := g.work.failedEngine ++ [r] } }

/-- Do pieces of work until a number of bytes is covered, or the command stops. -/
def State.wherryRun (s : State) (w : Wherry) (want : Nat) : Nat → State × Wherry × Nat × Option EngineStop × Bool
  | 0 => (s, w, 0, none, false)
  | fuel + 1 =>
    if want = 0 then (s, w, 0, none, false)
    else match s.wherryPiece w with
      | .error e => (s, w, 0, some e, false)
      | .ok none => (s, w, 0, none, true)
      | .ok (some (s1, w1, n)) =>
        let (s2, w2, m, e, fin) := State.wherryRun s1 w1 (want - n) fuel
        (s2, w2, n + m, e, fin)

/-- Let a running command work: what it covers is counted, and it fails where it must; with `finish` it completes once
nothing is left. -/
def State.workWherry (s : State) (id want : Nat) (finish : Bool) : State :=
  match s.wherry.find? fun w => w.id == id with
  | none => s
  | some w =>
    if w.state != .running then s
    else
      let (s1, w1, n, stop, fin) := s.wherryRun w want (2 ^ 42)
      match stop with
      | some (.fail d a) => (s1.putWherry w1).failWherry w1 d a
      | _ => if fin && finish then s1.endWherry w1 .complete else s1.countWherry w1 (w1.counted n)

/-! ## Events of the engine -/

/-- The queued commands that may start: the earliest of each group (R271). -/
def State.startable (s : State) (core : Nat) : List Wherry :=
  s.wherry.filter fun w => w.core == core && w.state == .queued
    && !s.wherry.any fun v => v.age == w.age && v.state == .queued && decide (v.id < w.id)

/-- The effective priorities of the groups that wait at MBWAIT on an object. -/
def State.waiterPrios (s : State) (ps : Cells Nat) (key : Nat) : List Nat :=
  (s.groups.filter fun p => p.2.bank.any fun f => f.waitsOn.any fun a => memKey p.2.id.ctx p.2.id.wg a == key).map fun p =>
    Map.get 0 ps p.1

/-- The priority at which a command starts: its group's effective priority, or that of a group that waits on its barrier
object (R350). -/
def State.startPrio (s : State) (ps : Cells Nat) (w : Wherry) : Nat :=
  match w.bar with
  | none => Map.get 0 ps w.age
  | some a => (s.waiterPrios ps (memKey w.ctx w.wg a)).foldl max (Map.get 0 ps w.age)

/-- The one that starts: highest priority, then the older group. -/
def firstStart (prio : Wherry → Nat) : List Wherry → Option Wherry
  | [] => none
  | w :: l => match firstStart prio l with
    | none => some w
    | some v => some (if prio w < prio v ∨ (prio w = prio v ∧ v.age < w.age) then v else w)

/-- WHERRY_COMMAND_START (R271). -/
def execWherryCommandStart (core : Nat) (s : State) : Host.Outcome State Fault Refusal :=
  match firstStart (s.startPrio s.priorities) (s.startable core) with
  | none => .next s
  | some w => .next (s.putWherry { w with state := .running })

/-- WHERRY_COUNT_UPDATE (R275): a command works on, and counts what it has made visible. -/
def execWherryCountUpdate (cmd bytes : Nat) (s : State) : Host.Outcome State Fault Refusal :=
  .next (s.workWherry cmd bytes false)

/-- WHERRY_COMMAND_COMPLETE (R275): a command works to its end, unless something stops it. -/
def execWherryCommandComplete (cmd : Nat) (s : State) : Host.Outcome State Fault Refusal :=
  .next (s.workWherry cmd (2 ^ 42) true)

/-- Word 5 of a record of kind 3 (Table 11.11). -/
def Wherry.identity (w : Wherry) (dst : Bool) : Word :=
  BitVec.ofNat 64 (w.order % 2 ^ 16 * 2 ^ 24 + (if dst then 2 ^ 13 else 0) + w.minor * 2 ^ 6 + w.major)

/-- A command pauses on a failed walk, with its record, which names the page; with FQSIZE = 0 it is declined (R201, R273).
What is parked keeps the address of the lowest failed byte (R274). -/
def State.pauseWherry (s : State) (w : Wherry) (detail : Nat) (a : Word) (dst : Bool) : State :=
  match Map.find? s.groups w.age with
  | none => s
  | some g =>
    let page : Word := BitVec.ofNat 64 (a.toNat / 65536 * 65536)
    let s1 := s.raiseRecord 3 detail w.ctx w.core g.id.slot w.pc page 0 (w.identity dst)
    if s.fqLog = 0 then s1.failWherry w detail a
    else { s1.putWherry { w with state := .paused } with parks := s1.parks ++
      [{ token := s.tokens, age := w.age, kind := 3, detail := detail, pc := w.pc, addr := a, lanes := 0, what := .engine w.id }] }

/-- The source address that a command has asked another package for. -/
def Wherry.askedAddr (w : Wherry) : Option Word :=
  if !w.asked then none
  else match w.body with
    | .copy _ k | .comp _ k | .loado _ _ k _ => some (k.byteAddr w.buf.length)
    | .moves d k rows => (rows[w.buf.length / d.rowBytes]?).map fun p =>
        k.byteAddr (p.2 * d.rowBytes + w.buf.length % d.rowBytes)
    | .decomp d a => match streamNext d.total w.buf with
      | .read off _ => some (a + BitVec.ofNat 64 off)
      | _ => none
    | .gather _ _ _ | .scatter _ _ _ | .fill _ _ | .stash _ _ _ _ _ _ | .writes _ | .blocks _ => none

/-- The retry limit of a command's queue (R263, R273). -/
def State.wherryLimit (s : State) (w : Wherry) : Nat :=
  match Map.find? s.groups w.age with
  | some g => (s.queue g.id.queue).retry
  | none => 0

/-- What the retry limit allows no further request for: the detail of the last refusal, and the address of the lowest byte
refused. -/
def State.refusedFor (s : State) (w : Wherry) : Option (Nat × Word) :=
  let limit := s.wherryLimit w
  match w.askedAddr with
  | some a => if w.waiting ∧ limit < w.retries then some (w.refusal, a) else none
  | none => (w.out.find? fun p => p.waiting && decide (limit < p.retries)).map fun p => (p.detail, p.addr)

/-- Send a packet that was refused again: to its package, or to the home of its line under a new tag. -/
def State.sendPacket (s : State) (cmd : Nat) (stream : Bool) (p : EnginePacket) : State × EnginePacket :=
  match p.tag with
  | none => (s.send (.bulk p.pkg stream p.runs), { p with waiting := false })
  | some _ => (s.askRuns cmd p.runs, { p with waiting := false, tag := some s.fabric.askTag, pkg := s.homePkg (offset48 p.addr) })

/-- A refused packet goes again once its backoff is over. -/
def State.sendAgain (s : State) (w : Wherry) : State :=
  let (s1, out) := w.out.foldl (fun (acc : State × List EnginePacket) p =>
    if p.waiting && decide (p.retryAt ≤ s.time8) then
      let (t, q) := acc.1.sendPacket w.id w.stream p
      (t, acc.2 ++ [q])
    else (acc.1, acc.2 ++ [p])) (s, [])
  let w1 := { w with out := out }
  s1.putWherry (if w.waiting ∧ w.retryAt ≤ s.time8 then { w1 with asked := false, waiting := false } else w1)

/-- A refused request of the command is due again. -/
def State.againDue (s : State) (w : Wherry) : Bool :=
  (w.waiting && decide (w.retryAt ≤ s.time8)) || w.out.any fun p => p.waiting && decide (p.retryAt ≤ s.time8)

/-- ENGINE_XLATE_FAULT (R273): a local walk of a command has failed; or a remote page was refused, and the command fails once
the refusals pass the limit, or asks again once the backoff is over (R263). -/
def execEngineXlateFault (cmd : Nat) (s : State) : Host.Outcome State Fault Refusal :=
  match s.wherry.find? fun w => w.id == cmd with
  | none => .next s
  | some w =>
    if w.state != .running then .next s
    else match s.wherryPiece w with
      | .error (.fault d a dst) => .next (s.pauseWherry w d a dst)
      | _ => match s.refusedFor w with
        | some (d, a) => .next (s.failWherry w d a)
        | none => .next (s.sendAgain w)

/-- A running command can go on, or must pause. -/
def State.wherryDue (s : State) (w : Wherry) : List Event :=
  if w.state != .running then []
  else match s.wherryPiece w with
    | .error (.fault _ _ _) => [.engineXlateFault w.id]
    | .error .wait => if (s.refusedFor w).isSome || s.againDue w then [.engineXlateFault w.id] else []
    | .error (.fail _ _) | .ok _ =>
      .wherryCommandComplete w.id :: if (s.refusedFor w).isSome || s.againDue w then [.engineXlateFault w.id] else []

/-! ## Packets from other packages (R276) -/

/-- Bytes that another package's command writes or reads here wait: for a mark on their line, a command that owns it, or a store
to them that has not landed (R222, R230, R248). -/
def State.packetWaits (s : State) (a : Word) (n : Nat) : Bool :=
  let lines := (List.range (a.toNat % 128 / 128 + (n + 255) / 128)).map fun i => lineOf a.toNat + i
  (lines.any fun line => decide (line * 128 < a.toNat + n) && (s.markHolds 512 line || s.wherryOwns s.nextOp line))
    || s.landing.any fun r => r.isPending && r.lanes.any fun l => r.touches l a.toNat n

/-- Every line of a packet is landed or translates; else the detail of the first that does not. -/
def State.packetReady (s : State) : Nat → Nat → Except Nat State
  | _, 0 => .ok s
  | line, n + 1 =>
    if s.mem.llcLanded.contains line then s.packetReady (line + 1) n
    else match s.translate (line * 128) with
      | .ok (_, s1) => s1.packetReady (line + 1) n
      | .error d => .error d

/-- A page under shootdown is not ready: what detail the answer carries is not stated (R263; log 4). -/
def State.refusePacket (s : State) (src : Nat) (addr : Word) : State :=
  State.send { s with freeCtr := s.freeCtr + 1 } (.bulkRefusal src addr (refusalDetail (Config.freeWord s.freeCtr)))

/-- A packet of a package to a page of 4 KiB, which travels on one plane and so stays in order (R394). -/
def samePacketPage (src : Nat) (addr : Word) : Event → Bool
  | .wherryRemotePacket p _ runs => p == src && (runs.headD (0, [])).1.toNat / 4096 == addr.toNat / 4096
  | _ => false

/-- Lines of a run. -/
def runLines (r : Word × List Byte) : Nat × Nat :=
  let first := lineOf r.1.toNat
  (first, if r.2.isEmpty then 0 else lineOf (r.1.toNat + r.2.length - 1) + 1 - first)

/-- Every line of a packet's runs is landed or translates; else the detail of the first that does not. -/
def State.runsReady (s : State) : List (Word × List Byte) → Except Nat State
  | [] => .ok s
  | r :: rs => match s.packetReady (runLines r).1 (runLines r).2 with
    | .ok s1 => s1.runsReady rs
    | .error d => .error d

/-- Write a run of a packet at the LLC: streamed lines that are not present there are not allocated (R278). -/
def State.writeRun (s : State) (stream : Bool) (r : Word × List Byte) : State :=
  let cells := (List.range r.2.length).zip r.2 |>.map fun (p : Nat × Byte) => (r.1.toNat + p.1, p.2)
  if stream then (List.range (runLines r).2).foldl (fun (t : State) i =>
    t.streamWrite ((runLines r).1 + i) (cells.filter fun p => lineOf p.1 == (runLines r).1 + i)) s
  else s.llcWrite cells

/-- A packet may be written here: each run lies in tensor space of this package. -/
def State.packetHere (s : State) (runs : List (Word × List Byte)) : Bool :=
  runs.all fun r => !r.2.isEmpty && space? r.1 == some .tensor && !s.isRemote r.1

/-- WHERRY_REMOTE_PACKET (R276): bytes that a command of this package asked for, or that another package's command writes
here, which is acknowledged.  A page that does not translate, or is under shootdown, answers receiver-not-ready, and nothing of the
packet is written (R273, R283). -/
def execWherryRemotePacket (src : Nat) (stream : Bool) (runs : List (BitVec 64 × List (BitVec 8))) (s : State) :
    Host.Outcome State Fault Refusal :=
  let e := Event.wherryRemotePacket src stream runs
  let s0 := s.served e
  let addr := (runs.headD (0, [])).1
  if s.fabric.lost.contains src || runs.isEmpty then .next s0
  else if s.isRemote addr then
    match s.wherry.find? fun w => w.state == .running && w.askedAddr == some addr with
    | some w => .next (s0.putWherry { w with buf := w.buf ++ runs.flatMap (·.2), asked := false, waiting := false, retries := 0 })
    | none => .next s0
  else if !s.packetHere runs then .next s0
  else if runs.any fun r => s.underShootdown r.1.toNat then .next (s0.refusePacket src addr)
  else if (runs.any fun r => s.packetWaits r.1 r.2.length) || (s.before e).any (samePacketPage src addr) then .next (s.keep e)
  else
    match s0.runsReady runs with
    | .error d => .next (s0.send (.bulkRefusal src addr d))
    | .ok s1 => .next ((runs.foldl (fun t r => t.writeRun stream r) s1).send (.bulkAck src addr))

/-- Another package's engine reads n bytes here: they are sent, or it is told that the page is not ready; none while a line
of them is not free. -/
def State.answerRead (s : State) (src : Nat) (addr : Word) (n : Nat) : Option State :=
  if s.fabric.lost.contains src || s.isRemote addr || space? addr != some .tensor || n = 0 then some s
  else if s.underShootdown addr.toNat then some (s.refusePacket src addr)
  else if s.packetWaits addr n then none
  else match s.llcReads addr.toNat n with
    | .ok (l, t) => some (t.send (.bulk src false [(addr, l)]))
    | .error d => some (s.send (.bulkRefusal src addr d))

/-- Another package has applied a packet of a command: its bytes are visible there and count (R275). -/
def State.packetAcked (s : State) (sel : EnginePacket → Bool) : State :=
  match s.wherry.find? fun w => w.out.any sel with
  | none => s
  | some w => match w.out.find? sel with
    | none => s
    | some p =>
      let w1 := { w with out := w.out.erase p }
      if w.active then s.countWherry w1 (w1.counted p.size) else s.putWherry w1

/-- A packet that waits for the backoff of its k-th refusal (R263). -/
def EnginePacket.backoff (p : EnginePacket) (now detail : Nat) : EnginePacket :=
  { p with waiting := true, retries := p.retries + 1, retryAt := now + 8000 * 2 ^ p.retries, detail := detail }

/-- A package is not ready for a packet of a command: it goes again after the backoff of R263.  SYNONYM and poisoned bytes fail
the command (R273, R410).  A command that is over sends nothing again. -/
def State.packetBack (s : State) (sel : EnginePacket → Bool) (detail : Nat) : State :=
  match s.wherry.find? fun w => w.out.any sel with
  | none => s
  | some w =>
    if !w.active then s.putWherry (w.without sel)
    else match w.out.find? sel with
      | none => s
      | some p =>
        if detail = 5 ∨ detail = 12 then s.failWherry (w.without sel) detail p.addr
        else s.putWherry { w with out := w.out.map fun q => if sel q then q.backoff s.time8 detail else q }

/-- The home of a line cannot take a packet of a command.  Another package is not ready; where this package is the home, the walk that
failed is a local one: the command pauses with the detail, and the packet goes again once it is resumed (R273). -/
def State.packetFailed (s : State) (tag detail : Nat) : State :=
  let mine := fun (p : EnginePacket) => p.tag == some tag
  match s.wherry.find? fun w => w.active && w.out.any mine with
  | none => s.packetBack mine detail
  | some w => match w.out.find? mine with
    | none => s
    | some p =>
      if !s.homedHere (offset48 p.addr) || detail == 5 || detail == 12 then s.packetBack mine detail
      else
        let out := w.out.map fun q => if mine q then { q with waiting := true, retryAt := s.time8, detail := detail } else q
        s.pauseWherry { w with out := out } detail p.addr true

/-- The commands that wait for a package which is lost fail (R18, R267). -/
def State.loseWherry (s : State) (peer : Nat) : State :=
  let gone := fun (p : EnginePacket) => p.pkg == peer && p.tag.isNone
  s.wherry.foldl (fun (t : State) w =>
    let asked := w.askedAddr.filter fun a => pkgOf a == peer
    match (((w.out.filter gone).map fun p => p.addr.toNat) ++ asked.toList.map (·.toNat)).min? with
    | none => t
    | some a => if w.active then t.failWherry (w.without gone) 11 (BitVec.ofNat 64 a) else t.putWherry (w.without gone)) s

/-- Another package is not ready for a read of a command, which goes again after the backoff of R263, or for a packet. -/
def State.packetRefused (s : State) (pkg : Nat) (addr : Word) (detail : Nat) : State :=
  match s.wherry.find? fun w => w.active && w.askedAddr == some addr && !w.waiting with
  | none => s.packetBack (fun p => p.pkg == pkg && p.addr == addr && p.tag.isNone && !p.waiting) detail
  | some w =>
    if detail = 5 ∨ detail = 12 then s.failWherry w detail addr
    else s.putWherry { w with waiting := true, retries := w.retries + 1, retryAt := s.time8 + 8000 * 2 ^ w.retries, refusal := detail }

/-! ## Status (R285) and writing results back (R39) -/

/-- Code of STATE (Table 11.6). -/
def WherryState.code : WherryState → Nat
  | .queued => 1
  | .running => 2
  | .paused => 3
  | .complete => 4
  | .failed => 5
  | .cancelled => 6

/-- The destination bytes that a command has written so far: not what is sent and not acknowledged. -/
def Wherry.written (w : Wherry) : Nat := w.done - (w.out.map (·.size)).sum

/-- The status word of a command. -/
def State.statusWord (s : State) (cmd : Option Nat) : Word :=
  match cmd.bind fun i => s.wherry.find? fun w => w.id == i with
  | none => 0
  | some w => BitVec.ofNat 64 (w.written % 2 ^ 40 * 2 ^ 8 + (if w.state = .failed then w.detail % 16 * 16 else 0) + w.state.code)

/-- RESULT_WRITEBACK (R39): the results of an instruction in flight are written: those computed at its issue, or a status
word as it stands now. -/
def execResultWriteback (op : Nat) (s : State) : Host.Outcome State Fault Refusal :=
  match s.pend.find? fun p => p.id == op with
  | none => .next s
  | some p => match p.kind with
    | .result vw sw fp => .next (s.writeBack p vw sw fp)
    | .wstat sd cmd => .next (s.writeBack p [] [(sd, s.statusWord cmd)] 0#4)
    | _ => .next s

/-! ## Responses of the driver (R202 to R204, R273) -/

/-- Change what is parked under a token. -/
def State.onPark (s : State) (token : Nat) (f : Park → Park) : State :=
  { s with parks := s.parks.map fun p => if p.token == token then f p else p }

/-- Forget a parked access. -/
def State.dropPark (s : State) (token : Nat) : State := { s with parks := s.parks.filter fun p => p.token != token }

/-- The token names an access that waits for the driver. -/
def State.parkOf (s : State) (token : Nat) : Option Park :=
  s.parks.find? fun p => p.token == token && match p.what with
    | .resent _ => false
    | _ => true

/-- PRIVHWM after a Resume of kind 2: the larger of it and the context's PHWM, as offsets (R204).  DESIGN CHOICE (log 123): it stays as
it is where PHWM cannot be read. -/
def State.raiseHwm (s : State) (age : Nat) : State :=
  s.onGroup age fun g => match s.contextWord g.id.ctx 16 with
    | none => g
    | some h => if g.sys.privHwm.toNat < h then
        { g with sys := { g.sys with privHwm := BitVec.ofNat 64 h } } else g

/-- Resume: the unfinished lanes are sent again, the instruction is retried, or the command goes on (R202). -/
def State.resumeToken (s : State) (token : Nat) : State :=
  match s.parkOf token with
  | none => s
  | some p => match p.what with
    | .load op | .resent op =>
      let s1 := s.onPark token fun q => { q with what := .resent op }
      match s1.pend.find? fun q => q.id == op with
        | some q => match q.kind with
          | .load l => s1.settleLoad q { l with parked := 0 }
          | _ => s1
        | none => s1
    | .instruction _ _ =>
      let s1 := s.dropPark token
      (if p.kind = 2 then s1.raiseHwm p.age else s1).deliverDeclined p.age
    | .engine cmd =>
      let s1 := s.dropPark token
      match s1.wherry.find? fun w => w.id == cmd with
        | some w => s1.putWherry { w with state := .running }
        | none => s1

/-- FAULTRESP_RESUME. -/
def execFaultrespResume (token : Nat) (s : State) : Host.Outcome State Fault Refusal := .next (s.resumeToken token)

/-- Decline: the access is given up, and its trap comes where the group stopped; a command fails with the detail of the
walk (R202). -/
def State.declineToken (s : State) (token : Nat) : State :=
  match s.parkOf token with
  | none => s
  | some p => match p.what with
    | .load op | .resent op => match s.pend.find? fun q => q.id == op with
      | some q => s.declineLoad q token p.declineTrap
      | none => s.dropPark token
    | .instruction entry len =>
      let trap := ((Map.find? s.groups p.age).map (·.flow.trapMode)).getD false
      (s.dropPark token).decline p.age token p.declineTrap entry len trap
    | .engine cmd =>
      let s1 := s.dropPark token
      match s1.wherry.find? fun w => w.id == cmd with
        | some w => s1.failWherry w p.detail p.addr
        | none => s1

/-- FAULTRESP_DECLINE. -/
def execFaultrespDecline (token : Nat) (s : State) : Host.Outcome State Fault Refusal := .next (s.declineToken token)

end Sys2Proof.Machine
end

