-- ==== Sys2Proof/Machine/WherryOps.lean ====
section
/-! DEFINITION. The instructions of the copy engine: majors 0x30 to 0x33, and ASTASH (R270 to R272, R278 to R285, R323 to
R325). -/

namespace Sys2Proof.Machine

/-! ## Checks at issue (R272) -/

/-- One side of a command: base address, extent, and the greatest power of two that its address, and for a shape its
pitches, must be a multiple of. -/
structure Side where
  addr : Word
  extent : Nat
  align : Nat
  pitch : Nat
  ppitch : Nat
  deriving DecidableEq, Repr

/-- Bytes that the base address and the pitches of a shape are a multiple of. -/
def Shape.align (k : Shape) : Nat := if k.width < 8 then 1 else min (k.width / 8) 8

/-- A shape as a side. -/
def Shape.side (k : Shape) : Side :=
  { addr := k.base, extent := k.extent, align := k.align, pitch := k.pitch, ppitch := k.ppitch }

/-- A run of bytes as a side whose alignment is checked elsewhere. -/
def plainSide (a : Word) (n : Nat) : Side := { addr := a, extent := n, align := 1, pitch := 0, ppitch := 0 }

/-- Check 2 fails for a side: its lowest and highest byte lie in one space, in shared memory within the allocation, and
in no system window. -/
def State.sideBad (s : State) (g : Group) (d : Side) : Bool :=
  let top := d.addr.toNat + d.extent - 1
  match space? d.addr with
  | none | some .window => true
  | some .shared => decide (s.sharedSize g < d.addr.toNat % 2 ^ 20 + d.extent)
  | some _ => decide (top / 2 ^ 48 ≠ d.addr.toNat / 2 ^ 48)

/-- Check 4 fails for a side. -/
def Side.misaligned (d : Side) : Bool :=
  decide (d.addr.toNat % d.align ≠ 0) || decide (d.pitch % d.align ≠ 0) || decide (d.ppitch % d.align ≠ 0)

/-- The address of a command's barrier object; none for a register that holds 0, as s63 does (R270, R272). -/
def Ctx.barOf (c : Ctx) (r : BitVec 6) : Option Word := if c.g.s r = 0 then none else some (c.g.s r)

/-- Check 5: the barrier object, and a count below 2^27. -/
def Ctx.checkBar (c : Ctx) (s : State) (bar : Option Word) (count : Nat) : Except Stop Unit :=
  match bar with
  | none => .ok ()
  | some a => do
    need (space? a == some .shared && decide (a.toNat % 2 ^ 20 < s.sharedSize c.g)) (addrTrap .space 32 a)
    need (decide (a.toNat % 8 = 0)) (addrTrap .misalign 32 a)
    need (decide (count < 2 ^ 27)) c.illegal

/-- The five checks of R272 in their order: records with whether they are destinations, all sides, the sides of which one
may be remote, the barrier object and the count. -/
def Ctx.checkWherry (c : Ctx) (s : State) (recs : List (Shape × Bool)) (sides ends_ : List Side) (bar : Option Word)
    (count : Nat) : Except Stop Unit := do
  need (recs.all fun r => !r.1.bad r.2) c.illegal
  match sides.find? (s.sideBad c.g) with
  | some d => .error (addrTrap .space 32 d.addr)
  | none => .ok ()
  match ends_.filter fun d => s.isRemote d.addr with
  | d :: _ :: _ => .error (addrTrap .remoteDirect 32 d.addr)
  | _ => .ok ()
  match sides.find? Side.misaligned with
  | some d => .error (addrTrap .misalign 32 d.addr)
  | none => .ok ()
  c.checkBar s bar count

/-! ## Issue (R270, R271, R276) -/

/-- A WSTAT in flight names a command (R285). -/
def State.statAsks (s : State) (cmd : Nat) : Bool :=
  s.pend.any fun p => match p.kind with
    | .wstat _ c => c == some cmd
    | _ => false

/-- Forget finished commands that no group can ask about any more. -/
def State.forgetWherry (s : State) : State :=
  { s with wherry := s.wherry.filter fun w =>
      w.active || s.statAsks w.id || s.groups.any fun p => p.2.work.wherryIds.contains w.id }

/-- The issuing core's L1 writes back its landed dirty bytes of the lines that a command owns, and drops its copies
(R248). -/
def State.expelOwned (s : State) (w : Wherry) : State :=
  let mine := fun (k : Nat) (_ : L1Byte) => w.owns (lineOf k)
  if (s.core w.core).l1.isEmpty then s else (s.l1Writeback w.core mine).l1Drop w.core mine

/-- A package that one of the addresses names and that is gone. -/
def State.goneSide (s : State) (ends_ : List Side) : Option Word :=
  (ends_.find? fun d => s.isRemote d.addr && s.peerGone (pkgOf d.addr)).map (·.addr)

/-- Put a command into the engine: it counts on WH and is the group's most recent one.  A command that names a package
that is gone fails at once with PEER-LOST (R18, R272). -/
def Ctx.startWherry (c : Ctx) (s : State) (body : WherryBody) (stream : Bool) (bar : Option Word) (count : Nat)
    (aop : Option Nat) (ends_ : List Side) : State :=
  let w : Wherry :=
    { id := s.nextOp, core := c.core, age := c.age, wg := c.g.id.wg, ctx := c.ctx, pc := c.pc, major := c.word / 2 % 64,
      minor := c.word / 2 ^ 25 % 128, order := c.g.work.wherryCount, stream := stream, bar := bar, left := count,
      state := .queued, detail := 0, done := 0, failAddr := 0, aop := aop, retries := 0, buf := [], asked := false,
      waiting := false, retryAt := 0, refusal := 0, out := [], inTrap := c.g.flow.trapMode, body := body }
  let s1 := c.finish { s with nextOp := s.nextOp + 1, wherry := s.wherry ++ [w] } fun g =>
    { g with work := { g.work.start .wh w.id with wherryCount := (g.work.wherryCount + 1) % 2 ^ 16,
                                                  wherryIds := (w.id :: g.work.wherryIds).take 32 } }
  let s2 := (s1.expelOwned w).forgetWherry
  match s.goneSide ends_ with
  | some a => s2.failWherry w 11 a
  | none => s2

/-- A command that reads and writes memory: the checks of R272, the further checks, room, and its start. -/
def wherryForm (s : State) (bar : BitVec 6) (recs : Ctx → List (Shape × Bool)) (sides ends_ : Ctx → List Side)
    (count : Ctx → Nat) (more : Ctx → Except Stop Unit) (stream : Bool) (body : Ctx → WherryBody) :
    Host.Outcome State Fault Refusal :=
  run s fun c => do
    c.checkWherry s (recs c) (sides c) (ends_ c) (c.barOf bar) (count c)
    more c
    need (s.wherryRoom c.core c.age) (.hold .wherryRoom)
    .ok (c.startWherry s (body c) stream (c.barOf bar) (count c) none (ends_ c))

/-- The shape of a record field. -/
def Ctx.shape (c : Ctx) (k : BitVec 3) : Shape := c.g.shape k.toNat

/-! ## Copies, gathers and fills -/

/-- WCOPY and WCOPY.stream (R278). -/
def copyForm (s : State) (stream : Bool) (r : BitVec 6) (k d : BitVec 3) : Host.Outcome State Fault Refusal :=
  let sides := fun (c : Ctx) => [(c.shape d).side, (c.shape k).side]
  wherryForm s r (fun c => [(c.shape d, true), (c.shape k, false)]) sides sides (fun c => (c.shape d).total)
    (fun c => need ((c.shape d).width == (c.shape k).width && (c.shape d).count == (c.shape k).count) c.illegal) stream
    fun c => .copy (c.shape d) (c.shape k)

/-- WCOPY. -/
def execWcopy (r : BitVec 6) (src d : BitVec 3) (s : State) : Host.Outcome State Fault Refusal := copyForm s false r src d

/-- WCOPY.stream. -/
def execWcopyStream (r : BitVec 6) (src d : BitVec 3) (s : State) : Host.Outcome State Fault Refusal :=
  copyForm s true r src d

/-- WGATHER and WSCATTER (R279): the index list is read locally, and has an index for each row of one side. -/
def indexForm (s : State) (scatter : Bool) (r : BitVec 6) (i k d : BitVec 3) : Host.Outcome State Fault Refusal :=
  let ends_ := fun (c : Ctx) => [(c.shape d).side, (c.shape k).side]
  wherryForm s r (fun c => [(c.shape d, true), (c.shape k, false), (c.shape i, false)])
    (fun c => ends_ c ++ [(c.shape i).side]) ends_ (fun c => (if scatter then c.shape k else c.shape d).total)
    (fun c =>
      let kd := c.shape d
      let ks := c.shape k
      let ki := c.shape i
      need (ki.fmt == 10 && ki.count == (if scatter then ks.rows else kd.rows) && !s.isRemote ki.base
        && kd.planes == 1 && ks.planes == 1 && kd.rowlen == ks.rowlen && kd.width == ks.width) c.illegal) false
    fun c => if scatter then .scatter (c.shape d) (c.shape k) (c.shape i) else .gather (c.shape d) (c.shape k) (c.shape i)

/-- WGATHER. -/
def execWgather (r : BitVec 6) (imm src d : BitVec 3) (s : State) : Host.Outcome State Fault Refusal :=
  indexForm s false r imm src d

/-- WSCATTER. -/
def execWscatter (r : BitVec 6) (imm src d : BitVec 3) (s : State) : Host.Outcome State Fault Refusal :=
  indexForm s true r imm src d

/-- WFILL (R280). -/
def execWfill (r v : BitVec 6) (d : BitVec 3) (s : State) : Host.Outcome State Fault Refusal :=
  let sides := fun (c : Ctx) => [(c.shape d).side]
  wherryForm s r (fun c => [(c.shape d, true)]) sides sides (fun c => (c.shape d).total) (fun _ => .ok ()) false
    fun c => .fill (c.shape d) (c.g.s v)

/-! ## Compression -/

/-- A stream address that is no multiple of 64 takes MISALIGN. -/
def Ctx.checkStream (_ : Ctx) (a : Word) : Except Stop Unit := need (decide (a.toNat % 64 = 0)) (addrTrap .misalign 32 a)

/-- WCOMP (R281). -/
def execWcomp (r : BitVec 6) (src : BitVec 3) (a : BitVec 6) (s : State) : Host.Outcome State Fault Refusal :=
  let sides := fun (c : Ctx) => [plainSide (c.g.s a) (streamMax (c.shape src).total), (c.shape src).side]
  wherryForm s r (fun c => [(c.shape src, false)]) sides sides (fun c => (c.shape src).total)
    (fun c => do
      need (decide ((c.shape src).total % 4096 = 0)) c.illegal
      c.checkStream (c.g.s a)) false
    fun c => .comp (c.g.s a) (c.shape src)

/-- WDCOMP (R283): the stream's header is the part of it that is known at issue. -/
def execWdcomp (r a : BitVec 6) (d : BitVec 3) (s : State) : Host.Outcome State Fault Refusal :=
  let sides := fun (c : Ctx) => [(c.shape d).side, plainSide (c.g.s a) 64]
  wherryForm s r (fun c => [(c.shape d, true)]) sides sides (fun c => (c.shape d).total) (fun c => c.checkStream (c.g.s a))
    false fun c => .decomp (c.shape d) (c.g.s a)

/-! ## Operand slots and tiles -/

/-- SLOT with the object that fails (Table 15.4). -/
def slotTrap (n : Nat) : Stop := .trap { cause := .slot, aux := n }

/-- The group has claimed the slot. -/
def Ctx.ownsSlot (c : Ctx) (s : State) (n : Nat) : Bool := (s.operand c.core n).owner == some c.age

/-- The group has claimed the tile. -/
def Ctx.ownsTile (c : Ctx) (s : State) (n : Nat) : Bool := (s.tile c.core n).owner == some c.age

/-- WLOADO (R284, R301): the slot's TAG and read-only mark change at issue, its bytes as the command works. -/
def execWloado (ro : Bool) (n : BitVec 7) (r : BitVec 6) (src : BitVec 3) (s : State) : Host.Outcome State Fault Refusal :=
  run s fun c => do
    let k := c.shape src
    c.checkWherry s [(k, false)] [k.side] [k.side] (c.barOf r) k.total
    need (c.ownsSlot s n.toNat) (slotTrap n.toNat)
    need (decide (k.total ≤ 16384)) c.illegal
    need (s.wherryRoom c.core c.age) (.hold .wherryRoom)
    let s1 := s.onOperand c.core n.toNat fun o => { o with tag := 0, ro := if ro then some (k.base, c.g.kRec src.toNat) else none }
    let e : ObjectEntry := { id := s.nextOp, age := c.age, cls := 0, queued := false, op := .engine (some n.toNat) none s.nextOp }
    .ok (c.startWherry (s1.reachObject c.core e) (.loado n.toNat ro k (c.g.kRec src.toNat)) false (c.barOf r) k.total
      (some s.nextOp) [k.side])

/-- The checks of R272 for one destination of ASTASH: its record, its space, its alignment. -/
def Ctx.checkCopy (c : Ctx) (s : State) (k : Option Shape) (d : Side) : Except Stop Unit := do
  need (k.all fun k => !k.bad true) c.illegal
  need (!s.sideBad c.g d) (addrTrap .space 32 d.addr)
  need (!d.misaligned) (addrTrap .misalign 32 d.addr)

/-- Check 2 of R324, and then the barrier object: each copy, plain first, and then each scale array.  DESIGN CHOICE (log 128): R272's
remote rule is about a source and a destination; two copies that both lie in another package's tensor space take no REMOTE-DIRECT. -/
def Ctx.checkCopies (c : Ctx) (s : State) (copies : List (Shape × Word)) (scales : Bool) (bar : Option Word) (count : Nat) :
    Except Stop Unit := do
  copies.forM fun k => c.checkCopy s (some k.1) k.1.side
  if scales then copies.forM fun k => c.checkCopy s none (plainSide k.2 384) else .ok ()
  c.checkBar s bar count

/-- A copy that ASTASH writes: its shape and the address of its scales, which the register after the base names;
BREG = 63, which has none after it, takes s0 until its ILLEGAL is reached (log 97). -/
def Ctx.stashCopy (c : Ctx) (k : BitVec 3) : Shape × Word :=
  (c.shape k, c.g.s (BitVec.ofNat 6 ((c.g.kRec k.toNat).toNat / 2 ^ 53 % 64 + 1)))

/-- BREG of a record. -/
def Ctx.breg (c : Ctx) (k : BitVec 3) : Nat := (c.g.kRec k.toNat).toNat / 2 ^ 53 % 64

/-- The conditions of R324 on the copies, with their dimensions, and on the tile. -/
def Ctx.stashOk (c : Ctx) (s : State) (fmt : Nat) (bs8 : Bool) (tile : Nat) (copies : List (BitVec 3 × Nat × Nat)) : Bool :=
  let i32 := (s.tile c.core tile).i32
  (copies.all fun k => let d := c.shape k.1
    d.rowlen == k.2.1 && d.rows == k.2.2 && d.planes == 1 && d.fmt == fmt)
    && (!bs8 || decide (fmt ≤ 3)) && (!i32 || fmt == 10) && (!bs8 || copies.all fun k => decide (c.breg k.1 ≤ 62))

/-- ASTASH (R323 to R325). -/
def execAstash (cp : BitVec 2) (b : Bool) (f : BitVec 4) (r : BitVec 6) (q p : BitVec 3) (n : BitVec 5) (s : State) :
    Host.Outcome State Fault Refusal :=
  run s fun c => do
    let plain := cp.getLsbD 0
    let tr := cp.getLsbD 1
    let copies := (if plain then [(p, 192, 64)] else []) ++ (if tr then [(q, 64, 192)] else [])
    let shapes := copies.map fun k => c.stashCopy k.1
    let sides := shapes.map (·.1.side) ++ (if b then shapes.map fun k => plainSide k.2 384 else [])
    let count := (shapes.map fun k => k.1.total + (if b then 384 else 0)).sum
    c.checkCopies s shapes b (c.barOf r) count
    need (c.ownsTile s n.toNat) (slotTrap n.toNat)
    need (c.stashOk s f.toNat b n.toNat copies) c.illegal
    need (s.wherryRoom c.core c.age) (.hold .wherryRoom)
    let e : ObjectEntry := { id := s.nextOp, age := c.age, cls := 0, queued := false, op := .engine none (some n.toNat) s.nextOp }
    .ok (c.startWherry (s.reachObject c.core e)
      (.stash n.toNat f.toNat b c.g.sys.fpctl.toNat (if plain then some (c.stashCopy p) else none)
        (if tr then some (c.stashCopy q) else none)) false (c.barOf r) count (some s.nextOp) sides)

/-! ## Status and cancellation (R285) -/

/-- The command at a distance from the group's most recent one. -/
def Group.wherryAt (g : Group) (d : Word) : Option Nat := if d.toNat < 32 then g.work.wherryIds[d.toNat]? else none

/-- WSTAT. -/
def execWstat (b d : BitVec 6) (s : State) : Host.Outcome State Fault Refusal :=
  run s fun c => do
    c.needA
    .ok (c.launch (c.done s c.g) c.flagA none (.wstat (c.g.sKey d) (c.g.wherryAt (c.g.s b))))

/-- Cancel a command: it counts and completes, and its fault record is declined silently. -/
def State.cancelWherry (s : State) (w : Wherry) : State :=
  State.endWherry { s with parks := s.parks.filter fun p => p.what != .engine w.id } w .cancelled

/-- WCANCEL. -/
def execWcancel (b : BitVec 6) (s : State) : Host.Outcome State Fault Refusal :=
  run s fun c =>
    let s1 := match (c.g.wherryAt (c.g.s b)).bind fun i => s.wherry.find? fun w => w.id == i with
      | some w => if w.active then s.cancelWherry w else s
      | none => s
    .ok (c.finish s1 id)

end Sys2Proof.Machine
end

