-- ==== Sys2Proof/Machine/IssueReads.lean ====
section
/-! DEFINITION. Reads of records that an instruction makes at its issue, as an LDS of its group (R338, R286, R428). -/

namespace Sys2Proof.Machine

/-- A read of n bytes at an address as a scalar load of the group. -/
def Ctx.recordLoad (c : Ctx) (s : State) (a : Word) (n : Nat) : Load :=
  { kind := 1, size := n, signed := false, reg := 63, scope := 0, stream := false, op := 0, before := c.g.work.seq,
    addrs := [(32, a)], nc := if c.isNc s a then [32] else [], operands := [], staged := [], fp := 0, parked := 0,
    synonym := 0, detail := 0 }

/-- Read n bytes within a line: the instruction waits where a load would, and while the line is under shootdown (R216), parks
the group where the walk fails, and takes SYNONYM precise at itself (R428). -/
def Ctx.readLine (c : Ctx) (s : State) (a : Word) (n : Nat) : Except Stop (List Byte × State) := do
  let line := lineOf (vkey c.ctx a)
  need (decide (a.toNat / 2 ^ 61 = 6) || !s.underShootdown (vkey c.ctx a)) (.hold (.underShootdown none 0 .none))
  let s1 := if a.toNat / 2 ^ 61 ≠ 6 ∧ s.markHolds c.core line = true then s.recallLine line else s
  match s1.serveLane c.g s.nextOp (c.recordLoad s a n) 32 a with
  | .data l _ s2 => .ok (l, s2)
  | .waits | .asks => .error (.hold .retry)
  | .fails 5 => .error (c.pcTrap .synonym a)
  | .fails d => .error (.park 1 d 0 a)

/-- Read n bytes, line by line. -/
def Ctx.readLines (c : Ctx) (s : State) (a : Word) (n : Nat) : Nat → Except Stop (List Byte × State)
  | 0 => .ok ([], s)
  | fuel + 1 =>
    if n = 0 then .ok ([], s)
    else do
      let k := lineRoom a n
      let (l, s1) ← c.readLine s a k
      let (rest, s2) ← c.readLines s1 (a + BitVec.ofNat 64 k) (n - k) fuel
      .ok (l ++ rest, s2)

/-- Read n bytes of a record. -/
def Ctx.readRecord (c : Ctx) (s : State) (a : Word) (n : Nat) : Except Stop (List Byte × State) :=
  c.readLines s a n (n / 128 + 2)

/-- The page of an address may be read: tensor and control pages need the read right (R190). -/
def Ctx.readable (c : Ctx) (s : State) (a : Word) : Bool :=
  !(Access.hasRights { lane := 32, addr := a, size := 1 }) || (s.rights c.core c.ctx a).1.rd

/-- PERM where the first or the last byte of a record may not be read; the permission check waits for a shootdown of either
page (R216). -/
def Ctx.checkReadable (c : Ctx) (s : State) (a : Word) (n : Nat) : Except Stop Unit := do
  need (decide (a.toNat / 2 ^ 61 = 6)
      || !(s.underShootdown (vkey c.ctx a) || s.underShootdown (vkey c.ctx (a + BitVec.ofNat 64 (n - 1)))))
    (.hold (.underShootdown none 0 .none))
  need (c.readable s a) (addrTrap .perm 32 a)
  let top := a + BitVec.ofNat 64 (n - 1)
  need (c.readable s top) (addrTrap .perm 32 (BitVec.ofNat 64 (top.toNat / 65536 * 65536)))

/-- Read n bytes of a record whose pages need the read right. -/
def Ctx.readRight (c : Ctx) (s : State) (a : Word) (n : Nat) : Except Stop (List Byte × State) := do
  c.checkReadable s a n
  c.readRecord s a n

/-- The 8-byte words of a record. -/
def wordsOf (l : List Byte) : List Word := (pieces 8 (l.length / 8) l).map fun b => BitVec.ofNat 64 (bytesVal b)

/-- Word i of a record. -/
def wordAt (l : List Word) (i : Nat) : Nat := (l.getD i 0).toNat

end Sys2Proof.Machine
end

