-- ==== Sys2Proof/Machine/Ferry.lean ====
section
/-! DEFINITION. The collective engine: majors 0x34 and 0x35, matching, reductions, the weight update, completion and failure
(R286 to R293). -/

namespace Sys2Proof.Machine

/-! ## Sizes -/

/-- Bytes of one shard in DST (R286). -/
def ferryPer (kind count width op : Nat) : Nat :=
  if kind = 5 then count * (if op = 0 then 4 else 2) else count * 2 ^ width

/-- Shards that DST receives, of P participants (Table 11.9). -/
def ferryShards (kind p : Nat) : Nat := if kind = 0 ∨ kind = 4 then 1 else p

/-- The command reduces. -/
def ferryReduces (kind : Nat) : Bool := kind == 0 || kind == 2 || kind == 5

/-- Bytes of one shard of a command. -/
def Ferry.per (c : Ferry) : Nat := ferryPer c.kind c.count c.width c.op

/-- Shards of a command. -/
def Ferry.shards (c : Ferry) : Nat := ferryShards c.kind c.members.length

/-- Bytes of the source (Table 11.9). -/
def Ferry.sourceBytes (c : Ferry) : Nat :=
  let e := c.count * 2 ^ c.width
  if c.kind = 1 ∨ c.kind = 4 then e else c.members.length * e

/-- Position of this package in the list. -/
def Ferry.position (c : Ferry) (pkg : Nat) : Nat := c.members.idxOf pkg

/-! ## Counting, completion and failure (R274, R275, R289, R290) -/

/-- Replace a command. -/
def State.putFerry (s : State) (c : Ferry) : State :=
  { s with ferry := s.ferry.map fun d => if d.id == c.id then c else d }

/-- Subtract the bytes of a shard from an object. -/
def State.countShardAt (s : State) (c : Ferry) (a : Word) : State :=
  let core := ((Map.find? s.groups c.age).map (·.id.core)).getD 0
  s.objectCount { wg := c.wg, ctx := c.ctx, core := core, age := c.age, op := c.id, addr := a, n := -(c.per : Int) }

/-- Count a shard into the barrier object and into the shard's own object. -/
def State.countShard (s : State) (c : Ferry) (q : Nat) : State :=
  let s1 := match c.bar with
    | some a => s.countShardAt c a
    | none => s
  match c.shard with
  | some a => s1.countShardAt c (a + BitVec.ofNat 64 (8 * q))
  | none => s1

/-- The shards that are not yet counted. -/
def Ferry.missing (c : Ferry) : List Nat := (List.range c.shards).filter fun q => !c.arrived.contains q

/-- A command is over: what is left is counted, and FE falls. -/
def State.endFerry (s : State) (c : Ferry) : State :=
  let s1 := c.missing.foldl (fun t q => t.countShard c q) s
  State.finishOp { s1 with ferry := s1.ferry.filter fun d => d.id != c.id } c.age .fe c.id

/-- A command fails, and leaves a record in its group. -/
def State.failFerry (s : State) (c : Ferry) (detail : Nat) (a : Word) (peer : Nat) : State :=
  let r : FailedEngine := { order := c.id, ferry := true, pc := c.pc, detail := detail, addr := a, peer := peer,
                            inTrap := c.inTrap }
  (s.endFerry c).onGroup c.age fun g => { g with work := { g.work with failedEngine := g.work.failedEngine ++ [r] } }

/-- The lowest byte of DST that a command has not written. -/
def Ferry.lowestLeft (c : Ferry) : Word := c.dst + BitVec.ofNat 64 (c.missing.headD 0 * c.per)

/-- Every command that lists a lost package fails (R274, R289). -/
def State.loseFerry (s : State) (p : Nat) : State :=
  (s.ferry.filter fun c => c.members.contains p).foldl (fun t c => t.failFerry c 11 c.lowestLeft p) s

/-- The lines of a run of n bytes. -/
def linesOf (a n : Nat) : List Nat := if n = 0 then [] else (List.range (lineOf (a + n - 1) + 1 - lineOf a)).map fun i => lineOf a + i

/-- Recall the marks on lines before an engine's access (R230). -/
def State.recallLines (s : State) (lines : List Nat) : State := lines.foldl (fun t l => t.recallLine l) s

/-- Write a shard to DST once the marks on its lines are recalled (R230), but for the bytes that reached the LLC after the command's
issue (R248), and count it once it is visible. -/
def State.writeShard (s : State) (c : Ferry) (q : Nat) : State :=
  let a := c.dst.toNat + q * c.per
  let l := c.out.getD q []
  let s0 := s.recallLines (linesOf a l.length)
  let s1 := s0.llcWrite (s0.stillWrites c.id ((List.range l.length).zip l |>.map fun (p : Nat × Byte) => (a + p.1, p.2)))
  let c1 := { c with arrived := c.arrived ++ [q] }
  (s1.putFerry c1).countShard c1 q

/-! ## Arithmetic (R288, R293) -/

/-- fdiv32 under RNE. -/
def fdiv32 (a b : Nat) : Nat × Flags :=
  match value .fp32 a, value .fp32 b with
  | .nan, _ | _, .nan => (Fmt.nanCode .fp32, 0#4)
  | .inf _, .inf _ => (Fmt.nanCode .fp32, flagNV)
  | .inf x, .fin y _ _ => (Fmt.infCode .fp32 (x != y), 0#4)
  | .fin x _ _, .inf y => (Fmt.signBit .fp32 (x != y), 0#4)
  | .fin x m e, .fin y n k =>
    if n = 0 then (if m = 0 then (Fmt.nanCode .fp32, flagNV) else (Fmt.infCode .fp32 (x != y), flagDZ))
    else if m = 0 then (Fmt.signBit .fp32 (x != y), 0#4)
    else roundQuot .fp32 .rne 0 (x != y) m n (e - k)

/-- The integer square root of a number below 2^96. -/
def rootOf (n : Nat) : Nat :=
  (List.range 48).foldl (fun r i => if (r + 2 ^ (47 - i)) ^ 2 ≤ n then r + 2 ^ (47 - i) else r) 0

/-- fsqrt32 under RNE: the root to 32 bits and more, with a sticky bit below. -/
def fsqrt32 (a : Nat) : Nat × Flags :=
  match value .fp32 a with
  | .nan => (Fmt.nanCode .fp32, 0#4)
  | .inf x => if x then (Fmt.nanCode .fp32, flagNV) else (a, 0#4)
  | .fin x m e =>
    if m = 0 then (a, 0#4)
    else if x then (Fmt.nanCode .fp32, flagNV)
    else
      let odd := decide (e % 2 ≠ 0)
      let n := (if odd then 2 * m else m) * 2 ^ 64
      let r := rootOf n
      roundVal .fp32 .rne 0 (.fin false (2 * r + (if r * r = n then 0 else 1)) ((if odd then e - 1 else e) / 2 - 33))

/-- One fold (R288): on FP32 codes, BF16 operands held exactly in FP32. -/
def ferryOp (op a b : Nat) : Nat × Flags :=
  match op with
  | 0 | 1 => fadd .fp32 .rne a b
  | 2 => ((a + b) % 2 ^ 32, 0#4)
  | 3 => (fminmax .fp32 true a b, 0#4)
  | _ => (fminmax .fp32 false a b, 0#4)

/-- The fold of a list of elements. -/
def foldRing (op : Nat) : List Nat → Nat × Flags
  | [] => (0, 0#4)
  | x :: l => l.foldl (fun (acc : Nat × Flags) y => let r := ferryOp op acc.1 y; (r.1, acc.2 ||| r.2)) (x, 0#4)

/-- red() of the positions' elements. -/
def foldList (op order run : Nat) (xs : List Nat) : Nat × Flags :=
  if order = 0 then foldRing op xs
  else
    let parts := (pieces run ((xs.length + run - 1) / run) xs).map (foldRing op)
    let r := foldRing op (parts.map (·.1))
    (r.1, parts.foldl (fun a p => a ||| p.2) r.2)

/-- Element j of shard sh of a source. -/
def ferryElem (c : Ferry) (src : Array Byte) (sh j : Nat) : Nat :=
  let e := 2 ^ c.width
  (List.range e).foldl (fun v i => v + ((src[(sh * c.count + j) * e + i]?).getD 0).toNat * 2 ^ (8 * i)) 0

/-- The elements of a shard reduced over the positions, as FP32 codes or integers, and the flags. -/
def Ferry.reduce (c : Ferry) (srcs : List (Array Byte)) (sh : Nat) : List Nat × Flags :=
  let rs := (List.range c.count).map fun j =>
    foldList c.op c.order c.runLen (srcs.map fun a =>
      let x := ferryElem c a sh j
      if c.op = 1 then x * 65536 else x)
  (rs.map (·.1), rs.foldl (fun a r => a ||| r.2) 0#4)

/-- The reduced elements as bytes of DST: add.bf16 rounds once. -/
def Ferry.reducedBytes (c : Ferry) (r : List Nat × Flags) : List Byte × Flags :=
  if c.op = 1 then
    let cs := r.1.map fun x => roundVal .bf16 .rne 0 (value .fp32 x)
    (cs.flatMap fun x => valBytes 2 x.1, cs.foldl (fun a x => a ||| x.2) r.2)
  else (r.1.flatMap (valBytes 4), r.2)

/-- Field i of the update block, counted in 32-bit halves (Table 11.10). -/
def Ferry.field (c : Ferry) (i : Nat) : Nat := wordAt c.update (i / 2) / 2 ^ (32 * (i % 2)) % 2 ^ 32

/-- The update of one element from its reduced gradient, weight and states: the new weight and states, and flags. -/
def Ferry.step (c : Ferry) (r w m v : Nat) : (Nat × Nat × Nat) × Flags :=
  let one := 0x3F800000
  let mul := fmul .fp32 .rne
  let add := fadd .fp32 .rne
  let sub := fsub .fp32 .rne
  let eta := c.field 8
  let lam := c.field 9
  let b1 := c.field 10
  let b2 := c.field 11
  let g := mul (c.field 15) r
  let wd := mul lam w
  if c.field 0 = 0 then
    let bm := mul b1 m
    let nv := add bm.1 g.1
    let t := add nv.1 wd.1
    let st := mul eta t.1
    let nw := sub w st.1
    ((nw.1, nv.1, v), g.2 ||| wd.2 ||| bm.2 ||| nv.2 ||| t.2 ||| st.2 ||| nw.2)
  else
    let c1 := sub one b1
    let bm := mul b1 m
    let gm := mul c1.1 g.1
    let nm := add bm.1 gm.1
    let c2 := sub one b2
    let bv := mul b2 v
    let g2 := mul c2.1 g.1
    let gg := mul g2.1 g.1
    let nv := add bv.1 gg.1
    let vb := mul nv.1 (c.field 14)
    let sq := fsqrt32 vb.1
    let d := add sq.1 (c.field 12)
    let mb := mul nm.1 (c.field 13)
    let q := fdiv32 mb.1 d.1
    let t := add q.1 wd.1
    let st := mul eta t.1
    let nw := sub w st.1
    ((nw.1, nm.1, nv.1), g.2 ||| wd.2 ||| c1.2 ||| bm.2 ||| gm.2 ||| nm.2 ||| c2.2 ||| bv.2 ||| g2.2 ||| gg.2 ||| nv.2
      ||| vb.2 ||| sq.2 ||| d.2 ||| mb.2 ||| q.2 ||| t.2 ||| st.2 ||| nw.2)

/-! ## Pages (R289, R292) -/

/-- Check the pages of a run of n bytes: the right, then the translation; a detail of Table 11.3 and the address. -/
def State.ferryPages (s : State) (ctx : Nat) (a n : Nat) (ok : Rights → Bool) : Nat → Except (Nat × Word) State
  | 0 => .ok s
  | fuel + 1 =>
    if n = 0 then .ok s
    else
      let w : Word := BitVec.ofNat 64 a
      if !ok (s.walkRights ctx w) then .error (7, w)
      else match s.translate (vkey ctx w) with
        | .error d => .error (d, w)
        | .ok (_, s1) =>
          let k := min n (65536 - a % 65536)
          s1.ferryPages ctx (a + k) (n - k) ok fuel

/-- Check the pages of a run. -/
def State.ferryRange (s : State) (ctx : Nat) (a : Word) (n : Nat) (ok : Rights → Bool) : Except (Nat × Word) State :=
  s.ferryPages ctx a.toNat n ok (n / 65536 + 2)

/-- Read n bytes at the LLC or the control cache, after a recall of every mark on their lines (R230, R248). -/
def State.ferryRead (s : State) (a : Word) (n : Nat) : Except (Nat × Word) (List Byte × State) :=
  let s1 := s.recallLines (linesOf a.toNat n)
  match s1.llcReads a.toNat n with
  | .ok r => .ok r
  | .error d => .error (d, s1.firstBad a a.toNat n)

/-- The addresses of weights and states: V is unused by SGD. -/
def Ferry.states (c : Ferry) : List Word :=
  (List.range (if c.field 0 = 0 then 2 else 3)).map fun i => c.update.getD (1 + i) 0

/-- Check the pages of an FUPD's state. -/
def State.ferryStates (s : State) (c : Ferry) : List Word → Except (Nat × Word) State
  | [] => .ok s
  | a :: l => match s.ferryRange c.ctx a (4 * c.count) fun r => r.rd && r.wr with
    | .error e => .error (10, e.2)
    | .ok s1 => s1.ferryStates c l

/-! ## The match (R287 to R293) -/

/-- The earliest command of this package that waits with the same list and tag. -/
def State.firstFerry (s : State) (c : Ferry) : Bool :=
  !s.ferry.any fun d => decide (d.id < c.id) && !d.matched && d.list == c.list && d.tag == c.tag

/-- The partners bring one command from every other position. -/
def Ferry.allThere (c : Ferry) (pkg : Nat) (ps : List FerryPartner) : Bool :=
  (List.range c.members.length).all fun q => q == c.position pkg || ps.any fun p => p.position == q

/-- A partner's command disagrees. -/
def Ferry.disagrees (c : Ferry) (p : FerryPartner) : Bool :=
  p.kind != c.kind || p.count != c.count || p.width != c.width || (ferryReduces c.kind && p.op != c.op)

/-- A line of a run of n bytes is not free for the engine: another command owns it, a shutdown is draining, or a store has not
landed there: an earlier one of the group (R248), or one of another group (R222). -/
def State.ferryWaits (s : State) (c : Ferry) (a n : Nat) : Bool :=
  let owned := fun (line : Nat) => (s.wherry.any fun w => w.owns line) || s.ferry.any fun d => d.id != c.id && d.owns line
  ((linesOf a n).any fun line => owned line || s.afterDrain (line * 128))
    || s.othersPending c.age s.nextOp a n
    || s.landing.any fun r => r.age == c.age && decide (r.id < c.id) && r.isPending && r.lanes.any fun l => r.touches l a n

/-- The bytes of a shard cannot be written yet. -/
def State.shardWaits (s : State) (c : Ferry) (q : Nat) : Bool := s.ferryWaits c (c.dst.toNat + q * c.per) c.per

/-- Some run of bytes that the match reads or writes is not free. -/
def State.matchWaits (s : State) (c : Ferry) : Bool :=
  s.ferryWaits c c.src.toNat c.sourceBytes || s.ferryWaits c c.dst.toNat (c.shards * c.per)
    || (c.kind == 5 && c.states.any fun a => s.ferryWaits c a.toNat (4 * c.count))

/-- What the source, destination and state pages of this package give: the own source's bytes, or the detail that fails the
command. -/
def State.ferrySource (s : State) (c : Ferry) : Except (Nat × Word) (List Byte × State) := do
  let reads := c.kind ≠ 4 ∨ c.position s.pkg = 0
  let s1 ← if reads then s.ferryRange c.ctx c.src c.sourceBytes (·.rd) else .ok s
  let s2 ← s1.ferryRange c.ctx c.dst (c.shards * c.per) (·.wr)
  let s3 ← if c.kind = 5 then s2.ferryStates c c.states else .ok s2
  if reads then s3.ferryRead c.src c.sourceBytes else .ok ([], s3)

/-- A piece of a source. -/
def bytesAt (a : Array Byte) (off n : Nat) : List Byte := (List.range n).map fun i => (a[off + i]?).getD 0

/-- FP32 elements in bytes. -/
def elems32 (l : List Byte) : Array Nat := ((pieces 4 (l.length / 4) l).map bytesVal).toArray

/-- FUPD at the owner of a shard (R292, R293): the state after the update, the bytes that are gathered, and the flags. -/
def State.updateShard (s : State) (c : Ferry) (r : List Nat × Flags) : Except (Nat × Word) (State × List Byte × Flags) := do
  let n := 4 * c.count
  let aw := c.update.getD 1 0
  let am := c.update.getD 2 0
  let av := c.update.getD 3 0
  let sgd := decide (c.field 0 = 0)
  let (lw, s1) ← s.ferryRead aw n
  let (lm, s2) ← s1.ferryRead am n
  let (lv, s3) ← if sgd then .ok ([], s2) else s2.ferryRead av n
  let ew := elems32 lw
  let em := elems32 lm
  let ev := elems32 lv
  let outs := ((List.range c.count).zip r.1).map fun p =>
    c.step p.2 ((ew[p.1]?).getD 0) ((em[p.1]?).getD 0) ((ev[p.1]?).getD 0)
  let fl := outs.foldl (fun a o => a ||| o.2) r.2
  let put := fun (t : State) (a : Word) (l : List Nat) =>
    t.llcWrite ((List.range n).zip (l.flatMap (valBytes 4)) |>.map fun (p : Nat × Byte) => (a.toNat + p.1, p.2))
  let s4 := put (put s3 aw (outs.map (·.1.1))) am (outs.map (·.1.2.1))
  let s5 := if sgd then s4 else put s4 av (outs.map (·.1.2.2))
  if c.op = 0 then .ok (s5, outs.flatMap fun o => valBytes 4 o.1.1, fl)
  else
    let cs := outs.map fun o => roundVal .bf16 .rne 0 (value .fp32 o.1.1)
    .ok (s5, cs.flatMap fun x => valBytes 2 x.1, cs.foldl (fun a x => a ||| x.2) fl)

/-- The shards that DST receives, and the flags (Table 11.9, R292). -/
def State.ferryEffect (s : State) (c : Ferry) (srcs : List (Array Byte)) : Except (Nat × Word) (State × List (List Byte) × Flags) :=
  let i := c.position s.pkg
  let p := c.members.length
  match c.kind with
  | 0 =>
    let (l, fl) := c.reducedBytes (c.reduce srcs i)
    .ok (s, [l], fl)
  | 1 => .ok (s, srcs.map fun a => bytesAt a 0 c.per, 0#4)
  | 2 =>
    let rs := (List.range p).map fun q => c.reducedBytes (c.reduce srcs q)
    .ok (s, rs.map (·.1), rs.foldl (fun a r => a ||| r.2) 0#4)
  | 3 => .ok (s, srcs.map fun a => bytesAt a (i * c.per) c.per, 0#4)
  | 4 => .ok (s, [bytesAt (srcs.getD 0 #[]) 0 c.per], 0#4)
  | _ => do
    let (s1, own, fl) ← (s.updateShard c (c.reduce srcs i)).mapError fun e => (if e.1 = 12 then 12 else 10, e.2)
    let outs := ((List.range p).zip srcs).map fun q => if q.1 = i then own else bytesAt q.2 c.sourceBytes c.per
    .ok (s1, outs, fl)

/-- The sources by position. -/
def Ferry.sources (c : Ferry) (pkg : Nat) (own : List Byte) (ps : List FerryPartner) : List (Array Byte) :=
  (List.range c.members.length).map fun q =>
    if q = c.position pkg then own.toArray else ((ps.find? fun p => p.position == q).map fun p => p.data.toArray).getD #[]

/-- The other participants of a command. -/
def Ferry.partners (c : Ferry) (pkg : Nat) : List Nat := c.members.filter fun p => p != pkg

/-- Data in packets of up to 4 KiB, numbered from `first` on; no data is one packet without any (R394). -/
def chunks (first : Nat) (l : List Byte) : List (Nat × List Byte) :=
  let n := max 1 ((l.length + 4095) / 4096)
  ((List.range n).map (first + ·)).zip (if l.isEmpty then [[]] else pieces 4096 n l)

/-- Send the other participants data of a command. -/
def State.tellFerry (s : State) (c : Ferry) (first : Nat) (l : List Byte) : State :=
  (c.partners s.pkg).foldl (fun t p => (chunks first l).foldl (fun u k => u.send (.ferry p c.list c.tag c.engine k.1 k.2)) t) s

/-- The position of this package's own shard in DST: 0 where DST receives one shard only. -/
def Ferry.ownShard (c : Ferry) (pkg : Nat) : Nat := if c.shards = 1 then 0 else c.position pkg

/-- The packages whose data is in DST once a shard is written: that of its position; all of them where DST receives one shard. -/
def Ferry.served (c : Ferry) (pkg q : Nat) : List Nat :=
  if c.shards = 1 then c.partners pkg else [c.members.getD q 0].filter fun p => p != pkg

/-- Acknowledge what packages have sent for a command. -/
def State.ackFerry (s : State) (c : Ferry) (l : List Nat) : State :=
  l.foldl (fun t p => t.send (.ferryAck p c.list c.tag c.engine)) s

/-- Write the shard of a position, and acknowledge the data that is in DST with it. -/
def State.takeShard (s : State) (c : Ferry) (q : Nat) : State := (s.writeShard c q).ackFerry c (c.served s.pkg q)

/-- Start a matched command.  Its engine writes the package's own shard before it signals readiness to the partners (R289,
R291).  Each of them acknowledges what is sent to it; FUPD sends twice, and the first data is acknowledged once the update has used it. -/
def State.matchFerry (s : State) (c : Ferry) (ps : List FerryPartner) : State :=
  match s.ferrySource c with
  | .error (d, a) => (s.failFerry c d a 0).tellFailure c d
  | .ok (own, s1) => match s1.ferryEffect c (c.sources s.pkg own ps) with
    | .error (d, a) => (s1.failFerry c d a 0).tellFailure c d
    | .ok (s2, out, fl) =>
      let others := c.partners s.pkg
      let c1 := { c with matched := true, out := out, unacked := if c.kind = 5 then others ++ others else others, fp := fl }
      let s3 := ((s2.putFerry c1).takeShard c1 (c.ownShard s.pkg)).tellFerry c 0 own
      if c.kind = 5 then
        (s3.ackFerry c others).tellFerry c (chunks 0 own).length (out.getD (c.position s.pkg) [])
      else s3

/-- FERRY_MATCH (R287): one command from each listed package takes part.  It waits for lines that are not free. -/
def execFerryMatch (cmd : Nat) (partners : List FerryPartner) (s : State) : Host.Outcome State Fault Refusal :=
  let s0 := s.served (.ferryMatch cmd partners)
  match s0.ferry.find? fun (c : Ferry) => c.id == cmd with
  | none => .next s0
  | some c =>
    if c.matched || !c.allThere s.pkg partners then .next s0
    else if !s0.firstFerry c || s0.matchWaits c then
      .next (s.keep (.ferryMatch cmd partners))
    else if partners.any c.disagrees then .next (s0.failFerry c 9 c.dst 0)
    else match partners.find? fun p => p.detail != 0 with
      | some p => .next (s0.failFerry c p.detail c.dst (c.members.getD p.position 0))
      | none => .next (s0.matchFerry c partners)

/-- A shard can be written now. -/
def State.shardReady (s : State) (c : Ferry) (q : Nat) : Bool := c.missing.contains q && !s.shardWaits c q

/-- FERRY_SHARD_ARRIVAL (R290): the shard of a position reaches DST, unless a line of it is not free. -/
def execFerryShardArrival (cmd position : Nat) (s : State) : Host.Outcome State Fault Refusal :=
  match s.ferry.find? fun (c : Ferry) => c.id == cmd with
  | none => .next s
  | some c => .next (if c.matched && s.shardReady c position then s.takeShard c position else s)

/-- A package has acknowledged what a command of this package sent it. -/
def State.ferryAcked (s : State) (pkg : Nat) (list : Word) (tag : Nat) : State :=
  match s.ferry.find? fun c => c.list == list && c.tag == tag && c.unacked.contains pkg with
  | none => s
  | some c => s.putFerry { c with unacked := c.unacked.erase pkg }

/-- A command can complete: everything it sent is acknowledged, and every shard is or can be written (R289). -/
def State.ferryDone (s : State) (c : Ferry) : Bool :=
  c.matched && c.unacked.isEmpty && c.missing.all fun q => !s.shardWaits c q

/-- FERRY_COMPLETE (R289): every shard is in DST; flags go to FPSTAT and FE falls. -/
def execFerryComplete (cmd : Nat) (s : State) : Host.Outcome State Fault Refusal :=
  match s.ferry.find? fun (c : Ferry) => c.id == cmd with
  | none => .next s
  | some c =>
    if !s.ferryDone c then .next s
    else
      let s1 := c.missing.foldl (fun t q => match t.ferry.find? fun d => d.id == cmd with
        | some d => t.takeShard d q
        | none => t) s
      match s1.ferry.find? fun d => d.id == cmd with
      | some d => .next ((s1.onGroup c.age (·.orFp c.fp)).endFerry d)
      | none => .next s1

/-- What a command can do next. -/
def State.ferryDue (s : State) (c : Ferry) : List Event :=
  if c.matched then
    (if s.ferryDone c then [.ferryComplete c.id] else []) ++ (c.missing.filter (s.shardReady c)).map fun q => .ferryShardArrival c.id q
  else if c.members == [s.pkg] && s.firstFerry c && !s.matchWaits c then [.ferryMatch c.id []]
  else []

/-! ## Issue (R286) -/

/-- Tensor space of this package, or control space. -/
def State.ferryPlace (s : State) (a : Word) : Bool :=
  space? a == some .control || (space? a == some .tensor && !s.isRemote a)

/-- Read the descriptor; a page that may not be read takes PERM where its bytes cannot be had. -/
def Ctx.readDescriptor (c : Ctx) (s : State) (a : Word) : Except Stop (List Word × State) :=
  match c.readRecord s a 64 with
  | .ok (l, s1) => .ok (wordsOf l, s1)
  | .error e => .error (if c.readable s a then e else addrTrap .perm 32 a)

/-- A participant list as it was read: P, ORDER, H, the members, and whether a zero field is not zero. -/
structure FerryList where
  p : Nat
  order : Nat
  h : Nat
  members : List Nat
  bad : Bool
  deriving DecidableEq, Repr

/-- Read the participant list (Table 11.8). -/
def Ctx.readList (c : Ctx) (s : State) (a : Word) : Except Stop (FerryList × State) := do
  let (l, s1) ← c.readRight s a 8
  let hd := bytesVal l
  let p := hd % 1024
  let n := if 1 ≤ p ∧ p ≤ 512 then 2 * p else 0
  let (es, s2) ← if n = 0 then .ok ([], s1) else c.readRight s1 (a + 8) n
  .ok ({ p := p, order := hd / 2 ^ 16 % 256, h := hd / 2 ^ 24 % 65536, members := (pieces 2 (n / 2) es).map bytesVal,
         bad := decide (hd / 2 ^ 10 % 64 ≠ 0) || decide (hd / 2 ^ 40 ≠ 0) }, s2)

/-- The descriptor or the list makes the command ILLEGAL. -/
def ferryBad (pkg kind : Nat) (d : List Word) (l : FerryList) : Bool :=
  let w3 := wordAt d 3
  let width := w3 / 2 ^ 40 % 4
  let op := w3 / 2 ^ 44 % 16
  decide (w3 / 2 ^ 42 % 4 ≠ 0) || decide (w3 / 2 ^ 48 ≠ 0) || decide (wordAt d 4 / 2 ^ 32 ≠ 0) || wordAt d 5 != 0
    || wordAt d 6 != 0 || wordAt d 7 != 0 || decide (w3 % 2 ^ 40 = 0) || l.bad || decide (l.p = 0) || decide (512 < l.p)
    || decide (1 < l.order) || (l.order == 1 && (l.h == 0 || decide (l.p < l.h))) || l.members.count pkg != 1
    || (ferryReduces kind && (decide ((if kind = 5 then 1 else 4) < op) || width != (if op = 1 then 1 else 2)))

/-- FUPD-STATE (R292): a reserved ALG, or a state address that is not 4-aligned or lies elsewhere. -/
def Ctx.checkUpdate (_ : Ctx) (s : State) (c : Ferry) (block : Word) : Except Stop Unit := do
  need (decide (c.field 0 ≤ 1)) (.trap { cause := .fupdState, addr := block })
  match c.states.find? fun a => a.toNat % 4 != 0 || !(space? a == some .tensor) || s.isRemote a with
  | some a => .error (.trap { cause := .fupdState, addr := a })
  | none => .ok ()

/-- A Ferry command: the checks of R286 in their order, those of R290 and R292, room, and its start. -/
def ferryForm (s : State) (kind : Nat) (r a : BitVec 6) (b : Option (BitVec 6)) : Host.Outcome State Fault Refusal :=
  run s fun c => do
    let desc := c.g.s a
    let block := (b.map c.g.s).getD 0
    let blocks := if b.isSome then [desc, block] else [desc]
    match blocks.find? fun k => k.toNat % 64 != 0 with
    | some k => .error (addrTrap .misalign 32 k)
    | none => .ok ()
    match blocks.find? fun k => !s.ferryPlace k with
    | some k => .error (addrTrap .space 32 k)
    | none => .ok ()
    let (d, s1) ← c.readDescriptor s desc
    let list := d.getD 0 0
    need (space? list == some .control) (addrTrap .space 32 list)
    let places := [d.getD 1 0, d.getD 2 0]
    match places.find? s.isRemote with
    | some k => .error (addrTrap .remoteDirect 32 k)
    | none => .ok ()
    match places.find? fun k => !s.ferryPlace k with
    | some k => .error (addrTrap .space 32 k)
    | none => .ok ()
    c.checkReadable s1 desc 64
    let (l, s2) ← c.readList s1 list
    let (u, s3) ← if b.isSome then c.readRight s2 block 64 else .ok ([], s2)
    need (!ferryBad s.pkg kind d l) c.illegal
    let w3 := wordAt d 3
    let cmd : Ferry :=
      { id := s.nextOp, age := c.age, wg := c.g.id.wg, ctx := c.ctx, pc := c.pc, kind := kind, list := list,
        src := d.getD 1 0, dst := d.getD 2 0, count := w3 % 2 ^ 40, width := w3 / 2 ^ 40 % 4, op := w3 / 2 ^ 44 % 16,
        tag := wordAt d 4 % 2 ^ 32, members := l.members, order := l.order, runLen := l.h, update := wordsOf u,
        bar := c.barOf r, shard := c.g.work.shard, matched := false, out := [], arrived := [],
        unacked := [], fp := 0, inTrap := c.g.flow.trapMode }
    c.checkBar s cmd.bar (cmd.shards * cmd.per)
    match cmd.shard with
    | none => .ok ()
    | some k => do
      need (decide (cmd.per < 2 ^ 27)) c.illegal
      need (decide (k.toNat % 2 ^ 20 + 8 * cmd.shards ≤ s.sharedSize c.g)) (addrTrap .space 32 k)
    if kind = 5 then c.checkUpdate s cmd block else .ok ()
    need s.ferryRoom (.hold .ferryRoom)
    let s4 := { s3 with nextOp := s3.nextOp + 1, ferry := s3.ferry ++ [cmd] }
    let s5 := c.finish s4 fun g => { g with work := { g.work.start .fe cmd.id with shard := none } }
    match cmd.members.find? s.peerGone with
    | some p => .ok (s5.failFerry cmd 11 cmd.dst p)
    | none => .ok (s5.tellFerry cmd 0 [])

/-- FRS. -/
def execFrs (r a : BitVec 6) (s : State) : Host.Outcome State Fault Refusal := ferryForm s 0 r a none

/-- FAG. -/
def execFag (r a : BitVec 6) (s : State) : Host.Outcome State Fault Refusal := ferryForm s 1 r a none

/-- FAR. -/
def execFar (r a : BitVec 6) (s : State) : Host.Outcome State Fault Refusal := ferryForm s 2 r a none

/-- FA2A. -/
def execFa2a (r a : BitVec 6) (s : State) : Host.Outcome State Fault Refusal := ferryForm s 3 r a none

/-- FBC. -/
def execFbc (r a : BitVec 6) (s : State) : Host.Outcome State Fault Refusal := ferryForm s 4 r a none

/-- FUPD. -/
def execFupd (r b a : BitVec 6) (s : State) : Host.Outcome State Fault Refusal := ferryForm s 5 r a (some b)

/-- FSHARD (R290). -/
def execFshard (a : BitVec 6) (s : State) : Host.Outcome State Fault Refusal :=
  run s fun c => do
    let k := c.g.s a
    need (space? k == some .shared && decide (k.toNat % 2 ^ 20 < s.sharedSize c.g)) (addrTrap .space 32 k)
    need (decide (k.toNat % 8 = 0)) (addrTrap .misalign 32 k)
    .ok (c.finish s fun g => { g with work := { g.work with shard := some k } })

end Sys2Proof.Machine
end

