-- ==== Sys2Proof/Machine/CrossLane.lean ====
section
/-! DEFINITION. Cross-lane instructions: majors 0x1C and 0x1D (R164 to R174). -/

namespace Sys2Proof.Machine

/-! ## Reading other lanes (R164, R167) -/

/-- A kind-B instruction whose active lanes read other lanes of va: `src` gives the source lane of each active lane, none
for a value given by `out`.  The entries read are checked whatever lanes hold them (R164, R372). -/
def crossLane (s : State) (rd : List (Nat × Nat)) (a d : Nat) (src : Ctx → Nat → Option Nat) (out : Ctx → Nat → Lane) :
    Host.Outcome State Fault Refusal :=
  run s fun c => do
    c.checkRuns ((d, 1) :: (a, 1) :: rd)
    c.needB
    let from_ := maskOf (c.lanes.filterMap (src c))
    c.checkCells fun k l => (from_.getLsbD l && k == c.g.vKey a) || (c.active.getLsbD l && rd.any fun r => k == c.g.vKey r.1)
    let cells := runCells (c.g.vKey d) c.lanes 1 fun l _ => match src c l with
      | some j => c.g.v a j
      | none => out c l
    .ok (c.launch (c.done s c.g) c.flagB none (.result cells [] 0#4))

/-- VNBL.ring. -/
def execVnblRing (a d : BitVec 7) (s : State) : Host.Outcome State Fault Refusal :=
  crossLane s [] a.toNat d.toNat (fun _ l => some ((l + 31) % 32)) fun _ _ => 0

/-- VNBR.ring. -/
def execVnbrRing (a d : BitVec 7) (s : State) : Host.Outcome State Fault Refusal :=
  crossLane s [] a.toNat d.toNat (fun _ l => some ((l + 1) % 32)) fun _ _ => 0

/-- VSHUF. -/
def execVshuf (x : Bool) (b a d : BitVec 7) (s : State) : Host.Outcome State Fault Refusal :=
  crossLane s (runB x b 1) a.toNat d.toNat (fun c l => some ((c.srcB x b l).toNat % 32)) fun _ _ => 0

/-- VBCAST from a lane named in the word. -/
def execVbcastImm (n : BitVec 5) (a d : BitVec 7) (s : State) : Host.Outcome State Fault Refusal :=
  crossLane s [] a.toNat d.toNat (fun _ _ => some n.toNat) fun _ _ => 0

/-- VBCAST from the lane that a scalar register names. -/
def execVbcastScalar (src : BitVec 6) (a d : BitVec 7) (s : State) : Host.Outcome State Fault Refusal :=
  crossLane s [] a.toNat d.toNat (fun c _ => some ((c.g.s src).toNat % 32)) fun _ _ => 0

/-! ## Edge forms (R168, R169) -/

/-- RENDEZVOUS-ABANDON, with the slot and partner field that it names (Table 15.4). -/
def abandonTrap (pc : Word) (slot partner : Nat) : Trap :=
  { cause := .rendezvousAbandon, pc := pc, aux := slot % 16 + partner % 64 * 2 ^ 8 }

/-- The key of the latch that an edge form of a group consults; none at the open end of the chain. -/
def edgeLatch (w : Workgroup) (num : Nat) (left wrap : Bool) : Option Nat :=
  if !wrap && ((left && num == 0) || (!left && num + 1 == w.groups)) then none
  else some (2 * num + (if left then 0 else 1))

/-- The edge value of an edge form, read from its latch, or 0 at the open end; held while the latch cannot be read, and
abandoned where it can never be filled.  DESIGN CHOICE (log 110): AUX of that RENDEZVOUS-ABANDON is 0, an edge form
having neither slot nor partner. -/
def Ctx.edgeValue (c : Ctx) (s : State) (w : Workgroup) (left : Bool) : Option Nat → Except Stop Lane
  | none => .ok 0
  | some k =>
    if !s.latchReady w c.g left then .error (.hold (.edgeRead left))
    else match Map.find? w.latches k with
      | some v => .ok v
      | none => .error (.trap (abandonTrap c.pc 0 0))

/-- An edge form: the lanes read their neighbours, and the end lane the edge value; a latch that is read is emptied. -/
def edgeForm (s : State) (left wrap : Bool) (a d : BitVec 7) : Host.Outcome State Fault Refusal :=
  run s fun c => do
    c.checkRuns [(d.toNat, 1), (a.toNat, 1)]
    c.needB
    let src := fun l => if left then (if l = 0 then none else some (l - 1)) else if l = 31 then none else some (l + 1)
    let from_ := maskOf (c.lanes.filterMap src)
    c.checkCells fun k l => from_.getLsbD l && k == c.g.vKey a.toNat
    match s.wgOf c.g with
    | none => .error c.illegal
    | some w =>
      let latch := edgeLatch w c.g.id.num left wrap
      let end_ ← c.edgeValue s w left latch
      let cells := runCells (c.g.vKey d.toNat) c.lanes 1 fun l _ => match src l with
        | some j => c.g.v a.toNat j
        | none => end_
      let s1 := match latch with
        | none => s
        | some k => s.onWg c.g.id.wg fun w => { w with latches := Map.erase w.latches k }
      .ok (c.launch (c.done s1 c.g) c.flagB none (.result cells [] 0#4))

/-- VNBL.edge. -/
def execVnblEdge (w : Bool) (a d : BitVec 7) (s : State) : Host.Outcome State Fault Refusal := edgeForm s true w a d

/-- VNBR.edge. -/
def execVnbrEdge (w : Bool) (a d : BitVec 7) (s : State) : Host.Outcome State Fault Refusal := edgeForm s false w a d

/-! ## Reductions and scans (R172, R173) -/

/-- Identity of an operation (Table 7.4). -/
def redIdentity : Nat → Lane
  | 1 => 0x7FFFFFFF
  | 2 => 0x80000000
  | 3 => 0xFFFFFFFF
  | 5 => 0xFFFFFFFF
  | 8 => 0x80000000
  | 9 => 0x7FC00000
  | 10 => 0x7FC00000
  | _ => 0

/-- Exclusive lane 0 value of an operation (Table 7.4). -/
def redFirst (op : Nat) : Lane := if op = 8 then 0 else redIdentity op

/-- An operation of Table 7.4 on two entries with the flags that they carry. -/
def redOp (op : Nat) (x y : Lane × Flags) : Lane × Flags :=
  let fl := x.2 ||| y.2
  let (a, b) := (x.1, y.1)
  match op with
  | 0 => (a + b, fl)
  | 1 => (laneMin a b, fl)
  | 2 => (laneMax a b, fl)
  | 3 => (if BitVec.ult b a then b else a, fl)
  | 4 => (if BitVec.ult a b then b else a, fl)
  | 5 => (a &&& b, fl)
  | 6 => (a ||| b, fl)
  | 7 => (a ^^^ b, fl)
  | 8 => let r := fadd .fp32 .rne a.toNat b.toNat; (BitVec.ofNat 32 r.1, r.2 ||| fl)
  | 9 => (BitVec.ofNat 32 (fminmax .fp32 false a.toNat b.toNat), fl)
  | _ => (BitVec.ofNat 32 (fminmax .fp32 true a.toNat b.toNat), fl)

/-- One level of the tree: neighbours combined. -/
def redLevel (op : Nat) : List (Lane × Flags) → List (Lane × Flags)
  | x :: y :: l => redOp op x y :: redLevel op l
  | l => l

/-- The levels of the tree above a level, at most n more. -/
def redTree (op : Nat) : Nat → List (Lane × Flags) → List (List (Lane × Flags))
  | 0, t => [t]
  | n + 1, t => t :: redTree op n (redLevel op t)

/-- The leaves: an inactive lane contributes the identity. -/
def Ctx.redLeaves (c : Ctx) (op a : Nat) : List (Lane × Flags) :=
  (List.range 32).map fun l => (if c.active.getLsbD l then c.g.v a l else redIdentity op, 0#4)

/-- Node i of level k. -/
def redNode (t : List (List (Lane × Flags))) (k i : Nat) : Lane × Flags := (t.getD k []).getD i (0, 0#4)

/-- The inclusive prefix of n lanes, from the nodes that the bits of n name, highest first. -/
def redPrefix (op : Nat) (t : List (List (Lane × Flags))) (n : Nat) : Nat → Nat → Option (Lane × Flags) → Lane × Flags
  | 0, _, p => p.getD (0, 0#4)
  | k + 1, base, p =>
    if n / 2 ^ k % 2 = 1 then
      let x := redNode t k (base / 2 ^ k)
      redPrefix op t n k (base + 2 ^ k) (some (match p with
        | none => x
        | some q => redOp op q x))
    else redPrefix op t n k base p

/-- Result of a scan for a lane. -/
def scanLane (op : Nat) (t : List (List (Lane × Flags))) (excl : Bool) (l : Nat) : Lane × Flags :=
  if excl then (if l = 0 then (redFirst op, 0#4) else redPrefix op t l 6 0 none) else redPrefix op t (l + 1) 6 0 none

/-- VRED: the root of the tree in every active lane.  The root carries the flags of every node. -/
def execVred (o a d : BitVec 7) (s : State) : Host.Outcome State Fault Refusal :=
  let root := fun (c : Ctx) => redNode (redTree o.toNat 5 (c.redLeaves o.toNat a.toNat)) 5 0
  kindB s [(a.toNat, 1)] d.toNat 1 (fun _ => []) (fun c => if c.lanes = [] then 0#4 else (root c).2)
    fun c _ _ => (root c).1

/-- A scan. -/
def scanForm (s : State) (excl : Bool) (o a d : BitVec 7) : Host.Outcome State Fault Refusal :=
  let tree := fun (c : Ctx) => redTree o.toNat 5 (c.redLeaves o.toNat a.toNat)
  kindB s [(a.toNat, 1)] d.toNat 1 (fun _ => [])
    (fun c => if c.lanes = [] then 0#4 else (redNode (tree c) 5 0).2 ||| c.allFlags fun l => (scanLane o.toNat (tree c) excl l).2)
    fun c l _ => (scanLane o.toNat (tree c) excl l).1

/-- VSCAN.incl. -/
def execVscanIncl (o a d : BitVec 7) (s : State) : Host.Outcome State Fault Refusal := scanForm s false o a d

/-- VSCAN.excl. -/
def execVscanExcl (o a d : BitVec 7) (s : State) : Host.Outcome State Fault Refusal := scanForm s true o a d

/-! ## Votes (R174) -/

/-- A vote: the mask of the active lanes that a test selects, into a scalar register. -/
def voteForm (s : State) (a : BitVec 7) (src : BitVec 6) (f : Ctx → Nat → Bool) : Host.Outcome State Fault Refusal :=
  run s fun c => do
    c.checkRuns [(a.toNat, 1)]
    c.needB
    c.checkEcc c.active [(a.toNat, 1)]
    let w := maskOf (c.lanes.filter (f c))
    .ok (c.launch (c.done s c.g) c.flagB none (.result [] [(c.g.sKey src, w.setWidth 64)] 0#4))

/-- VVOTE.ballot. -/
def execVvoteBallot (a : BitVec 7) (src : BitVec 6) (s : State) : Host.Outcome State Fault Refusal :=
  voteForm s a src fun c l => c.g.v a.toNat l != 0

/-- VVOTE.eq. -/
def execVvoteEq (a : BitVec 7) (src : BitVec 6) (s : State) : Host.Outcome State Fault Refusal :=
  voteForm s a src fun c l => c.g.v a.toNat l == c.g.v a.toNat (lowestLane c.active)

end Sys2Proof.Machine
end

