-- ==== Sys2Proof/Machine/Rendezvous.lean ====
section
/-! DEFINITION. Moving registers between the groups of a workgroup: major 0x1E, transfers, deposits and abandonment
(R170, R175 to R181). -/

namespace Sys2Proof.Machine

/-! ## A fragment that is held after its instruction took effect -/

/-- The context of a fragment that stands at an instruction of 32 bits, neither a branch nor a split: the cycle is not used. -/
def Group.ctxAt (g : Group) (f : Frag) (clock : Nat) : Ctx :=
  { age := g.id.age, entry := f.entry, g := g, f := f, len := 4, word := 0, packed := false, clock := clock, now := 0 }

/-- The fragment of an entry in one of a group's two banks. -/
def Group.fragIn? (g : Group) (trap : Bool) (entry : Nat) : Option Frag :=
  (if trap then g.flow.trapFrags else g.flow.frags).find? fun f => f.entry == entry

/-- Change the fragment of an entry in one of a group's two banks. -/
def Group.onFragIn (g : Group) (trap : Bool) (entry : Nat) (h : Frag → Frag) : Group :=
  let ch := fun (fs : List Frag) => fs.map fun f => if f.entry == entry then h f else f
  if trap then { g with flow := { g.flow with trapFrags := ch g.flow.trapFrags } }
  else { g with flow := { g.flow with frags := ch g.flow.frags } }

/-- A held fragment completes its 32-bit instruction at `at_`, which counted as issued when it was held: it goes to the next one,
ready, or on where a return from a trap has sent it meanwhile (R180). -/
def Group.completeHeld (g : Group) (trap : Bool) (entry : Nat) (at_ : Word) : Group :=
  g.onFragIn trap entry fun f =>
    { f with pc := if f.pc = at_ then f.pc + 4 else f.pc, wait := .ready, hold := .none, age := 0 }

/-! ## XEDGE (R170) -/

/-- The deposits of XEDGE: to the latch of the left neighbour, and to that of the right one. -/
def edgeDeposits (w : Workgroup) (g : Group) (wrap : Bool) (va : Nat) : Option (Nat × Lane) × Option (Nat × Lane) :=
  let n := w.groups
  let num := g.id.num
  let right := if num + 1 < n then some (num + 1, g.v va 31) else if wrap then some (0, g.v va 31) else none
  let left := if 0 < num then some (num - 1, g.v va 0) else if wrap then some (n - 1, g.v va 0) else none
  (left, right)

/-- XEDGE: reads lanes 0 and 31 at issue; the fragment is held until both deposits are made. -/
def execXedge (w : Bool) (a : BitVec 6) (s : State) : Host.Outcome State Fault Refusal :=
  run s fun c => do
    c.checkRuns [(a.toNat, 1)]
    c.checkEcc (laneBit 0 ||| laneBit 31) [(a.toNat, 1)]
    match s.wgOf c.g with
    | none => .error c.illegal
    | some wg =>
      let (l, r) := edgeDeposits wg c.g w a.toNat
      let g := c.advance c.g
      .ok (c.put s (if l.isNone && r.isNone then g
        else g.onFrag c.entry fun f => { f with wait := .held, hold := .deposits l r }))

/-- One deposit: made if its latch is empty, discarded if its target has exited; what is still to be made. -/
def State.deposit (s : State) (wg key : Nat) : Option (Nat × Lane) → Option (Nat × Lane) × State
  | none => (none, s)
  | some (t, v) =>
    let gone := match s.member? wg t with
      | none => true
      | some (_, h) => h.exited
    match Map.find? s.wgs wg with
    | none => (none, s)
    | some w =>
      if gone then (none, s)
      else match Map.find? w.latches key with
        | some _ => (some (t, v), s)
        | none => (none, s.onWg wg fun w => { w with latches := Map.insert w.latches key v })

/-- Number of the group that a deposit goes to. -/
def depositKey (right : Bool) : Option (Nat × Lane) → Nat
  | none => 0
  | some (t, _) => 2 * t + (if right then 0 else 1)

/-- EDGE_LATCH_DEPOSIT (R170): the deposits that can be made are made; the fragment goes on once none is left. -/
def execEdgeLatchDeposit (age entry : Nat) (s : State) : Host.Outcome State Fault Refusal :=
  match Map.find? s.groups age with
  | none => .next s
  | some g =>
    let make := fun (trap : Bool) (s : State) => match g.fragIn? trap entry with
      | some f => match f.wait, f.hold with
        | .held, .deposits l r =>
          let (r1, s1) := s.deposit g.id.wg (depositKey true r) r
          let (l1, s2) := s1.deposit g.id.wg (depositKey false l) l
          s2.onGroup age fun h => h.onFragIn trap entry fun f =>
            if l1.isNone && r1.isNone then { f with wait := .ready, hold := .none } else { f with hold := .deposits l1 r1 }
        | _, _ => s
      | none => s
    .next (make true (make false s))

/-! ## XSEND and XRECV (R175, R176) -/

/-- The partner field names a possible partner (R175). -/
def Ctx.checkPartner (c : Ctx) (w : Workgroup) (p : BitVec 6) : Except Stop Unit :=
  need (p = 32#6 || (decide (p.toNat < w.groups) && p.toNat != c.g.id.num)) c.illegal

/-- The partner of a group in a workgroup can no longer arrive (R178). -/
def State.partnerGone (s : State) (wg num partner : Nat) : Bool :=
  if partner = 32 then (s.members wg).all fun p => p.2.id.num == num || p.2.exited
  else match s.member? wg partner with
    | none => true
    | some (_, h) => h.exited

/-- The fragment may take its side of a slot: the side is empty, and no other fragment tried for it earlier (R176). -/
def Ctx.checkSide (c : Ctx) (s : State) (w : Workgroup) (send : Bool) (slot partner : Nat) : Except Stop Unit :=
  let h : Hold := if send then .sendSide slot partner else .recvSide slot
  let f := if c.f.hold = h then c.f else { c.f with hold := h, pausedUntil := s.ticks }
  need (w.sideEmpty send slot && s.firstForSide c.g f send slot) (.hold h)

/-- Change a rendezvous slot; a slot with both sides empty is not listed. -/
def State.onSlot (s : State) (wg slot : Nat) (h : Rendezvous → Rendezvous) : State :=
  s.onWg wg fun w =>
    let x := h ((Map.find? w.slots slot).getD { send := none, recv := none })
    { w with slots := if x.send.isNone && x.recv.isNone then Map.erase w.slots slot else Map.insert w.slots slot x }

/-- XSEND: occupies the send side with its registers; the fragment is held at it until the transfer. -/
def execXsend (p : BitVec 6) (n : BitVec 2) (src : BitVec 4) (a : BitVec 6) (s : State) :
    Host.Outcome State Fault Refusal :=
  run s fun c => do
    let count := n.toNat + 1
    match s.wgOf c.g with
    | none => .error c.illegal
    | some w =>
      c.checkPartner w p
      c.checkRuns [(a.toNat, count)]
      c.checkEcc c.active [(a.toNat, count)]
      c.checkSide s w true src.toNat p.toNat
      need (!s.partnerGone w.id c.g.id.num p.toNat) (.trap (abandonTrap c.pc src.toNat p.toNat))
      let data := runCells 0 c.lanes count fun l j => c.g.vRun a.toNat j l
      let side : SendSide := { age := c.age, num := c.g.id.num, entry := c.entry, pc := c.pc, partner := p.toNat,
                               lanes := c.active, count := count, inTrap := c.g.flow.trapMode, data := data }
      let s1 := s.onSlot w.id src.toNat fun x => { x with send := some side }
      .ok (s1.onGroup c.age fun g => (g.onFrag c.entry fun f =>
        { f with wait := .held, hold := .transfer src.toNat, lastIssue := c.clock }).countIssue)

/-- XRECV: occupies the receive side; its results are written at the transfer. -/
def execXrecv (p : BitVec 6) (n : BitVec 2) (src : BitVec 4) (d : BitVec 6) (s : State) :
    Host.Outcome State Fault Refusal :=
  run s fun c => do
    let count := n.toNat + 1
    match s.wgOf c.g with
    | none => .error c.illegal
    | some w =>
      c.checkPartner w p
      c.checkRuns [(d.toNat, count)]
      c.needA
      c.checkSide s w false src.toNat p.toNat
      need (!s.partnerGone w.id c.g.id.num p.toNat) (.trap (abandonTrap c.pc src.toNat p.toNat))
      let side : RecvSide := { age := c.age, num := c.g.id.num, partner := p.toNat, op := s.nextOp }
      let s1 := s.onSlot w.id src.toNat fun x => { x with recv := some side }
      .ok (c.launch (c.done s1 c.g) c.flagA none (.xrecv src.toNat p.toNat c.active d.toNat count))

/-! ## The transfer (R177) -/

/-- A pending send and a pending receive match. -/
def sidesMatch (x : SendSide) (r : RecvSide) : Bool :=
  x.num != r.num && (x.partner == 32 || x.partner == r.num) && (r.partner == 32 || r.partner == x.num)

/-- Both groups are resident and run (R180). -/
def State.bothRun (s : State) (a b : Nat) : Bool :=
  match Map.find? s.groups a, Map.find? s.groups b with
  | some g, some h => g.running && h.running
  | _, _ => false

/-- What the transfer writes: each register and lane of the receive, from the data sent, else 0. -/
def transferCells (x : SendSide) (lanes : Lane) (key count : Nat) : List (Nat × Lane) :=
  runCells key (lanesOf lanes) count fun l j =>
    if j < x.count ∧ x.lanes.getLsbD l then ((x.data.find? fun p => p.1 == 32 * j + l).map (·.2)).getD 0 else 0

/-- RENDEZVOUS_TRANSFER (R177): where the sides of a slot match and both groups run, the registers are handed over. -/
def execRendezvousTransfer (wg slot : Nat) (s : State) : Host.Outcome State Fault Refusal :=
  match (Map.find? s.wgs wg).bind fun w => Map.find? w.slots slot with
  | some { send := some x, recv := some r } =>
    if sidesMatch x r && s.bothRun x.age r.age then
      match s.pend.find? fun p => p.id == r.op with
      | some p => match p.kind with
        | .xrecv _ _ lanes reg count =>
          let s1 := s.onSlot wg slot fun _ => { send := none, recv := none }
          let s2 := s1.writeBack p (transferCells x lanes reg count) [] 0#4
          .next (s2.onGroup x.age fun g => g.completeHeld x.inTrap x.entry x.pc)
        | _ => .next s
      | none => .next s
    else .next s
  | _ => .next s

/-! ## Abandonment (R178) -/

/-- A pending send that can never be received: the send side empties, and its group takes RENDEZVOUS-ABANDON precise at
the XSEND, which has not issued; in trap mode the trap of a fragment of the group's own is held for the end of trap mode. -/
def State.abandonSend (s : State) (wg slot : Nat) (x : SendSide) : State :=
  let s1 := s.onSlot wg slot fun r => { r with send := none }
  let t := abandonTrap x.pc slot x.partner
  match Map.find? s1.groups x.age with
  | none => s1
  | some g =>
    let ready := fun (g : Group) => (g.onFragIn x.inTrap x.entry fun f => { f with wait := .ready, hold := .none }).uncountIssue
    if g.flow.trapMode && !x.inTrap then
      s1.onGroup x.age fun g =>
        let h := ready g
        { h with work := { h.work with sendAbandon := h.work.sendAbandon ++ [(x.entry, t)] } }
    else
      (s1.onGroup x.age ready).trapSent x.age
        { entry := x.entry, lanes := ((g.fragIn? x.inTrap x.entry).map (·.lanes)).getD 0, pc := x.pc, npc := x.pc + 4,
          header := none, kept := false } 4 x.inTrap t

/-- A pending receive that can never be sent to: the receive side empties, the XRECV counts as complete for its flag,
and its trap comes at a header that waits for the flag, or at EXIT.  One issued in trap mode is a fault in trap
mode. -/
def State.abandonRecv (s : State) (wg slot : Nat) (r : RecvSide) : State :=
  let s1 := s.onSlot wg slot fun x => { x with recv := none }
  match s1.pend.find? fun p => p.id == r.op with
  | none => s1
  | some p =>
    let s2 := s1.landPend p
    if p.trapBank then
      match Map.find? s2.groups p.age with
      | none => s2
      | some g => s2.trapSent p.age (g.standing p.entry) 0 true (abandonTrap p.pc slot r.partner)
    else s2.onGroup p.age fun g => { g with work := { g.work with
      abandoned := g.work.abandoned ++ [{ order := p.id, flag := p.flag.getD 15, pc := p.pc, slot := slot,
                                          partner := r.partner }] } }

/-- Withdraw the pending receives of a group that has exited (R178). -/
def State.withdrawRecvs (s : State) (wg age : Nat) : State :=
  (List.range 16).foldl (fun t slot => match (Map.find? t.wgs wg).bind fun w => (Map.find? w.slots slot).bind (·.recv) with
    | some r => if r.age = age then
        { t.onSlot wg slot fun x => { x with recv := none } with pend := t.pend.filter fun p => p.id != r.op }
      else t
    | none => t) s

/-- Abandon the pending operations of a workgroup whose partner can no longer arrive. -/
def State.abandonRendezvous (s : State) (wg : Nat) : State :=
  (List.range 16).foldl (fun t slot =>
    let sides := fun (t : State) => (Map.find? t.wgs wg).bind fun w => Map.find? w.slots slot
    let t1 := match (sides t).bind (·.send) with
      | some x => if t.partnerGone wg x.num x.partner then t.abandonSend wg slot x else t
      | none => t
    match (sides t1).bind (·.recv) with
    | some r => if t1.partnerGone wg r.num r.partner then t1.abandonRecv wg slot r else t1
    | none => t1) s

end Sys2Proof.Machine
end

