-- ==== Sys2Proof/Machine/Matrix.lean ====
section
/-! DEFINITION. Matrix instructions: majors 0x36 to 0x39, the gang latch, and the array queue (R295 to R299, R302 to R316,
R319 to R322, R326 to R335). -/

namespace Sys2Proof.Machine

/-! ## Claims (R296, R297) -/

/-- How many objects of a kind a core has. -/
def objectCountOf (tile : Bool) : Nat := if tile then 32 else 128

/-- The first word and the count name no run: the word breaks its rules, or the run passes the last object. -/
def runWordBad (tile : Bool) (w count : Nat) : Bool :=
  let any := decide (w / 2 ^ 7 % 2 = 1)
  decide (w / 2 ^ 8 ≠ 0) || (tile && decide (w / 2 ^ 5 % 4 ≠ 0)) || (any && decide (w % 2 ^ 7 ≠ 0)) || count == 0
    || decide (objectCountOf tile < count) || (!any && decide (objectCountOf tile < w % 2 ^ 7 + count))

/-- The group that has claimed an object. -/
def State.ownerOf (s : State) (core : Nat) (tile : Bool) (n : Nat) : Option Nat :=
  if tile then (s.tile core n).owner else (s.operand core n).owner

/-- A run of objects is unclaimed. -/
def State.runFree (s : State) (core : Nat) (tile : Bool) (first count : Nat) : Bool :=
  (List.range count).all fun i => (s.ownerOf core tile (first + i)).isNone

/-- The first object of the run that a claim takes. -/
def State.claimFirst (s : State) (core : Nat) (tile : Bool) (w count : Nat) : Option Nat :=
  if w / 2 ^ 7 % 2 = 1 then
    (List.range (objectCountOf tile + 1 - count)).find? fun f => s.runFree core tile f count
  else if s.runFree core tile (w % 2 ^ 7) count then some (w % 2 ^ 7) else none

/-- Forget the poison of a slot's words. -/
def State.cleanSlot (s : State) (core n : Nat) : State :=
  { s with mem := { s.mem with poison := s.mem.poison.filter fun p =>
      !(decide (poisonSlot core (16384 * n) ≤ p) && decide (p < poisonSlot core (16384 * (n + 1)))) } }

/-- An object belongs to a group and holds zeros (R296). -/
def State.claimObject (s : State) (core : Nat) (tile : Bool) (n age : Nat) : State :=
  if tile then (s.onTile core n fun _ => { Tile.empty with owner := some age }).cleanTile core n
  else (s.onOperand core n fun _ => { Slot.empty with owner := some age }).cleanSlot core n

/-- An object belongs to no group; what it holds stays until it is claimed again (R296, R297). -/
def State.freeObject (s : State) (core : Nat) (tile : Bool) (n : Nat) : State :=
  if tile then s.onTile core n fun t => { t with owner := none } else s.onOperand core n fun o => { o with owner := none }

/-- Hold a fragment past its instruction. -/
def Ctx.holdPast (c : Ctx) (s : State) (h : Hold) : State :=
  s.onGroup c.age fun g => g.onFrag c.entry fun f => { f with wait := .held, hold := h }

/-- OCLAIM and ACLAIM (R296). -/
def claimForm (s : State) (tile : Bool) (n b d : BitVec 6) : Host.Outcome State Fault Refusal :=
  run s fun c => do
    let w := (c.g.s b).toNat
    let count := (c.g.s n).toNat
    need (!runWordBad tile w count) c.illegal
    match s.claimFirst c.core tile w count with
    | none => .ok (c.finish s fun g => g.setS d (BitVec.allOnes 64))
    | some first =>
      let s1 := (List.range count).foldl (fun t i => t.claimObject c.core tile (first + i) c.age) s
      .ok (c.holdPast (c.finish s1 fun g => g.setS d (BitVec.ofNat 64 first)) .claiming)

/-- OCLAIM. -/
def execOclaim (n b d : BitVec 6) (s : State) : Host.Outcome State Fault Refusal := claimForm s false n b d

/-- ACLAIM. -/
def execAclaim (n b d : BitVec 6) (s : State) : Host.Outcome State Fault Refusal := claimForm s true n b d

/-- CLAIM_ZEROING_DONE (R296): the fragment goes on. -/
def execClaimZeroingDone (age entry : Nat) (s : State) : Host.Outcome State Fault Refusal :=
  .next (s.onGroup age fun g => g.setBank (g.bank.map fun f =>
    if f.entry = entry ∧ f.wait = .held ∧ f.hold = .claiming then { f with wait := .ready, hold := .none } else f))

/-- Slots that a latched operation names. -/
def Latched.slots (l : Latched) : List Nat :=
  if l.guided then []
  else
    let w := l.step.toNat
    let n := (w / 2 ^ 24 % 4 + 1) * fwSlots l.fmt.toNat
    w % 128 :: (if l.sparse then [w / 2 ^ 16 % 128] else []) ++ (List.range n).map (w / 2 ^ 8 % 128 + ·)

/-- An operation issued before operation `before`: an operation of a gang issued with the parts that were latched (R297). -/
def ObjectEntry.issuedBefore (e : ObjectEntry) (before : Nat) : Bool :=
  decide (e.id < before) || match e.op with
    | .mma _ _ _ _ _ _ parts => parts.any fun p => decide (p.op < before)
    | .guided _ _ _ _ _ opC opU _ => decide (opC < before) || decide (opU < before)
    | _ => false

/-- An operation before `before` still names an object (R297). -/
def State.objectBusy (s : State) (core : Nat) (tile : Bool) (n before : Nat) : Bool :=
  ((s.core core).aops.any fun e => e.issuedBefore before
      && (if tile then e.op.tiles.contains n else e.op.reads.contains n || e.op.writes.contains n))
    || (s.core core).latch.any fun l => decide (l.op < before) && (if tile then l.tile == n else l.slots.contains n)

/-- A fragment that is held releasing a run goes on once every object of it has been released. -/
def endReleasing (f : Frag) : Frag := match f.hold with
  | .releasing _ [] _ => { f with wait := .ready, hold := .none }
  | _ => f

/-- The fragments of a core that are held releasing and have nothing left to release go on. -/
def State.endRelease (s : State) (core : Nat) : State :=
  { s with groups := s.groups.map fun (k, g) =>
      if g.id.core = core ∧ g.id.resident = true then (k, g.setBank (g.bank.map endReleasing)) else (k, g) }

/-- An object is released: no release of its group has it left. -/
def releasedFrom (tile : Bool) (n : Nat) (f : Frag) : Frag := match f.hold with
  | .releasing t left before => if t = tile then { f with hold := .releasing t (left.filter (· != n)) before } else f
  | _ => f

/-- Release an object of a run of a group if nothing before the release names it. -/
def State.tryRelease (s : State) (core age : Nat) (tile : Bool) (n before : Nat) : State :=
  if s.ownerOf core tile n == some age && !s.objectBusy core tile n before then
    (s.freeObject core tile n).onGroup age fun g =>
      { g with flow := { g.flow with frags := g.flow.frags.map (releasedFrom tile n),
                                     trapFrags := g.flow.trapFrags.map (releasedFrom tile n) } }
  else s

/-- An incomplete WLOADO fills one of the slots. -/
def State.loading (s : State) (core : Nat) (slots : List Nat) : Bool := (s.core core).aops.any fun e => match e.op with
  | .engine (some n) _ _ => slots.contains n
  | _ => false

/-- An instruction waits for an incomplete WLOADO of one of its slots (R284). -/
def Ctx.checkLoading (c : Ctx) (s : State) (slots : List Nat) : Except Stop Unit :=
  need (!s.loading c.core slots) (.hold (.slotLoading slots))

/-- The objects that a release's word and count name, of those that there are: a malformed word names those of its first
number (log 59). -/
def releaseRun (tile : Bool) (w count : Nat) : List Nat :=
  (List.range (min count (objectCountOf tile - w % 2 ^ 7))).map (w % 2 ^ 7 + ·)

/-- OREL and AREL (R297): SLOT comes before the conditions on the word (R54). -/
def releaseForm (s : State) (tile : Bool) (n b : BitVec 6) : Host.Outcome State Fault Refusal :=
  run s fun c => do
    let w := (c.g.s b).toNat
    let count := (c.g.s n).toNat
    let objects := releaseRun tile w count
    match objects.find? fun i => s.ownerOf c.core tile i != some c.age with
    | some i => .error (slotTrap i)
    | none => .ok ()
    need (!runWordBad tile w count && decide (w / 2 ^ 7 % 2 = 0)) c.illegal
    if tile then .ok () else c.checkLoading s objects
    let s1 := c.holdPast (c.finish s id) (.releasing tile objects s.nextOp)
    .ok ((objects.foldl (fun t i => t.tryRelease c.core c.age tile i s.nextOp) s1).endRelease c.core)

/-- OREL. -/
def execOrel (n b : BitVec 6) (s : State) : Host.Outcome State Fault Refusal := releaseForm s false n b

/-- AREL. -/
def execArel (n b : BitVec 6) (s : State) : Host.Outcome State Fault Refusal := releaseForm s true n b

/-- The number of a release that has an object of its group left, where nothing before it names the object. -/
def State.releaseOf (s : State) (core : Nat) (tile : Bool) (n : Nat) : Option (Nat × Nat) :=
  (s.ownerOf core tile n).bind fun age => (Map.find? s.groups age).bind fun g =>
    g.bank.findSome? fun f => match f.hold with
      | .releasing t left before => if t == tile && left.contains n && !s.objectBusy core tile n before then some (age, before) else none
      | _ => none

/-- OBJECT_RELEASE (R297): an object that a held fragment releases, once nothing earlier names it. -/
def execObjectRelease (core : Nat) (tile : Bool) (index : Nat) (s : State) : Host.Outcome State Fault Refusal :=
  match s.releaseOf core tile index with
  | none => .next s
  | some (age, before) => .next ((s.tryRelease core age tile index before).endRelease core)

/-! ## Moving data by registers (R299) -/

/-- The slot address word is malformed, for n registers. -/
def slotWordBad (w n : Nat) : Bool := decide (w / 2 ^ 14 ≠ 0) || decide (16384 < w / 2 ^ 7 % 128 * 128 + 128 * n)

/-- RF-ECC where bytes of a slot or a tile that the instruction consumes are poisoned (R410): offsets from a base.  It comes before the
conditions on the operands (R369; log 120). -/
def Ctx.checkSram (_ : Ctx) (s : State) (tile : Bool) (key : Nat → Nat) (n : Nat) (used : Nat → Bool) : Except Stop Unit :=
  if s.mem.poison.isEmpty then .ok ()
  else match (List.range (n / 4)).find? fun i => used (4 * i) && s.mem.poison.contains (key (4 * i)) with
    | some i => .error (.trap { cause := .rfEcc, aux := if tile then 0x1002 else 0x1001, addr := BitVec.ofNat 64 (4 * i) })
    | none => .ok ()

/-- RF-ECC for bytes of a slot: those of one that is being loaded are consumed only once it is (R284). -/
def Ctx.checkSlotEcc (c : Ctx) (s : State) (slot : Nat) (used : Nat → Bool) : Except Stop Unit :=
  if s.loading c.core [slot] then .ok ()
  else c.checkSram s false (fun i => poisonSlot c.core (16384 * slot + i)) 16384 used

/-- RF-ECC for bytes of a tile. -/
def Ctx.checkTileEcc (c : Ctx) (s : State) (tile : Nat) (used : Nat → Bool) : Except Stop Unit :=
  c.checkSram s true (fun i => poisonTile c.core (49152 * tile + i)) 49152 used

/-- OPUT. -/
def execOput (n : BitVec 3) (b a : BitVec 6) (s : State) : Host.Outcome State Fault Refusal :=
  run s fun c => do
    let k := n.toNat + 1
    let w := (c.g.s b).toNat
    let slot := w % 128
    let off := w / 2 ^ 7 % 128 * 128
    c.checkRuns [(a.toNat, k)]
    c.checkEcc c.f.lanes [(a.toNat, k)]
    need (c.ownsSlot s slot) (slotTrap slot)
    need (!slotWordBad w k) c.illegal
    let data := (List.range k).flatMap fun j => (lanesOf c.f.lanes).map fun l => (off + 128 * j + 4 * l, c.g.vRun a.toNat j l)
    let s1 := State.onOperand { s with nextOp := s.nextOp + 1 } c.core slot fun o => { o with ro := none, tag := 0 }
    .ok (c.finish (s1.reachObject c.core
      { id := s.nextOp, age := c.age, cls := 0, queued := false, op := .oput slot off data }) id)

/-- OGET. -/
def execOget (n : BitVec 3) (b d : BitVec 6) (s : State) : Host.Outcome State Fault Refusal :=
  run s fun c => do
    let k := n.toNat + 1
    let w := (c.g.s b).toNat
    let slot := w % 128
    let off := w / 2 ^ 7 % 128 * 128
    c.checkRuns [(d.toNat, k)]
    c.needA
    c.checkSlotEcc s slot fun i => decide (off ≤ i) && decide (i < off + 128 * k) && c.f.lanes.getLsbD ((i - off) / 4 % 32)
    need (c.ownsSlot s slot) (slotTrap slot)
    need (!slotWordBad w k) c.illegal
    c.checkLoading s [slot]
    .ok (State.reachObject (c.launch (c.finish s id) c.flagA none (.object s.nextOp)) c.core
      { id := s.nextOp, age := c.age, cls := 0, queued := false,
        op := .oget slot off (c.g.vKey d.toNat) k c.f.lanes })

/-! ## Scale axes (R322) -/

/-- A slot with scales along one axis is read along the other: `rows` says that the operand reads K along slot rows. -/
def scaleAxisBad (tag : Nat) (rows : Bool) : Bool := (tag == 1 && !rows) || (tag == 2 && rows)

/-- The first slot of the B run whose axis is wrong. -/
def State.badAxisB (s : State) (core w bs n : Nat) : Option Nat :=
  if fwScale w then ((List.range n).map (bs + ·)).find? fun i => scaleAxisBad (s.operand core i).tag (fwBT w) else none

/-! ## MMA and MMAS (R303, R305 to R309, R314, R318) -/

/-- STEPS of a step word, as S. -/
def stepCount (w : Nat) : Nat := w / 2 ^ 24 % 4 + 1

/-- The step word has a non-zero bit that must be zero. -/
def stepWordBad (w : Nat) (sparse : Bool) : Bool :=
  decide (w / 2 ^ 26 ≠ 0) || decide (w / 2 ^ 23 % 2 ≠ 0) || decide (w / 2 ^ 15 % 2 ≠ 0) || decide (w / 2 ^ 7 % 2 ≠ 0)
    || (!sparse && decide (w / 2 ^ 16 % 128 ≠ 0))

/-- FORMAT-DIVERGENCE with its record: the reference word, and the lane and GROUP of the first word that differs. -/
def formatTrap (ref : Lane) (lane num : Nat) : Trap :=
  { cause := .formatDivergence, aux := lane + num * 2 ^ 8, word := ref.setWidth 64 }

/-- The vote of one fragment (R303). -/
def Ctx.checkVote (c : Ctx) (f : BitVec 6) (sparse i32 : Bool) : Except Stop Unit :=
  let ls := lanesOf c.f.lanes
  let ref := c.g.v f.toNat (ls.headD 0)
  match ls.find? fun l => c.g.v f.toNat l != ref with
  | some l => .error (.trap (formatTrap ref l c.g.id.num))
  | none => need (!formatBad ref.toNat sparse i32) (.trap (formatTrap ref 32 c.g.id.num))

/-- The members of the group's gang, with their ages. -/
def State.gangMembers (s : State) (g : Group) : List (Nat × Group) :=
  (s.members g.id.wg).filter fun p => hasGroup g.sys.gang.members p.2.id.num

/-- The issuer, or a member of its gang, has claimed a slot. -/
def Ctx.gangOwns (c : Ctx) (s : State) (n : Nat) : Bool :=
  match (s.operand c.core n).owner with
  | none => false
  | some age => age == c.age || (c.g.sys.gang.valid && (s.gangMembers c.g).any fun p => p.1 == age)

/-- A group that the gang lists has wholly exited: the lowest. -/
def State.exitedMember (s : State) (g : Group) : Option Nat :=
  match s.wgOf g with
  | none => none
  | some w => (lanesOf g.sys.gang.members).find? fun n => n != g.id.num && hasGroup w.exited n

/-- GANG because a listed group has exited. -/
def Ctx.checkMembers (c : Ctx) (s : State) : Except Stop Unit :=
  match s.exitedMember c.g with
  | some n => .error (.trap (gangTrap n 3))
  | none => .ok ()

/-- The array queue of a core has room (R318).  DESIGN CHOICE (log 127): the operation that the array runs counts among the 32. -/
def State.arrayRoom (s : State) (core : Nat) : Bool := decide (((s.core core).aops.filter (·.queued)).length < 32)

/-- RF-ECC for poisoned operands: the whole of each slot that the operation reads, and its tile. -/
def Ctx.checkOperands (c : Ctx) (s : State) (slots : List Nat) (tile : Nat) : Except Stop Unit := do
  if s.mem.poison.isEmpty then .ok ()
  else do
    slots.forM fun n => c.checkSlotEcc s n fun _ => true
    c.checkTileEcc s tile fun _ => true

/-- Latch an operation: its fragment stays at it, held (R314). -/
def Ctx.latch (c : Ctx) (s : State) (guided sparse : Bool) (tile : Nat) (fmt : Lane) (step rows : Word) : State :=
  let l : Latched :=
    { age := c.age, num := c.g.id.num, entry := c.entry, pc := c.pc, lanes := c.f.lanes, op := s.nextOp, wg := c.g.id.wg,
      cohort := c.g.sys.gang.cohort, pair := c.g.sys.gang.pair, members := c.g.sys.gang.members, guided := guided,
      sparse := sparse, tile := tile, fmt := fmt, step := step, rows := rows, batch := c.g.work.batchCount,
      weight := c.g.sys.guideW }
  let s1 := State.onCore { s with nextOp := s.nextOp + 1 } c.core fun k => { k with latch := k.latch ++ [l] }
  s1.onGroup c.age fun g =>
    { g.onFrag c.entry fun f => { f with wait := .held, hold := .latched, lastIssue := c.clock } with
      work := { g.work with openOps := g.work.openOps ++ [l.op], issued := g.work.issued + 1 } }

/-- A member's part of an MMA. -/
def Latched.part (l : Latched) : MmaPart :=
  { age := l.age, num := l.num, entry := l.entry, pc := l.pc, lanes := l.lanes, op := l.op, tile := l.tile,
    slotA := l.step.toNat % 128, side := l.step.toNat / 2 ^ 16 % 128, rows := l.rows, batch := l.batch }

/-- A check has passed. -/
def passes (e : Except Stop Unit) : Bool := match e with
  | .ok _ => true
  | .error _ => false

/-- MMA and MMAS: RF-ECC for the registers and for what it would read, a B run being known where the vote is good (R369; log 120), the
checks of R306 in their order, then the array queue, or the latch for a member of a gang. -/
def mmaForm (s : State) (sparse : Bool) (t : BitVec 5) (f m k : BitVec 6) : Host.Outcome State Fault Refusal :=
  run s fun c => do
    let w := (c.g.s k).toNat
    let a := w % 128
    let side := w / 2 ^ 16 % 128
    let bs := w / 2 ^ 8 % 128
    let tile := t.toNat
    c.needUser
    c.checkRuns [(f.toNat, 1)]
    c.checkEcc c.f.lanes [(f.toNat, 1)]
    let vote := c.checkVote f sparse (s.tile c.core tile).i32
    let fmt := c.g.v f.toNat (lowestLane c.f.lanes)
    let fw := fmt.toNat
    let n := stepCount w * fwSlots fw
    let brun := (List.range n).map (bs + ·)
    let mine := if sparse then [a, side] else [a]
    c.checkOperands s (mine ++ if passes vote then brun.filter (· < 128) else []) tile
    need (!stepWordBad w sparse) c.illegal
    need (c.ownsTile s tile) (slotTrap tile)
    match least? (mine.filter fun n => !c.ownsSlot s n) with
    | some n => .error (slotTrap n)
    | none => .ok ()
    vote
    match brun.find? fun i => decide (127 < i) || !c.gangOwns s i with
    | some i => .error (slotTrap i)
    | none => .ok ()
    need (decide (stepCount w ≤ fwLargest fw)) c.illegal
    need (!(fwScale fw && scaleAxisBad (s.operand c.core a).tag (!fwAT fw))) (.trap { cause := .scaleAxis, aux := a })
    let gang := c.g.sys.gang.valid
    match if gang then none else s.badAxisB c.core fw bs n with
    | some i => .error (.trap { cause := .scaleAxis, aux := i })
    | none => .ok ()
    if gang then c.checkMembers s else .ok ()
    c.checkLoading s (mine ++ brun)
    if gang then do
      need (s.latchedOf c.g).isNone (.hold .latchBusy)
      .ok (c.latch s false sparse tile fmt (c.g.s k) (c.g.s m))
    else do
      need (s.arrayRoom c.core) (.hold .arrayRoom)
      let part : MmaPart :=
        { age := c.age, num := c.g.id.num, entry := c.entry, pc := c.pc, lanes := c.f.lanes, op := s.nextOp, tile := tile,
          slotA := a, side := side, rows := c.g.s m, batch := c.g.work.batchCount }
      let e : ObjectEntry := { id := s.nextOp, age := c.age, cls := c.g.id.cls, queued := true,
                               op := .mma sparse fmt bs n (stepCount w) 0 [part] }
      .ok (c.finish (State.reachObject { s with nextOp := s.nextOp + 1 } c.core e) fun g =>
        { g with work := { g.work with openOps := g.work.openOps ++ [s.nextOp] } })

/-- MMA. -/
def execMma (t : BitVec 5) (f m k : BitVec 6) (s : State) : Host.Outcome State Fault Refusal := mmaForm s false t f m k

/-- MMAS. -/
def execMmas (t : BitVec 5) (f m k : BitVec 6) (s : State) : Host.Outcome State Fault Refusal := mmaForm s true t f m k

/-! ## Batches, AZERO and drains (R311, R312, R319 to R321) -/

/-- An AFENCE disturbs the gang: in pair mode only where it would pass the partner's batch number (R316, R334). -/
def Ctx.checkFenceGang (c : Ctx) (s : State) : Except Stop Unit :=
  let late := fun (l : Latched) => !c.g.sys.gang.pair || decide (l.batch < c.g.work.batchCount + 1)
  need (!(s.partners c.g).any late) .disturb

/-- AFENCE. -/
def execAfence (d : BitVec 6) (s : State) : Host.Outcome State Fault Refusal :=
  run s fun c => do
    c.checkFenceGang s
    .ok (c.finish { s with nextOp := s.nextOp + 1 } fun g =>
      let g1 := g.closeBatch s.nextOp
      g1.setS d (BitVec.ofNat 64 g1.work.batchCount))

/-- An open operation of the group reaches its objects. -/
def Ctx.openObject (c : Ctx) (s : State) (op : ObjectOp) : State :=
  let s1 := c.finish { s with nextOp := s.nextOp + 1 } fun g =>
    { g with work := { g.work with openOps := g.work.openOps ++ [s.nextOp] } }
  s1.reachObject c.core { id := s.nextOp, age := c.age, cls := 0, queued := false, op := op }

/-- AZERO: the type changes at issue, the data in tile order. -/
def execAzero (y : Bool) (t : BitVec 5) (s : State) : Host.Outcome State Fault Refusal :=
  run s fun c => do
    need (c.ownsTile s t.toNat) (slotTrap t.toNat)
    .ok (c.openObject (s.onTile c.core t.toNat fun k => { k with i32 := y }) (.azero t.toNat))

/-- ADRAIN.v. -/
def execAdrainV (t : BitVec 5) (b d : BitVec 6) (s : State) : Host.Outcome State Fault Refusal :=
  run s fun c => do
    let w := (c.g.s b).toNat
    let row0 := w % 64
    let rows := w / 2 ^ 8 % 8 + 1
    c.needA
    c.checkTileEcc s t.toNat fun i =>
      decide (768 * row0 ≤ i) && decide (i < 768 * (row0 + rows)) && c.f.lanes.getLsbD (i % 768 / 24)
    need (decide (w / 2 ^ 6 % 4 = 0) && decide (w / 2 ^ 11 = 0) && decide (row0 + rows ≤ 64)) c.illegal
    c.checkRuns [(d.toNat, 6 * rows)]
    need (c.ownsTile s t.toNat) (slotTrap t.toNat)
    .ok (State.reachObject (c.launch (c.finish s id) c.flagA none (.object s.nextOp)) c.core
      { id := s.nextOp, age := c.age, cls := 0, queued := false,
        op := .drainV t.toNat row0 rows (c.g.vKey d.toNat) c.f.lanes })

/-- ADRAIN.o. -/
def execAdrainO (n : BitVec 5) (src : BitVec 6) (f b x : Bool) (s : State) : Host.Outcome State Fault Refusal :=
  run s fun c => do
    let w := (c.g.s src).toNat
    c.checkTileEcc s n.toNat fun _ => true
    need (decide (w < 128)) c.illegal
    need (c.ownsTile s n.toNat) (slotTrap n.toNat)
    need (c.ownsSlot s w) (slotTrap w)
    need (!(s.tile c.core n.toNat).i32) c.illegal
    let s1 := s.onOperand c.core w fun o => { o with ro := none, tag := if b then (if x then 2 else 1) else 0 }
    .ok (c.openObject s1 (.drainO n.toNat w (if f then 1 else 0) b x c.g.sys.fpctl.toNat))

/-! ## Gangs and pairs (R313, R326, R329, R331) -/

/-- The cohort that makes a gang for the group: defined, listing it, a gang list, and a pair or not. -/
def State.gangCohort (s : State) (g : Group) (i : Nat) (pair : Bool) : Option Lane :=
  match s.wgOf g with
  | none => none
  | some w =>
    let e := w.cohort i
    let m := cohortMembers e
    if cohortDefined e && cohortGang e && cohortPair e == pair && hasGroup m g.id.num
        && (!pair || (lanesOf m).length == 2) then some m else none

/-- Join a gang. -/
def gangForm (s : State) (pair : Bool) (i : Nat) : Host.Outcome State Fault Refusal :=
  run s fun c => do
    c.needUser
    match s.gangCohort c.g i pair with
    | none => .error c.illegal
    | some m => do
      c.checkDisturb s
      .ok (c.finish s fun g => { g with sys := { g.sys with gang := { valid := true, pair := pair, cohort := i, members := m } } })

/-- GANGSET cN and GANGSET none. -/
def execGangset (n : BitVec 6) (s : State) : Host.Outcome State Fault Refusal :=
  if n.toNat < 16 then gangForm s false n.toNat
  else run s fun c => do
    c.needUser
    c.checkDisturb s
    .ok (c.finish s fun g => { g with sys := { g.sys with gang := GangReg.none } })

/-- GANGSET.PAIR. -/
def execGangsetPair (n : BitVec 6) (s : State) : Host.Outcome State Fault Refusal := gangForm s true n.toNat

/-- AGUIDE. -/
def execAguide (a : BitVec 6) (s : State) : Host.Outcome State Fault Refusal :=
  run s fun c => .ok (c.finish s fun g => { g with sys := { g.sys with guideW := c.g.s32 a } })

/-- ADRAIN.G. -/
def execAdrainG (t : BitVec 5) (s : State) : Host.Outcome State Fault Refusal :=
  run s fun c => do
    c.needUser
    c.checkTileEcc s t.toNat fun _ => true
    need (c.g.sys.gang.valid && c.g.sys.gang.pair) c.illegal
    need (c.ownsTile s t.toNat) (slotTrap t.toNat)
    need (!(s.tile c.core t.toNat).i32) c.illegal
    c.checkMembers s
    need (s.latchedOf c.g).isNone (.hold .latchBusy)
    .ok (c.latch s true false t.toNat 0 0 0)

/-! ## The latch opens (R314, R315, R327, R332, R333) -/

/-- Insert by ascending GROUP. -/
def insertLatched : List Latched → Latched → List Latched
  | [], l => [l]
  | m :: ms, l => if l.num < m.num then l :: m :: ms else m :: insertLatched ms l

/-- The group of a latched operation still names its pair (R327); a gang that is no pair has no such rule. -/
def State.stands (s : State) (l : Latched) : Bool :=
  !l.pair || match Map.find? s.groups l.age with
    | some g => g.sys.gang.valid && g.sys.gang.pair && g.sys.gang.cohort == l.cohort
    | none => false

/-- The latched operations of a gang in ascending GROUP, once every member has one; those of a pair while it stands. -/
def State.fullLatch (s : State) (core wg cohort : Nat) : Option (List Latched) :=
  let ls := ((s.core core).latch.filter fun l => l.wg == wg && l.cohort == cohort).foldl insertLatched []
  match ls with
  | [] => none
  | l :: _ => if (lanesOf l.members).all fun n => ls.any fun k => k.num == n && k.pair == l.pair && s.stands k then some ls
    else none

/-- GANG for a failed comparison: the lowest GROUP whose operation differs from that of the first member. -/
def differs (ls : List Latched) (word : Nat) (f : Latched → Nat) : Option Trap :=
  match ls with
  | [] => none
  | l :: rest => (rest.find? fun k => f k != f l).map fun k => gangTrap k.num word

/-- The comparison at the latch: the trap that every member takes, if any. -/
def State.latchTrap (s : State) (core : Nat) (ls : List Latched) : Option Trap :=
  match ls with
  | [] => none
  | l :: rest =>
    let pairFirst := if l.pair then
        (differs ls 6 fun k => if k.guided then 1 else 0).or (differs ls 4 (·.batch))
      else none
    if l.guided then pairFirst.or (differs ls 5 (·.weight.toNat))
    else
      let format := (rest.find? fun k => k.fmt != l.fmt).map fun k => formatTrap l.fmt (lowestLane k.lanes) k.num
      let kind := differs ls 2 fun k =>
        (if k.sparse then 1 else 0) + 2 * (k.step.toNat / 2 ^ 8 % 128) + 2 ^ 9 * (k.step.toNat / 2 ^ 24 % 4)
      let w := l.step.toNat
      let axis := (s.badAxisB core l.fmt.toNat (w / 2 ^ 8 % 128) (stepCount w * fwSlots l.fmt.toNat)).map fun i =>
        ({ cause := .scaleAxis, aux := i } : Trap)
      pairFirst.or (format.or (kind.or axis))

/-- The operations of a gang leave the latch and their fragments go on. -/
def State.leaveLatch (s : State) (core : Nat) (ls : List Latched) : State :=
  ls.foldl (fun t l => (t.onCore core fun k => { k with latch := k.latch.filter fun m => m.age != l.age }).onGroup l.age
    fun g => g.completeHeld false l.entry l.pc) s

/-- A full latch opens: a trap for every member, a guided drain on both tiles, or one array operation, which waits for room
in the array queue. -/
def State.openLatch (s : State) (core : Nat) (ls : List Latched) : State :=
  match s.latchTrap core ls with
  | some t => ls.foldl (fun u l => u.trapLatched core l t) s
  | none => match ls with
    | [] => s
    | l :: rest =>
      let cls := ((Map.find? s.groups l.age).map (·.id.cls)).getD 0
      if l.guided then
        match rest with
        | [u] =>
          let op := ObjectOp.guided l.tile u.tile l.weight l.age u.age l.op u.op [l.part, u.part]
          State.reachObject { (s.leaveLatch core ls) with nextOp := s.nextOp + 1 } core
            { id := s.nextOp, age := l.age, cls := cls, queued := false, op := op }
        | _ => s
      else if s.arrayRoom core then
        let w := l.step.toNat
        let op := ObjectOp.mma l.sparse l.fmt (w / 2 ^ 8 % 128) (stepCount w * fwSlots l.fmt.toNat) (stepCount w) 0
          (ls.map (·.part))
        State.reachObject { (s.leaveLatch core ls) with nextOp := s.nextOp + 1 } core
          { id := s.nextOp, age := l.age, cls := cls, queued := true, op := op }
      else s

/-- GANG_LATCH_OPEN (R314). -/
def execGangLatchOpen (wg cohort : Nat) (s : State) : Host.Outcome State Fault Refusal :=
  match Map.find? s.wgs wg with
  | none => .next s
  | some w => match s.fullLatch w.core wg cohort with
    | none => .next s
    | some ls => .next (s.openLatch w.core ls)

/-- ARRAY_QUEUE_ENTRY (R318): room in the array queue lets a held MMA issue, and a full latch open. -/
def execArrayQueueEntry (age entry : Nat) (s : State) : Host.Outcome State Fault Refusal :=
  match Map.find? s.groups age with
  | none => .next s
  | some g =>
    if !s.arrayRoom g.id.core then .next s
    else match s.latchedOf g with
      | some l => match s.fullLatch g.id.core l.wg l.cohort with
        | some ls => .next (if l.entry = entry then s.openLatch g.id.core ls else s)
        | none => .next s
      | none => .next (s.onGroup age fun g => g.onFrag entry fun f =>
          if f.wait = .held ∧ f.hold = .arrayRoom then { f with wait := .ready } else f)

/-- The gangs of a core whose latch is full: workgroup and cohort. -/
def State.fullLatches (s : State) (core : Nat) : List (Nat × Nat) :=
  (((s.core core).latch.map fun l => (l.wg, l.cohort)).eraseDups).filter fun p => match s.fullLatch core p.1 p.2 with
    | some ls => (s.latchTrap core ls).isSome || (ls.any (·.guided)) || s.arrayRoom core
    | none => false

/-- What the array and the object state of a core can do next. -/
def State.objectsDue (s : State) (core : Nat) : List Event :=
  let c := s.core core
  let step := if (s.arrayNext core).isSome then [Event.arrayKStep core] else []
  let drain := if c.aops.any fun e => s.objectReady core e && (match e.op with
      | .guided _ _ _ _ _ _ _ _ => true
      | _ => false) then [Event.guidedDrain core] else []
  let latches := (s.fullLatches core).map fun p => Event.gangLatchOpen p.1 p.2
  step ++ drain ++ latches

/-- What the claims and releases of a group can do next. -/
def State.claimsDue (s : State) (age : Nat) (g : Group) : List Event :=
  g.bank.flatMap fun f => match f.wait, f.hold with
    | .held, .claiming => [.claimZeroingDone age f.entry]
    | .held, .releasing tile left _ =>
      (left.filter fun n => (s.releaseOf g.id.core tile n).any fun r => r.1 == age).map (.objectRelease g.id.core tile ·)
    | _, _ => []

end Sys2Proof.Machine
end

