-- ==== Sys2Proof/Machine/Launch.lean ====
section
/-! DEFINITION. Launch records, cohort tables and queues: majors 0x3C, ports, queue registers, starts, triggers and resets
(R336 to R338, R340 to R348, R349, R351, R387). -/

namespace Sys2Proof.Machine

/-! ## Records (Table 14.1) -/

/-- Field of n bits at a bit of a word of a record. -/
def recField (r : List Word) (w lo n : Nat) : Nat := wordAt r w / 2 ^ lo % 2 ^ n

/-- Thread groups of a workgroup. -/
def recGroups (r : List Word) : Nat := recField r 1 48 5 + 1
/-- Workgroups of the grid. -/
def recTotal (r : List Word) : Nat := recField r 1 0 16 * recField r 1 16 16 * recField r 1 32 16
/-- Registers per lane. -/
def recRegs (r : List Word) : Nat := 32 * (recField r 3 21 4 + 1)
/-- SHARED. -/
def recShared (r : List Word) : Nat := recField r 3 0 21
/-- QUEUE. -/
def recQueue (r : List Word) : Nat := recField r 3 31 10
/-- COHORTS. -/
def recCohorts (r : List Word) : Word := r.getD 4 0
/-- WAITCNT. -/
def recWait (r : List Word) : Nat := recField r 5 0 16
/-- PRIVBASE. -/
def recPrivBase (r : List Word) : Nat := recField r 6 0 48
/-- SESSION. -/
def recSession (r : List Word) : Nat := recField r 7 0 12

/-- Check 7 of Table 14.3 fails. -/
def recordBad (r : List Word) : Bool :=
  recField r 1 53 11 != 0 || recField r 3 41 23 != 0 || recField r 5 27 37 != 0 || recField r 6 0 16 != 0
    || recField r 7 12 20 != 0 || recField r 1 0 16 == 0 || recField r 1 16 16 == 0 || recField r 1 32 16 == 0
    || decide (1048576 < recShared r) || recField r 0 0 1 != 0 || recField r 4 0 7 != 0

/-- A cohort-table entry is malformed, for so many groups (R337). -/
def cohortBad (groups : Nat) (e : Word) : Bool :=
  let m := cohortMembers e
  let n := (lanesOf m).length
  decide (e.toNat / 2 ^ 35 ≠ 0) ||
    (if cohortDefined e then
      decide (2 ^ groups ≤ m.toNat) || n == 0 || (cohortGang e && (decide (n < 2) || decide (6 < n)))
        || (cohortPair e && (n != 2 || !cohortGang e))
    else e != 0)

/-- The cohort table is malformed. -/
def tableBad (groups : Nat) (t : List Word) : Bool :=
  t.any (cohortBad groups) || (List.range 32).any fun g =>
    decide (4 < (t.filter fun e => cohortDefined e && hasGroup (cohortMembers e) g).length)

/-! ## Accepting a launch (R346) -/

/-- A queue takes a launch: its identifier, and the state. -/
def State.acceptLaunch (s : State) (q : Nat) (r cohorts : List Word) : Word × State :=
  let k := s.queue q
  let id : Word := BitVec.ofNat 64 (q * 2 ^ 22 + k.accepted % 2 ^ 22)
  let l : Launch :=
    { id := id, queue := q, ctx := k.ctx, words := r, cohorts := cohorts, next := 0, retired := 0, since := s.mem.writes }
  (id, s.onQueue q fun k => { k with accepted := k.accepted + 1, pending := k.pending ++ [l] })

/-- LNCH and LNCH.try: the checks of Table 14.3 in their order, then the three steps of R346. -/
def launchForm (s : State) (try_ : Bool) (b d : BitVec 6) : Host.Outcome State Fault Refusal :=
  run s fun c => do
    if try_ then .ok () else c.needUser
    c.needA
    let a := c.g.s b
    let rule : AccessRule := { right := .read }
    need (!s.spaceBad c.g rule { lane := 32, addr := a, size := 64 }) (addrTrap .space 32 a)
    need (!s.isRemote a) (addrTrap .remoteDirect 32 a)
    need (decide (a.toNat % 64 = 0)) (addrTrap .misalign 32 a)
    let (l, s1) ← c.readRight s a 64
    let r := wordsOf l
    let q := s.queue (recQueue r)
    need (q.gle && q.ctx == c.ctx) c.priv
    need (!recordBad r) c.illegal
    let k := recCohorts r
    let (t, s2) ← if k = 0 then .ok ([], s1) else do
      need (!s.spaceBad c.g rule { lane := 32, addr := k, size := 128 }) (addrTrap .space 32 k)
      need (!s.isRemote k) (addrTrap .remoteDirect 32 k)
      let (l, s2) ← c.readRight s1 k 128
      need (!tableBad (recGroups r) (wordsOf l)) c.illegal
      .ok (wordsOf l, s2)
    need (!s2.launchBefore c.age (c.opLimit s2)) (.hold (.launch (c.opLimit s2)))
    let s3 := s2.flushNc c.core
    if q.pend < 64 then
      let (id, s4) := s3.acceptLaunch (recQueue r) r t
      .ok (c.launch (c.finish s4 fun g => g) c.flagA none (.result [] [(c.g.sKey d, id)] 0#4))
    else if try_ then .ok (c.launch (c.finish s3 fun g => g) c.flagA none (.result [] [(c.g.sKey d, BitVec.allOnes 64)] 0#4))
    else .error (.hold (.queueRoom (recQueue r)))

/-- LNCH. -/
def execLnch (b d : BitVec 6) (s : State) : Host.Outcome State Fault Refusal := launchForm s false b d

/-- LNCH.try. -/
def execLnchTry (b d : BitVec 6) (s : State) : Host.Outcome State Fault Refusal := launchForm s true b d

/-! ## Triggers (R347) -/

/-- A workgroup every group of which has triggered sends its trigger, once. -/
def State.sendTrigger (s : State) (wg : Nat) : State :=
  match Map.find? s.wgs wg with
  | none => s
  | some w =>
    if w.sent || !(s.members wg).all (fun p => p.2.work.triggered) then s
    else
      let s1 := s.onWg wg fun w => { w with sent := true }
      if w.ten then s1.onQueue w.tq fun q => { q with trig := min (q.trig + 1) (2 ^ 24 - 1) } else s1

/-- A group has triggered. -/
def State.triggerGroup (s : State) (age wg : Nat) : State :=
  (s.onGroup age fun g => { g with work := { g.work with triggered := true } }).sendTrigger wg

/-- TRIG: an ordering point and an eager release at .pkg. -/
def execTrig (s : State) : Host.Outcome State Fault Refusal :=
  run s fun c => do
    c.needUser
    c.releasePoint s false
    .ok ((c.finish (s.eagerRelease c.core c.age) id).triggerGroup c.age c.g.id.wg)

/-! ## Ports (R341) -/

/-- The cohort table of a record submitted through a port, or the code that refuses it (Table 14.3). -/
def State.portTable (s : State) (ctx : Nat) (r : List Word) : Except Nat (List Word × State) :=
  let k := recCohorts r
  if k = 0 then .ok ([], s)
  else if !s.ferryPlace k || !(s.walkRights ctx k).rd then .error 3
  else match s.ferryRead k 128 with
    | .error _ => .error 3
    | .ok (l, s1) => if tableBad (recGroups r) (wordsOf l) then .error 2 else .ok (wordsOf l, s1)

/-- Submit the staged record of a port. -/
def State.submit (s : State) (q : Nat) : State :=
  let k := s.queue q
  let r := wordsOf (Map.getRun 0 k.stage 0 64)
  if recordBad r then s.onQueue q fun k => { k with qerr := 1 }
  else match s.portTable k.ctx r with
    | .error e => s.onQueue q fun k => { k with qerr := e }
    | .ok (t, s1) => (s1.acceptLaunch q r t).2

/-- Write bytes of a port; none while the submitting write has to wait for room. -/
def State.portWrite (s : State) (q off : Nat) (l : List Byte) : Option State :=
  let k := s.queue q
  let submits := decide (off ≤ 63) && decide (63 < off + l.length)
  if k.rbusy then some s
  else if submits && decide (64 ≤ k.pend) then none
  else
    let s1 := s.onQueue q fun k => { k with stage := Map.setRun 0 k.stage off (l.take (64 - off)) }
    some (if submits then s1.submit q else s1)

/-- LAUNCH_PORT_WRITE: a write that cannot be accepted stalls until a launch of the queue starts; it follows the earlier accesses of
its control core (R390). -/
def execLaunchPortWrite (port : CoreWrite) (off size : Nat) (value : BitVec 64) (s : State) : Host.Outcome State Fault Refusal :=
  let e := Event.launchPortWrite port.core port.dest off size value
  let s0 := s.served e
  if s.coreBlocked e port.core then .next (s.keep e)
  else match s0.portWrite port.dest off (valBytes (min size 8) value.toNat) with
  | some s1 => .next s1
  | none => .next (s.keep e)

/-! ## Starting launches (R342, R343) -/

/-- Every workgroup of a launch has been placed. -/
def Launch.placed (l : Launch) : Bool := decide (recTotal l.words ≤ l.next)

/-- The head launch of a queue may start. -/
def Queue.mayStart (q : Queue) : Bool :=
  q.en && !q.rbusy && match q.pending with
    | [] => false
    | l :: _ =>
      let w := recWait l.words
      if w = 0 then q.started.isEmpty else q.started.all (·.placed) && decide (w ≤ q.trig)

/-- LAUNCH_START: the head launch starts; its triggers are consumed. -/
def execLaunchStart (q : Nat) (s : State) : Host.Outcome State Fault Refusal :=
  let k := s.queue q
  match k.pending with
  | [] => .next s
  | l :: rest =>
    if !k.mayStart then .next s
    else
      let s1 := s.onQueue q fun k => { k with pending := rest, started := k.started ++ [l], trig := k.trig - recWait l.words }
      .next (s1.traceRecord (recSession l.words) false 0 0 0xFFFF 1
        (BitVec.ofNat 64 (l.id.toNat % 2 ^ 32 + recField l.words 7 32 32 * 2 ^ 32)))

/-! ## Queue registers (Tables 14.5 to 14.8) -/

/-- A register's new bits: those under the mask from a write, the others as they stand. -/
def mergeBits (old v mask : Nat) : Nat :=
  ((BitVec.ofNat 64 old &&& ~~~(BitVec.ofNat 64 mask)) ||| (BitVec.ofNat 64 v &&& BitVec.ofNat 64 mask)).toNat

/-- QCTL as it reads. -/
def Queue.qctl (q : Queue) : Nat :=
  q.ctx % 4096 * 2 ^ 40 + q.weight % 256 * 2 ^ 32 + q.retry % 16 * 2 ^ 28 + q.prio % 16 * 2 ^ 24
    + (if q.rbusy then 8 else 0) + (if q.gle then 2 else 0) + (if q.en then 1 else 0)

/-- QRES as it reads. -/
def Queue.qres (q : Queue) : Nat := q.rf % 256 * 256 + q.rh % 256

/-- QSTAT as it reads. -/
def Queue.qstat (q : Queue) : Nat :=
  q.done % 2 ^ 32 * 2 ^ 32 + q.trig % 2 ^ 24 * 2 ^ 8 + (if q.rerr then 128 else 0) + q.pend % 128

/-- Write QRES: refused whole where a sum would pass 224 (R351). -/
def State.writeQres (s : State) (q v mask : Nat) : State :=
  let new := mergeBits (s.queue q).qres v mask
  let rh := new % 256
  let rf := new / 256 % 256
  let others := s.queues.filter fun p => p.1 != q
  if 224 < rh + (others.map fun p => p.2.rh).sum ∨ 224 < rf + (others.map fun p => p.2.rf).sum then
    s.onQueue q fun k => { k with rerr := true }
  else s.onQueue q fun k => { k with rh := rh, rf := rf }

/-- QRES_WRITE (R351). -/
def execQresWrite (q : Nat) (value : BitVec 64) (s : State) : Host.Outcome State Fault Refusal :=
  .next (s.writeQres q value.toNat (2 ^ 64 - 1))

/-- Set a queue's priority level (R349, R352). -/
def State.setLevel (s : State) (q level : Nat) : State := s.onQueue q fun k => { k with prio := level % 16 }

/-- PRIO (R352). -/
def execPrio (b a : BitVec 6) (s : State) : Host.Outcome State Fault Refusal :=
  run s fun c => do
    c.needTrapMode
    need (decide ((c.g.s a).toNat < 1024) && decide ((c.g.s b).toNat ≤ 15)) c.illegal
    .ok (c.finish (s.setLevel (c.g.s a).toNat (c.g.s b).toNat) id)

/-! ## Reset of a queue (R345, R387) -/

/-- The groups of a queue's started launches. -/
def State.queueGroups (s : State) (q : Nat) : List (Nat × Group) := s.groups.filter fun p => p.2.id.queue == q

/-- Remove every trace of a group from its core and from the package's queues of work. -/
def State.removeGroup (s : State) (age : Nat) : State :=
  match Map.find? s.groups age with
  | none => s
  | some g =>
    let core := g.id.core
    let drop := fun (n : Nat) (tile : Bool) (t : State) => if t.ownerOf core tile n = some age then t.freeObject core tile n else t
    let s1 := s.onCore core fun c =>
      { c with aops := c.aops.filter fun e => e.age != age, latch := c.latch.filter fun l => l.age != age,
               grow := c.grow.filter fun r => r.age != age,
               running := if c.aops.any fun e => e.age == age && c.running == some e.id then none else c.running }
    let s2 := (List.range 128).foldl (fun t n => drop n false t) s1
    let s3 := (List.range 32).foldl (fun t n => drop n true t) s2
    let dbg := if s3.dbg.resuming = some age then { s3.dbg with resuming := none } else s3.dbg
    { s3 with dbg := dbg,
              groups := Map.erase s3.groups age, pend := s3.pend.filter fun p => p.age != age,
              landing := s3.landing.filter fun r => r.age != age, parks := s3.parks.filter fun p => p.age != age,
              remote := s3.remote.filter fun r => r.age != age, arrivers := s3.arrivers.filter fun e => e.2.1 != age,
              issuing := s3.issuing.filter fun e => e.1 != age }

/-- Close the trace sessions of launches: one record of kind 11 in each open one, and STATUS 2. -/
def State.closeSessions (s : State) (q cause : Nat) (sessions : List Nat) : State :=
  if s.dbg.trBase = 0 then s
  else sessions.eraseDups.foldl (fun t n =>
    if n = 0 then t
    else match t.tensorRead (t.sessionOff n + 16) 4 with
      | some (1, t1) =>
        (t1.traceRecord n true 0 0 0xFFFF 11 (BitVec.ofNat 64 (q % 1024 + cause * 2 ^ 16))).tensorWrite (t1.sessionOff n + 16) 4 2
      | _ => t) s

/-- Begin a reset of a queue: its launches end, with all that they hold.  `cause` is that of Table 15.11. -/
def State.resetQueue (s : State) (q cause : Nat) : State :=
  let k := s.queue q
  let gs := s.queueGroups q
  let ages := gs.map (·.1)
  let sessions := (k.pending ++ k.started).map fun l => recSession l.words
  let s1 := (s.wherry.filter fun w => ages.contains w.age && w.active).foldl (fun t w => t.cancelWherry w) s
  let gone := s1.ferry.filter fun c => ages.contains c.age
  let s2 := gone.foldl (fun t c => t.tellFailure c 11) { s1 with ferry := s1.ferry.filter fun c => !ages.contains c.age }
  let s3 := State.pumpRemote (ages.foldl (fun t a => t.removeGroup a) s2)
  let s4 : State := { s3 with wgs := s3.wgs.filter fun p => p.2.queue != q, wherry := s3.wherry.filter fun w => !ages.contains w.age }
  (s4.onQueue q fun k =>
    { k with rbusy := true, trig := 0, qerr := 0, done := (k.done + k.pending.length + k.started.length) % 2 ^ 32,
             pending := [], started := [] }).closeSessions q cause sessions

/-- QUEUE_RESET (R345): a write of RESET. -/
def execQueueReset (q : Nat) (s : State) : Host.Outcome State Fault Refusal := .next (s.resetQueue q 1)

/-- QUEUE_RESET_COMPLETE (R345, R392): RBUSY falls. -/
def execQueueResetComplete (q : Nat) (s : State) : Host.Outcome State Fault Refusal :=
  if (s.queue q).rbusy then .next ((s.onQueue q fun k => { k with rbusy := false }).signal 4) else .next s

/-- Write QCTL; that a queue has been enabled stays known (R401). -/
def State.writeQctl (s : State) (q v mask : Nat) : State :=
  let new := mergeBits (s.queue q).qctl v mask
  let s1 := s.onQueue q fun k =>
    { k with ctx := new / 2 ^ 40 % 4096, weight := new / 2 ^ 32 % 256, retry := new / 2 ^ 28 % 16, prio := new / 2 ^ 24 % 16,
             gle := decide (new / 2 % 2 = 1), en := decide (new % 2 = 1) }
  let s2 : State := { s1 with boot := { s1.boot with queued := s1.boot.queued || decide (new % 2 = 1) } }
  if (v % 2 ^ 64).testBit 2 && mask.testBit 2 then s2.resetQueue q 1 else s2

/-- Write one of QCTL, QRES and QSTAT. -/
def State.writeQueue (s : State) (q off v mask : Nat) : State :=
  match off with
  | 0x40 => s.writeQctl q v mask
  | 0x48 => s.writeQres q v mask
  | 0x50 => if v.testBit 7 && mask.testBit 7 then s.onQueue q fun k => { k with rerr := false } else s
  | _ => s

/-- Read a register of a queue block; ports read zero (WO). -/
def State.readQueue (s : State) (q off : Nat) : Nat :=
  match off with
  | 0x40 => (s.queue q).qctl
  | 0x48 => (s.queue q).qres
  | 0x50 => (s.queue q).qstat
  | 0x58 => (s.queue q).qerr % 256
  | _ => 0

/-- What a queue can do next. -/
def State.queueDue (_ : State) (q : Nat) (k : Queue) : List Event :=
  (if k.mayStart then [.launchStart q] else []) ++ (if k.rbusy then [.queueResetComplete q] else [])

end Sys2Proof.Machine
end

