-- ==== Sys2Proof/Machine/Placement.lean ====
section
/-! DEFINITION. Placing workgroups, partial eviction, register growth and cohort queries (R91, R339, R343, R349, R353 to R361,
R374). -/

namespace Sys2Proof.Machine

/-! ## Resources of a core (R354) -/

/-- Logical cores of the package. -/
def coreCount : Nat := 384

/-- Group slots, register blocks, shared-memory bytes and cohort-table entries: what is needed of a core, or free on it. -/
structure Needs where
  slots : Nat
  blocks : Nat
  shared : Nat
  cohorts : Nat
  deriving DecidableEq, Repr

/-- The needs fit into what is free. -/
def Needs.within (n free : Needs) : Bool :=
  decide (n.slots ≤ free.slots) && decide (n.blocks ≤ free.blocks) && decide (n.shared ≤ free.shared)
    && decide (n.cohorts ≤ free.cohorts)

/-- Shared memory in whole 4 KiB. -/
def sharedSpace (n : Nat) : Nat := (n + 4095) / 4096 * 4096

/-- Defined entries of a cohort table. -/
def definedEntries (t : List Word) : Nat := (t.filter cohortDefined).length

/-- Register blocks of a group. -/
def Group.blocks (g : Group) : Nat := g.regs.alloc / 32

/-- What is free on a core once the groups of `gone` have left it.  Shared memory and cohort entries of a workgroup whose
every group is evicted can be had (R355). -/
def State.freeOn (s : State) (core : Nat) (gone : List Nat) : Needs :=
  let gs := (s.coreGroups core).filter fun p => !gone.contains p.1
  let ws := s.wgs.filter fun p => p.2.core == core && !p.2.saved && gs.any fun q => q.2.id.wg == p.1
  { slots := 64 - gs.length, blocks := 512 - (gs.map fun p => p.2.blocks).sum,
    shared := 1048576 - (ws.map fun p => sharedSpace p.2.shSize).sum,
    cohorts := 256 - (ws.map fun p => definedEntries p.2.cohorts).sum }

/-! ## Split-table entries of a core (R90, R91) -/

/-- How many fragments the groups of each sub-core have, once the groups of `gone` have left. -/
def State.entryLoads (s : State) (core : Nat) (gone : List Nat) : List (List Nat) :=
  (List.range 4).map fun k => ((s.subGroups core k).filter fun p => !gone.contains p.1).map fun p => p.2.flow.frags.length

/-- A group of n fragments joins the sub-core with the fewest groups, the lowest of several (R354). -/
def joinSub (ls : List (List Nat)) (n : Nat) : List (List Nat) :=
  let best := ls.foldl (fun m l => min m l.length) 16
  let k := ls.findIdx fun l => l.length == best
  ((List.range ls.length).zip ls).map fun p => if p.1 = k then p.2 ++ [n] else p.2

/-- The entries that groups hold beyond their entitlements of 8 fit into the pool. -/
def poolHolds (l : List Nat) : Bool := decide ((l.map fun n => n - 8).sum + 8 * l.length ≤ 128)

/-- The fragments of new groups find entries on a core (log 101). -/
def State.entriesFit (s : State) (core : Nat) (gone new : List Nat) : Bool :=
  let ls := s.entryLoads core gone
  if (ls.all fun l => l.all fun n => decide (n ≤ 8)) && new.all fun n => decide (n ≤ 8) then true
  else (new.foldl joinSub ls).all poolHolds

/-- The blocks that groups were evicted for belong to the oldest RGROW of the core until it is granted (R359). -/
def State.growClosed (s : State) (core : Nat) : Bool := (s.core core).grow.head?.any (·.pressed)

/-- A core has room for new groups of so many fragments each, once the groups of `gone` have left. -/
def State.roomOn (s : State) (n : Needs) (core : Nat) (gone new : List Nat) : Bool :=
  n.within (s.freeOn core gone) && !s.growClosed core && s.entriesFit core gone new

/-- What a workgroup of a launch needs. -/
def Launch.needs (l : Launch) : Needs :=
  { slots := recGroups l.words, blocks := recGroups l.words * (recRegs l.words / 32), shared := sharedSpace (recShared l.words),
    cohorts := definedEntries l.cohorts }

/-- A core has room for the next workgroup of a launch. -/
def State.launchRoom (s : State) (l : Launch) (core : Nat) (gone : List Nat) : Bool :=
  s.roomOn l.needs core gone (List.replicate (recGroups l.words) 1)

/-- The core with the most free register blocks among those that a test admits, then the lowest. -/
def State.bestCore (s : State) (fits : Nat → Bool) : Option Nat :=
  ((List.range coreCount).foldl (fun (best : Option (Nat × Nat)) k =>
    if !fits k then best
    else
      let b := (s.freeOn k []).blocks
      match best with
      | none => some (k, b)
      | some (j, a) => if a < b then some (k, b) else some (j, a)) none).map (·.1)

/-! ## Partial eviction (R355) -/

/-- Groups that are evicted together: a gang whole, or one group (R317). -/
structure EvictUnit where
  ages : List Nat
  prio : Nat
  age : Nat
  deriving DecidableEq, Repr

/-- The groups of a core that leave or return with a group. -/
def State.gangOf (s : State) (g : Group) : List (Nat × Group) :=
  s.groups.filter fun p => p.1 == g.id.age || (g.sys.gang.valid && p.2.id.wg == g.id.wg && p.2.sys.gang.valid
    && p.2.sys.gang.cohort == g.sys.gang.cohort && p.2.sys.gang.pair == g.sys.gang.pair)

/-- The unit of a group: as old as its oldest member, and of its highest effective priority. -/
def State.unitOf (s : State) (ps : Cells Nat) (g : Group) : EvictUnit :=
  let ages := (s.gangOf g).map (·.1)
  { ages := ages, prio := ages.foldl (fun m a => max m (Map.get 0 ps a)) 0, age := ages.headD g.id.age }

/-- The first is evicted before the second. -/
def EvictUnit.before (a b : EvictUnit) : Bool := decide (a.prio < b.prio) || (a.prio == b.prio && decide (b.age < a.age))

/-- Put a unit into its place in the order of eviction. -/
def insertUnit : List EvictUnit → EvictUnit → List EvictUnit
  | [], u => [u]
  | v :: l, u => if u.before v then u :: v :: l else v :: insertUnit l u

/-- The groups of a core that are being saved. -/
def State.leaving (s : State) (core : Nat) : List Nat :=
  ((s.coreGroups core).filter fun p => decide (p.2.id.saving ≠ 0) && decide (p.2.id.saving ≠ 5)).map (·.1)

/-- The units of a core that a newcomer may evict, in the order of eviction: those wholly of groups that a test admits. -/
def State.evictable (s : State) (ps : Cells Nat) (core : Nat) (may : Group → Bool) : List EvictUnit :=
  ((s.coreGroups core).foldl (fun (us : List EvictUnit) p =>
    let u := s.unitOf ps p.2
    if u.age = p.1 ∧ ((s.gangOf p.2).all fun q => q.2.id.saving == 0 && q.2.id.resident && may q.2) = true then insertUnit us u
    else us) [])

/-- Evict units in order until a test says that enough is free. -/
def evictUntil (fits : List Nat → Bool) : List EvictUnit → List Nat → Option (List Nat)
  | [], gone => if fits gone then some gone else none
  | u :: us, gone => if fits gone then some gone else evictUntil fits us (gone ++ u.ages)

/-! ## The save store (R374, R402) -/

/-- The keys of an object's words. -/
def objectKeys (core : Nat) (tile : Bool) (n : Nat) (k : Nat) : Bool :=
  if tile then decide (poisonTile core (49152 * n) ≤ k) && decide (k < poisonTile core (49152 * (n + 1)))
  else decide (poisonSlot core (16384 * n) ≤ k) && decide (k < poisonSlot core (16384 * (n + 1)))

/-- The groups whose objects an operation names. -/
def ObjectEntry.ages (e : ObjectEntry) : List Nat :=
  match e.op with
  | .mma _ _ _ _ _ _ parts => parts.map (·.age)
  | .guided _ _ _ ageC ageU _ _ _ => [ageC, ageU]
  | _ => [e.age]

/-- An array operation, which travels in the image. -/
def ObjectEntry.isArray (e : ObjectEntry) : Bool :=
  match e.op with
  | .mma _ _ _ _ _ _ _ | .guided _ _ _ _ _ _ _ _ => true
  | _ => false

/-- What the image of a group holds of its core. -/
def State.imageOf (s : State) (age : Nat) (g : Group) (reason : Nat) : Saved :=
  let core := g.id.core
  let c := s.core core
  let slots := c.slots.filter fun p => p.2.owner == some age
  let tiles := c.tiles.filter fun p => p.2.owner == some age
  { reason := reason, tiles := tiles, slots := slots,
    poison := (s.mem.poison.filter fun k =>
      (slots.any fun p => objectKeys core false p.1 k) || tiles.any fun p => objectKeys core true p.1 k).map
        fun k => k - core * 2 ^ 24,
    aops := c.aops.filter fun e => e.age == age,
    shares := c.aops.filter fun e => e.age != age && e.isArray && e.ages.contains age,
    latched := c.latch.find? fun l => l.age == age,
    places := (g.flow.frags.map (·.entry)).zip (List.range g.flow.frags.length), blanks := [],
    rets := g.flow.ret.reverse ++ List.replicate (16 - g.flow.ret.length) { addr := 0, lanes := 0 },
    prio := s.effPrio age, age := age, dir := [], types := [] }

/-- Bytes of the save store, which the configuration record sets (R402). -/
def State.saveStore (s : State) : Nat := bytesVal ((s.boot.record.drop 3832).take 8)

/-- Bytes that an instruction in flight takes of section 9, as a parked load where it may become one. -/
def State.pendBytes (s : State) (p : Pend) : Nat :=
  match p.kind with
  | .load _ => 576
  | .xrecv _ _ _ _ _ => 64
  | .xat subs => 64 * ((s.remote.filter fun r => subs.contains r.id).map fun r => r.lines.length).sum
  | .result _ _ _ | .object _ | .wstat _ _ | .flush _ _ _ _ => 0

/-- The bytes that the image of a group takes: the header and the sections, each aligned to 128 (Tables 15.5 and 15.6). -/
def State.imageSize (s : State) (age : Nat) (g : Group) : Nat :=
  let i := g.saved.getD (s.imageOf age g 0)
  let ops := (s.pend.filter fun p => p.age == age).map s.pendBytes
  let arrays := (i.aops ++ i.shares).filter (·.isArray)
  let slots := i.slots.map fun p => if p.2.ro.isSome then 64 else 64 + 16384
  [464, 576, 200, 1280, 256, 132 * g.regs.alloc, 1056, 832 * (s.landing.filter fun r => r.age == age).length,
   64 * (g.work.failedRemote.length + g.work.failedEngine.length), ops.sum + 64 * arrays.length + 64 * i.latched.toList.length,
   49216 * i.tiles.length, slots.sum].foldl (fun n k => (n + k + 127) / 128 * 128) 256

/-- Bytes for the image of a workgroup: its shared memory, and a page for the rest, whose layout is not stated (log 42). -/
def Workgroup.imageSize (w : Workgroup) : Nat := sharedSpace w.shSize + 4096

/-- The save store has room for the images of groups beside those of the groups that are saved or being saved; the image of a
workgroup is counted with the first of its groups. -/
def State.storeRoom (s : State) (ages : List Nat) : Bool :=
  let there := s.groups.filter fun p => ages.contains p.1 || p.2.saved.isSome || (p.2.id.saving != 0 && p.2.id.saving != 5)
  let wgs := s.wgs.filter fun w => there.any fun p => p.2.id.wg == w.1
  decide ((there.map fun p => s.imageSize p.1 p.2).sum + (wgs.map fun w => w.2.imageSize).sum ≤ s.saveStore)

/-- The groups that partial eviction would save for a newcomer on a core, beside those that leave already; none where the save
store has no room for them. -/
def State.plan (s : State) (ps : Cells Nat) (core : Nat) (fits : List Nat → Bool) (may : Group → Bool) : Option (List Nat) :=
  let left := s.leaving core
  match (evictUntil fits (s.evictable ps core may) left).map fun l => l.filter fun a => !left.contains a with
  | some l => if l.isEmpty || s.storeRoom l then some l else none
  | none => none

/-- The core where partial eviction frees enough with the fewest evictions, then with the lowest highest effective
priority, then the lowest; and whom it evicts there. -/
def State.bestPlan (s : State) (ps : Cells Nat) (fits : Nat → List Nat → Bool) (may : Group → Bool) : Option (Nat × List Nat) :=
  (List.range coreCount).foldl (fun (best : Option (Nat × List Nat)) k =>
    match s.plan ps k (fits k) may with
    | none => best
    | some l => match best with
      | none => some (k, l)
      | some (j, m) =>
        let top := fun (ages : List Nat) => ages.foldl (fun p a => max p (Map.get 0 ps a)) 0
        if l.length < m.length ∨ (l.length = m.length ∧ top l < top m) then some (k, l) else some (j, m)) none

/-- Groups begin to be saved: they stop (R368, R374). -/
def State.beginSave (s : State) (ages : List Nat) (reason : Nat) : State :=
  ages.foldl (fun t a => (t.stopIssue a).onGroup a fun g => { g with id := { g.id with saving := reason } }) s

/-- Save the workgroups of a core whose every group is evicted, in turn, until what is needed beside the others is free
(R355).  The core writes its dirty bytes back, and their release entries end. -/
def State.reclaim (s : State) (core : Nat) (n : Needs) : State :=
  s.wgs.foldl (fun t p =>
    let held := t.wgs.filter fun q => q.2.core == core && !q.2.saved
    let enough := decide ((held.map fun q => sharedSpace q.2.shSize).sum + n.shared ≤ 1048576)
      && decide ((held.map fun q => definedEntries q.2.cohorts).sum + n.cohorts ≤ 256)
    if enough || p.2.core != core || p.2.saved || (t.members p.1).any (fun q => q.2.id.resident) then t
    else
      let t1 := (t.l1Writeback core fun _ _ => true).onWg p.1 fun w => { w with saved := true }
      (t1.members p.1).foldl (fun u q => u.onGroup q.1 fun g => { g with work := { g.work with markEntry := none } }) t1) s

/-! ## Placement (R354) -/

/-- The sub-core of a core with the most free group slots, then the lowest. -/
def State.bestSub (s : State) (core : Nat) : Nat :=
  ((List.range 4).foldl (fun (best : Nat × Nat) k =>
    let n := (s.subGroups core k).length
    if n < best.2 then (k, n) else best) (0, (s.subGroups core 0).length)).1

/-- The slot that a group takes on a sub-core: the lowest free one. -/
def State.freeSlot (s : State) (core sub : Nat) : Nat :=
  lowestFree ((s.subGroups core sub).map fun p => p.2.id.slot) 16 (16 * sub)

/-- RSBASE at launch (Table 15.2). -/
def launchRsBase (r : List Word) (wg num : Nat) : Word :=
  let off := recPrivBase r + 4096 * (recGroups r * wg + num)
  if 2 ^ 48 < off + 4096 then 0 else BitVec.ofNat 64 (2 ^ 63 + off)

/-- Coordinates of a workgroup as s1 gives them. -/
def launchCoords (r : List Word) (index : Nat) : Word :=
  let x := recField r 1 0 16
  let y := recField r 1 16 16
  BitVec.ofNat 64 (index % x + index / x % y * 2 ^ 16 + index / x / y % 2 ^ 16 * 2 ^ 32)

/-- Create group `num` of a workgroup (R339). -/
def State.createGroup (s : State) (l : Launch) (w : Workgroup) (trapVec : Word) (num : Nat) : State :=
  let r := l.words
  let sub := s.bestSub w.core
  let entries := (s.subGroups w.core sub).flatMap fun p => p.2.flow.frags.map (·.entry)
  let id : Ident := { age := s.nextAge, launch := l.id, wg := w.id, wgIndex := w.index, num := num, ctx := l.ctx,
                      queue := l.queue, core := w.core, slot := s.freeSlot w.core sub, cls := w.cls, resident := true,
                      saving := 0, halted := false, dbl := false }
  let start : GroupStart := { entry := r.getD 0 0, args := r.getD 2 0, coords := launchCoords r w.index, alloc := recRegs r,
                              privHwm := BitVec.ofNat 64 (recPrivBase r + 65536 * recField r 6 48 16),
                              rsBase := launchRsBase r w.index num, trapVec := trapVec }
  { s with groups := Map.insert s.groups s.nextAge (Group.create id start (lowestFree entries 128 0) s.issueClock),
           nextAge := s.nextAge + 1 }

/-- The next workgroup of a launch, on a core. -/
def Launch.workgroup (l : Launch) (id core : Nat) : Workgroup :=
  { id := id, launch := l.id, queue := l.queue, ctx := l.ctx, index := l.next, core := core, groups := recGroups l.words,
    shSize := recShared l.words, cls := recField l.words 3 25 2, prio := recField l.words 3 27 4,
    ten := recField l.words 5 26 1 == 1, tq := recField l.words 5 16 10, session := recSession l.words, cohorts := l.cohorts,
    hasTable := recCohorts l.words != 0, shared := [], barriers := [], latches := [], slots := [], exited := 0, sent := false,
    saved := false }

/-- Place the next workgroup of a launch on a core that has room: its groups in ascending GROUP, and the acquire of its
start (R343). -/
def State.placeOn (s : State) (core : Nat) (l : Launch) : State :=
  let w := l.workgroup s.nextAge core
  let vec := BitVec.ofNat 64 ((s.controlRead (s.dbg.tvtBase.toNat + 8 * l.ctx) 8).getD 0)
  let s1 := s.reclaim core l.needs
  let s2 : State := { s1 with wgs := Map.insert s1.wgs w.id w }
  let s3 := (List.range w.groups).foldl (fun t n => t.createGroup l w vec n) s2
  (s3.acquire core 4).traceRecord w.session false 0 0 0xFFFF 2 (BitVec.ofNat 64 w.index)

/-- The launch of a queue that offers workgroups. -/
def Queue.offers (q : Queue) : Option Launch := q.started.find? fun l => !l.placed

/-- Base priority of a launch's workgroups (R349). -/
def State.launchPrio (s : State) (l : Launch) : Nat := min (recField l.words 3 27 4) (s.queue l.queue).prio

/-- The core on which a launch's next workgroup can be placed now. -/
def State.placeable (s : State) (l : Launch) : Option Nat := s.bestCore fun k => s.launchRoom l k []

/-- The partial eviction that would make room for it. -/
def State.placePlan (s : State) (l : Launch) : Option (Nat × List Nat) :=
  let ps := s.priorities
  s.bestPlan ps (fun k gone => s.launchRoom l k gone) fun g => decide (Map.get 0 ps g.id.age < s.launchPrio l)

/-- The launch can be placed, or partial eviction can make room for it or does so already. -/
def State.canPlace (s : State) (l : Launch) : Bool := (s.placeable l).isSome || (s.placePlan l).isSome

/-- The core that a launch takes, or on which room is made for it. -/
def State.placeCore (s : State) (l : Launch) : Option Nat :=
  match s.placeable l with
  | some k => some k
  | none => (s.placePlan l).map (·.1)

/-- A launch of a base priority above `prio` takes a core: what is freed there is not for an evicted group (R354, R356). -/
def State.wanted (s : State) (core prio : Nat) : Bool :=
  s.queues.any fun p => !p.2.rbusy && match p.2.offers with
    | some l => decide (prio < s.launchPrio l) && s.placeCore l == some core
    | none => false

/-- The next step of a launch is not merely to wait for groups that are being saved. -/
def State.placeActs (s : State) (q : Nat) : Bool :=
  match (s.queue q).offers with
  | none => false
  | some l => (s.placeable l).isSome || match s.placePlan l with
    | some (_, _ :: _) => true
    | _ => false

/-- The queue has used up its share of a round. -/
def Queue.spent (q : Queue) : Bool := decide (max 1 q.weight ≤ q.placed)

/-- The queue offers a workgroup of a base priority. -/
def State.offersAt (s : State) (level : Nat) (q : Queue) : Bool := !q.rbusy && match q.offers with
  | some l => s.launchPrio l == level
  | none => false

/-- The queues that can place a workgroup of a base priority. -/
def State.placers (s : State) (level : Nat) : List Nat :=
  (s.queues.filter fun p => s.offersAt level p.2 && match p.2.offers with
    | some l => s.canPlace l
    | none => false).map (·.1)

/-- A new round of a level begins once every queue of it that can place has used up its share. -/
def State.newRound (s : State) (level : Nat) : State :=
  if (s.placers level).all fun q => (s.queue q).spent then
    { s with queues := s.queues.map fun (q, k) => (q, if s.offersAt level k then { k with placed := 0 } else k) }
  else s

/-- WORKGROUP_PLACE (R354): the next workgroup of the queue is placed, or groups begin to be evicted for it, or it waits. -/
def execWorkgroupPlace (q : Nat) (s : State) : Host.Outcome State Fault Refusal :=
  match (s.queue q).offers with
  | none => .next s
  | some l => match s.placeable l with
    | some core =>
      .next (((s.newRound (s.launchPrio l)).placeOn core l).onQueue q fun k =>
        { k with placed := k.placed + 1, started := k.started.map fun m => if m.id = l.id then { m with next := m.next + 1 } else m })
    | none => match s.placePlan l with
      | some (_, ages) => .next (s.beginSave ages 1)
      | none => .next s

/-- The queues that may place next: those that offer a workgroup of the highest base priority that can be placed, or for which
room is being made, within their shares (R349). -/
def State.placeDue (s : State) : List Event :=
  match (List.range 16).reverse.find? fun level => !(s.placers level).isEmpty with
  | none => []
  | some level =>
    let qs := s.placers level
    let open_ := qs.filter fun q => !(s.queue q).spent
    ((if open_.isEmpty then qs else open_).filter s.placeActs).map fun q => .workgroupPlace q

/-! ## Split-table entries (R91) -/

/-- A fragment of a group has been held for an entry for 272 cycles. -/
def State.starved (s : State) (g : Group) : Bool :=
  g.flow.frags.any fun f => f.wait == .splitHold && decide (f.pausedUntil + 272 ≤ s.cycleOf g.id.core)

/-- Whom the sub-core evicts for a starved group: of the others that hold more than 8 entries, else of all others, the one of
lowest effective priority, then the youngest, a member of a gang being as old as the gang (R353), with its gang; nobody while a group of
the sub-core is already being saved or restored (log 129). -/
def State.splitVictims (s : State) (core sub : Nat) : List Nat :=
  let gs := s.subGroups core sub
  match gs.find? fun p => s.starved p.2 with
  | none => []
  | some (age, _) =>
    if gs.any fun p => p.2.id.saving != 0 then []
    else
      let ps := s.priorities
      let others := gs.filter fun p => p.1 != age
      let many := others.filter fun p => decide (8 < p.2.flow.frags.length)
      let us := (if many.isEmpty then others else many).foldl (fun us p =>
        insertUnit us { s.unitOf ps p.2 with prio := Map.get 0 ps p.1 }) []
      match us with
      | [] => []
      | u :: _ => if s.storeRoom u.ages then u.ages else []

/-- SPLIT_ENTRY_HOLD_EVICT (R91): for a starved group, one group of the sub-core begins to be evicted. -/
def execSplitEntryHoldEvict (core sub : Nat) (s : State) : Host.Outcome State Fault Refusal :=
  .next (s.beginSave (s.splitVictims core sub) 1)

/-! ## Register growth (R357 to R360) -/

/-- RGROW. -/
def execRgrow (a : BitVec 6) (s : State) : Host.Outcome State Fault Refusal :=
  run s fun c => do
    c.needUser
    let k := (c.g.s a).toNat
    need (decide (k % 32 = 0)) c.illegal
    need (decide (c.g.regs.alloc + k ≤ 512)) (.trap { cause := .rgrowExceeds, word := c.g.s a })
    if k = 0 then .ok (c.finish s id)
    else
      let r : GrowReq := { age := c.age, entry := c.entry, pc := c.pc, count := k }
      .ok (((c.heldState s .rgrow).onGroup c.age Group.countIssue).onCore c.core fun d => { d with grow := d.grow ++ [r] })

/-- The group without the registers at and above a bound, which read zero. -/
def Group.cutRegs (g : Group) (n : Nat) : Group :=
  { g with regs := { g.regs with v := g.regs.v.filter fun p => decide (p.1 < 32 * n),
                                 poison := g.regs.poison.filter fun k => decide (k < 32 * n) || decide (32 * 512 ≤ k) } }

/-- The oldest request of a core can be granted. -/
def State.growReady (s : State) (core : Nat) : Bool :=
  match (s.core core).grow with
  | [] => false
  | r :: _ => decide (r.count / 32 ≤ (s.freeOn core []).blocks)

/-- RGROW_GRANT (R358): the oldest request of a core, once its blocks are free. -/
def execRgrowGrant (core : Nat) (s : State) : Host.Outcome State Fault Refusal :=
  match (s.core core).grow with
  | [] => .next s
  | r :: rest =>
    if !s.growReady core then .next s
    else
      let s1 := s.onCore core fun c => { c with grow := rest }
      .next (s1.onGroup r.age fun g =>
        let g1 := g.cutRegs g.regs.alloc
        Group.completeHeld { g1 with regs := { g1.regs with alloc := g1.regs.alloc + r.count } } false r.entry r.pc)

/-- The scheduler has to evict for the oldest request of a core: once it has begun to, it repeats until the request is granted (R359). -/
def State.growStalled (s : State) (core : Nat) : Bool :=
  let c := s.core core
  !c.grow.isEmpty && !s.growReady core && (s.leaving core).isEmpty
    && (s.growClosed core || decide (4096 ≤ c.idle) || (s.coreGroups core).all fun p => c.grow.any fun r => r.age == p.1)

/-- The youngest of units. -/
def youngest : List EvictUnit → Option EvictUnit
  | [] => none
  | u :: l => match youngest l with
    | none => some u
    | some v => some (if u.age < v.age then v else u)

/-- Whom the scheduler evicts for the oldest request of a core: the youngest resident group outside the requester's gang, with
its own gang, which is as old as its oldest member (R353). -/
def State.growVictims (s : State) (core : Nat) : List Nat :=
  match (s.core core).grow with
  | [] => []
  | r :: _ =>
    if !s.growStalled core then []
    else
      let own : List Nat := match Map.find? s.groups r.age with
        | some g => (s.gangOf g).map (·.1)
        | none => []
      let units := ((s.coreGroups core).filter fun p => !own.contains p.1 && p.2.id.saving == 0).map fun p => s.unitOf [] p.2
      match youngest units with
      | some u => if s.storeRoom u.ages then u.ages else []
      | none => []

/-- The oldest request of a core is one for which groups are evicted. -/
def pressFirst : List GrowReq → List GrowReq
  | [] => []
  | r :: l => { r with pressed := true } :: l

/-- RGROW_STALL_EVICT (R359): the youngest resident group outside the requester's gang begins to be evicted. -/
def execRgrowStallEvict (core : Nat) (s : State) : Host.Outcome State Fault Refusal :=
  match s.growVictims core with
  | [] => .next s
  | ages => .next ((s.beginSave ages 3).onCore core fun c => { c with grow := pressFirst c.grow })

/-- RSHRINK. -/
def execRshrink (a : BitVec 6) (s : State) : Host.Outcome State Fault Refusal :=
  run s fun c => do
    c.needUser
    let k := (c.g.s a).toNat
    need (decide (k % 32 = 0) && (k == 0 || decide (k + 32 ≤ c.g.regs.alloc))) c.illegal
    if k = 0 then .ok (c.finish s id)
    else
      let n := c.g.regs.alloc - k
      need (!s.pend.any fun p => p.age == c.age && s.writesAbove n p) (.hold (.shrink n))
      .ok (c.finish s fun g =>
        let g1 := g.cutRegs n
        { g1 with regs := { g1.regs with alloc := n } })

/-! ## Cohort queries (R361) -/

/-- COHORT. -/
def execCohort (b d : BitVec 6) (s : State) : Host.Outcome State Fault Refusal :=
  run s fun c =>
    let i := (c.g.s b).toNat
    let e := if i < 16 then ((s.wgOf c.g).map fun w => w.cohort i).getD 0 else 0
    .ok (c.finish s fun g => g.setS d e)

/-- COHORT.self. -/
def execCohortSelf (d : BitVec 6) (s : State) : Host.Outcome State Fault Refusal :=
  run s fun c =>
    let lists := fun (w : Workgroup) (i : Nat) => cohortDefined (w.cohort i) && hasGroup (cohortMembers (w.cohort i)) c.g.id.num
    let m := match s.wgOf c.g with
      | none => 0
      | some w => (List.range 16).foldl (fun n i => if lists w i then n + 2 ^ i else n) 0
    .ok (c.finish s fun g => g.setS d (BitVec.ofNat 64 m))

end Sys2Proof.Machine
end

