-- ==== Sys2Proof/Machine/Save.lean ====
section
/-! DEFINITION. Saving a group into its image (R374 to R376). -/

namespace Sys2Proof.Machine

/-! ## When a save can be made (R374) -/

/-- A pending instruction travels in the image: a parked load, a receive, an XAT; the others are waited for. -/
def State.travels (s : State) (p : Pend) : Bool :=
  match p.kind with
  | .load _ => s.parks.any fun k => k.what == .load p.id
  | .xrecv _ _ _ _ _ | .xat _ => true
  | .result _ _ _ | .object _ | .wstat _ _ | .flush _ _ _ _ => false

/-- Nothing of a group is left to wait for before its save, which is made with the groups of `ages`. -/
def State.settled (s : State) (ages : List Nat) (age : Nat) (g : Group) : Bool :=
  !s.sending age && (s.pend.all fun p => p.age != age || s.travels p)
    && (s.landing.all fun r => r.age != age || !r.isPending)
    && (s.core g.id.core).aops.all fun e => !e.ages.contains age || (e.isArray && e.ages.all ages.contains)

/-- The groups that are saved with a group can be. -/
def State.saveReady (s : State) (g : Group) : Bool :=
  let gs := s.gangOf g
  gs.all fun p => p.2.id.resident && p.2.id.saving == g.id.saving && s.settled (gs.map (·.1)) p.1 p.2

/-! ## The save -/

/-- A fragment whose RGROW is withdrawn issues it again (R358). -/
def withdrawGrow (f : Frag) : Frag := match f.hold with
  | .rgrow => { f with wait := .ready, hold := .none }
  | _ => f

/-- The fragments of a saved bank, with their ranks in the issue order in place of the cycles (Table 15.6), what is left of a
pause at the core's cycle `now` (R115), and nothing to wait for of the pipeline they left. -/
def ranked (now : Nat) (fs : List Frag) : List Frag :=
  fs.map fun f => { f with readyAt := 0, lastIssue := (fs.filter fun x => decide (x.lastIssue < f.lastIssue)).length,
                           pausedUntil := if f.wait = .paused then f.pausedUntil - now else f.pausedUntil }

/-- Write one group to the save store: its core holds nothing of it any more (R374). -/
def State.saveGroup (s : State) (age reason : Nat) : State :=
  match Map.find? s.groups age with
  | none => s
  | some g =>
    let image := s.imageOf age g reason
    let core := g.id.core
    let s1 := image.slots.foldl (fun t p => t.freeObject core false p.1) s
    let s2 := image.tiles.foldl (fun t p => t.freeObject core true p.1) s1
    let s3 := s2.onCore core fun c =>
      { c with aops := c.aops.filter fun e => e.age != age, latch := c.latch.filter fun l => l.age != age,
               grow := c.grow.filter fun r => r.age != age,
               running := if image.aops.any fun e => c.running == some e.id then none else c.running }
    let s4 : State := { s3 with landing := s3.landing.map fun r => if r.age = age then { r with core := 512 } else r }
    (s4.onGroup age fun g =>
      { g with id := { g.id with resident := false, saving := 0 },
               flow := { g.flow with frags := ranked (s.cycleOf core) (g.flow.frags.map withdrawGrow),
                                     trapFrags := ranked (s.cycleOf core) g.flow.trapFrags },
               work := { g.work with watch := g.work.watch.map fun w => { w with lost := true }, busy := [],
                                     issued := g.work.issued - (g.flow.frags.filter fun f => f.hold == .rgrow).length },
               saved := some image }).traceRecord (s.sessionOf g) false 0 0 g.who 4 (BitVec.ofNat 64 reason)

/-- GROUP_SAVE (R374): the group, with its gang, stops, and is saved once nothing is left to wait for.  It starts only when
the save store has room: until then the request waits (log 42). -/
def execGroupSave (age reason : Nat) (s0 : State) : Host.Outcome State Fault Refusal :=
  let s := s0.served (.groupSave age reason)
  match Map.find? s.groups age with
  | none => .next s
  | some g =>
    let ages := (s.gangOf g).map (·.1)
    if !g.id.resident || g.id.saving == 5 || reason == 0 || decide (4 < reason) then .next s
    else if g.id.saving = 0 ∧ s.storeRoom ages = false then .next (s0.keep (.groupSave age reason))
    else
      let s1 := if g.id.saving = 0 then s.beginSave ages reason else s
      match Map.find? s1.groups age with
      | none => .next s1
      | some h => if s1.saveReady h then .next (ages.foldl (fun t a => t.saveGroup a h.id.saving) s1) else .next s1

end Sys2Proof.Machine
end

