-- ==== Sys2Proof/Machine/Exit.lean ====
section
/-! DEFINITION. EXIT and retirement (R114, R178, R240, R311, R347, R362). -/

namespace Sys2Proof.Machine

/-! ## EXIT (R114) -/

/-- The lanes of a fragment exit: they leave every rejoin mask and return entry, the fragment's entry is freed, and masks
left complete are released. -/
def Group.exitLanes (g : Group) (now entry : Nat) (l : Lane) : Group :=
  let g1 := (List.range 8).foldl (fun (h : Group) j => h.setRejoin j (h.rejoinE j &&& ~~~l) (h.rejoinA j &&& ~~~l)) g
  let g2 := { g1 with flow := { g1.flow with
    ret := g1.flow.ret.map fun e => { e with lanes := e.lanes &&& ~~~l },
    frags := g1.flow.frags.filter fun f => f.entry != entry, live := g1.flow.live &&& ~~~l } }
  (List.range 8).foldl (fun (h : Group) j => h.releaseIf now j) g2

/-- A group whose remaining lanes are all counted arrives at a barrier (R240). -/
def Workgroup.arriveByExit (w : Workgroup) (num : Nat) (live : Lane) (bar : Nat) : Workgroup :=
  let b := w.barrier bar
  let counted := Map.get 0 b.lanes num
  if counted ≠ 0 ∧ live &&& ~~~counted = 0 ∧ hasGroup b.arrived num = false then w.arrive bar num 0 live else w

/-- What an exit changes at the barriers of the workgroup: a group wholly gone counts as arrived (R240). -/
def Workgroup.afterExit (w : Workgroup) (num : Nat) (live : Lane) : Workgroup :=
  if live = 0 then
    (w.barriers.map (·.1)).foldl (fun (x : Workgroup) bar => x.completeBarrier bar) { w with exited := w.exited ||| laneBit num }
  else (w.barriers.map (·.1)).foldl (fun (x : Workgroup) bar => x.arriveByExit num live bar) w

/-- An abandoned receive of the group takes its trap at EXIT (R178). -/
def Ctx.checkAbandoned (c : Ctx) : Except Stop Unit :=
  match c.g.work.abandoned with
  | [] => .ok ()
  | a :: _ => .error (.deferred (abandonTrap a.pc a.slot a.partner) a.order)

/-- The end of a group: its final batch, its trigger, its pending receives, and those that wait for it. -/
def State.endGroup (s : State) (age wg : Nat) : State :=
  let s1 := State.onGroup { s with nextOp := s.nextOp + 1 } age fun g => g.closeBatch s.nextOp
  ((s1.triggerGroup age wg).withdrawRecvs wg age).abandonRendezvous wg

/-- EXIT. -/
def execExit (s : State) : Host.Outcome State Fault Refusal :=
  run s fun c => do
    c.needUser
    c.orderingPoint s
    c.checkAbandoned
    c.checkDisturb s
    let live := c.g.flow.live &&& ~~~c.f.lanes
    let triggers := decide (live = 0) && !c.g.work.triggered
    if triggers then c.waitRelease s else .ok ()
    let s1 := if triggers then s.eagerRelease c.core c.age else s
    let s2 := s1.onGroup c.age fun g => (c.advance g).exitLanes c.now c.entry c.f.lanes
    let s3 := s2.onWg c.g.id.wg fun w => w.afterExit c.g.id.num live
    .ok (if live = 0 then s3.endGroup c.age c.g.id.wg else s3)

/-! ## Retirement (R362) -/

/-- Nothing of a workgroup is outstanding: retirement is a release, so no access of its groups is still to be performed
(R344). -/
def State.retires (s : State) (wg : Nat) : Bool :=
  let gs := s.members wg
  let own := fun (age : Nat) => gs.any fun p => p.1 == age
  (gs.all fun p => p.2.exited && p.2.work.batches.isEmpty)
    && !(s.landing.any fun r => own r.age)
    && !(s.pend.any fun p => own p.age && match p.kind with
      | .load _ | .flush _ _ _ _ => true
      | _ => false)
    && !(s.counts.any fun x => x.wg == wg)
    && !(s.wherry.any fun w => w.wg == wg && w.active)
    && !(s.ferry.any fun c => c.wg == wg)
    && !s.remote.any fun r => own r.age

/-- A workgroup of a launch has retired; with its last one the launch retires. -/
def Queue.retireOne (q : Queue) (launch : Word) : Queue :=
  let ls := q.started.map fun l => if l.id = launch then { l with retired := l.retired + 1 } else l
  let over_ := ls.filter fun l => decide (recTotal l.words ≤ l.retired)
  { q with started := ls.filter fun l => decide (l.retired < recTotal l.words), done := (q.done + over_.length) % 2 ^ 32 }

/-- WORKGROUP_RETIRE (R362). -/
def execWorkgroupRetire (wg : Nat) (s : State) : Host.Outcome State Fault Refusal :=
  match Map.find? s.wgs wg with
  | none => .next s
  | some w =>
    if !s.retires wg then .next s
    else
      let s1 := s.flushNc w.core
      let s2 := State.pumpRemote ((s1.members wg).foldl (fun t p => t.removeGroup p.1) s1)
      let s3 : State := { s2 with
        wgs := Map.erase s2.wgs wg, wherry := s2.wherry.filter fun c => c.wg != wg,
        mem := { s2.mem with poison := s2.mem.poison.filter fun k =>
          !(decide (poisonShared wg 0 ≤ k) && decide (k < poisonShared (wg + 1) 0)) } }
      .next ((s3.onQueue w.queue fun q => q.retireOne w.launch).traceRecord w.session false 0 0 0xFFFF 3
        (BitVec.ofNat 64 w.index))

end Sys2Proof.Machine
end

