-- ==== Sys2Proof/Machine/System.lean ====
section
/-! DEFINITION. Special registers, major 0x3E, halts and the debug commands (R118, R119, R137 to R140, R364 to R371, R379 to
R383, R389). -/

namespace Sys2Proof.Machine

/-! ## Special registers (Table 15.2) -/

/-- GANG as it reads (Table 12.6). -/
def GangReg.word (r : GangReg) : Nat :=
  (if r.valid then 2 ^ 37 else 0) + (if r.pair then 2 ^ 36 else 0) + r.cohort % 16 * 2 ^ 32 + r.members.toNat

/-- LANDST. -/
def State.landSt (s : State) (g : Group) : Nat :=
  let rs := s.landing.filter fun r => r.age == g.id.age
  (rs.filter (·.isPending)).length % 64 + (rs.filter (·.isFaulted)).length % 64 * 2 ^ 8
    + (if g.work.failedRemote.isEmpty then 0 else 2 ^ 16) + (if g.work.failedEngine.isEmpty then 0 else 2 ^ 17)

/-- A half of shape record n. -/
def Group.kHalf (g : Group) (i : Nat) : Nat := (g.kRec (i / 2)).toNat / 2 ^ (64 * (i % 2)) % 2 ^ 64

/-- The special registers that are state of the group; none where the number names no such register. -/
def State.groupSpecial (s : State) (g : Group) (n : Nat) : Option Nat :=
  match n with
  | 0x002 => some g.id.num
  | 0x003 => some g.id.wgIndex
  | 0x004 => some g.id.launch.toNat
  | 0x007 => some (s.basePrio g % 16 + s.effPrio g.id.age % 16 * 16)
  | 0x008 => some g.id.cls
  | 0x009 => some g.sys.gang.word
  | 0x00A => some (g.id.ctx % 4096)
  | 0x00B => some g.id.age
  | 0x010 => some g.sys.fpctl.toNat
  | 0x011 => some g.sys.fpstat.toNat
  | 0x012 => some g.sys.lossScale.toNat
  | 0x013 => some g.sys.guideW.toNat
  | 0x014 => some g.sys.ackbar.toNat
  | 0x015 => some g.sys.privHwm.toNat
  | 0x016 => some g.sys.rsBase.toNat
  | 0x017 => some g.sys.rsDepth
  | 0x018 => some (s.landSt g)
  | 0x020 => some g.sys.trapVec.toNat
  | 0x021 => some g.sys.trapCause.toNat
  | 0x022 => some g.sys.trapPc.toNat
  | 0x023 => some g.sys.trapNpc.toNat
  | 0x024 => some g.sys.trapFrag.toNat
  | _ =>
    if 0x028 ≤ n ∧ n ≤ 0x02F then some ((g.sys.trapRec.getD (n - 0x028) 0).toNat)
    else if 0x030 ≤ n ∧ n ≤ 0x037 then some (Map.get 0 g.regs.s (48 + (n - 0x030))).toNat
    else if 0x040 ≤ n ∧ n ≤ 0x04F then some (g.kHalf (n - 0x040))
    else none

/-- A special register as SRD reads it for a fragment with these lanes. -/
def State.special (s : State) (g : Group) (lanes : Lane) (n : Nat) : Option Nat :=
  match n with
  | 0x000 => some (lowestLane lanes)
  | 0x001 => some (lowestLane lanes / 4)
  | 0x005 => some g.id.core
  | 0x006 => some s.pkg
  | 0x019 => some s.timeNs
  | 0x01A => some (s.cycleOf g.id.core)
  | _ => s.groupSpecial g n

/-- The registers that a group writes in trap mode only. -/
def trapOnly (n : Nat) : Bool := decide (0x020 ≤ n ∧ n ≤ 0x022) || decide (0x030 ≤ n ∧ n ≤ 0x037)

/-- Write half i of the shape records; bits [63:59] of a low half stay zero (Table 11.1). -/
def Group.setKHalf (g : Group) (i : Nat) (v : Word) : Group :=
  let old := (g.kRec (i / 2)).toNat
  let new := if i % 2 = 0 then old / 2 ^ 64 * 2 ^ 64 + v.toNat % 2 ^ 59 else old % 2 ^ 64 + v.toNat * 2 ^ 64
  { g with regs := { g.regs with k := Map.set 0 g.regs.k (i / 2) (BitVec.ofNat 128 new) } }

/-- What a write does to a special register that the group may write; the others ignore it. -/
def Group.writeSpecial (g : Group) (n : Nat) (v : Word) : Group :=
  match n with
  | 0x010 => { g with sys := { g.sys with fpctl := v.setWidth 2 } }
  | 0x011 => { g with sys := { g.sys with fpstat := g.sys.fpstat &&& ~~~(v.setWidth 4) } }
  | 0x012 => { g with sys := { g.sys with lossScale := v.setWidth 32 } }
  | 0x014 => { g with sys := { g.sys with ackbar := v } }
  | 0x016 => { g with sys := { g.sys with rsBase := v } }
  | 0x020 => { g with sys := { g.sys with trapVec := v } }
  | 0x021 => { g with sys := { g.sys with trapCause := v.setWidth 8 } }
  | 0x022 => { g with sys := { g.sys with trapPc := v } }
  | _ =>
    if 0x030 ≤ n ∧ n ≤ 0x037 then { g with regs := { g.regs with s := Map.set 0 g.regs.s (48 + (n - 0x030)) v } }
    else if 0x040 ≤ n ∧ n ≤ 0x04F then g.setKHalf (n - 0x040) v
    else g

/-- SRD (R118). -/
def execSrd (n : BitVec 12) (a : BitVec 6) (s : State) : Host.Outcome State Fault Refusal :=
  run s fun c => match s.special c.g c.f.lanes n.toNat with
    | none => .error c.illegal
    | some v => .ok (c.finish s fun g => g.setS a (BitVec.ofNat 64 v))

/-- SWR (R118). -/
def execSwr (n : BitVec 12) (a : BitVec 6) (s : State) : Host.Outcome State Fault Refusal :=
  run s fun c => do
    need (s.special c.g c.f.lanes n.toNat).isSome c.illegal
    need (!trapOnly n.toNat || c.g.flow.trapMode) c.priv
    .ok (c.finish s fun g => g.writeSpecial n.toNat (c.g.s a))

/-! ## Halts (R381, R383) -/

/-- Halt a group: none of it issues, a fault record of kind 4 and a trace record are written.  `detail` is 1 for HALT, 2 for
BKPT, 3 for a debugger. -/
def State.haltGroup (s : State) (age detail : Nat) (pc : Word) (lanes : Lane) : State :=
  match Map.find? s.groups age with
  | none => s
  | some g =>
    let s1 := (s.stopIssue age).onGroup age fun g => { g with id := { g.id with halted := true } }
    let s2 := s1.raiseRecord 4 detail g.id.ctx g.id.core g.id.slot pc 0 0 (BitVec.ofNat 64 age)
    s2.traceRecord (s.sessionOf g) false pc lanes g.who 8 (BitVec.ofNat 64 detail)

/-- The fragment that would issue next, else the one in the lowest entry (R383). -/
def State.nextFrag (s : State) (g : Group) : Option Frag :=
  match candidate? (s.readyFrags (s.subCore g.id.core (subOf g.id.slot)) { g with id := { g.id with halted := false } }) with
  | some r => some r.f
  | none => g.bank.head?

/-- A debugger halts a group that is not halted; not before the remote atomics that it has begun are sent (R259). -/
def State.debugHalt (s : State) (age : Nat) : State :=
  match Map.find? s.groups age with
  | none => s
  | some g =>
    if g.id.halted then s
    else if s.sending age then { s with dbg := { s.dbg with halting := age :: s.dbg.halting } }
    else match s.nextFrag g with
      | some f => s.haltGroup age 3 f.pc f.lanes
      | none => s.haltGroup age 3 0 0

/-- The other members of a group's pair (R335). -/
def State.pairOf (s : State) (g : Group) : List Nat :=
  if g.sys.gang.valid && g.sys.gang.pair then ((s.gangOf g).map (·.1)).filter (· != g.id.age) else []

/-- The partner of a halted pair member halts (Table 13.4). -/
def State.haltPartners (s : State) (g : Group) : State := (s.pairOf g).foldl (fun t a => t.debugHalt a) s

/-! ## Major 0x3E (R364) -/

/-- TRAP n. -/
def execTrap (n : BitVec 12) (s : State) : Host.Outcome State Fault Refusal :=
  run s fun _ => .error (.trap { cause := .software, aux := n.toNat })

/-- What every RTE needs: trap mode, no other trap fragment, and the results of what was issued in trap mode (R371). -/
def Ctx.checkRte (c : Ctx) (s : State) : Except Stop Unit := do
  c.needTrapMode
  need (decide (c.g.flow.trapFrags.length = 1)) c.illegal
  need (!s.pend.any fun p => p.age == c.age && p.trapBank && p.flag.isSome) (.hold .trapResults)

/-- RTE, RTE.retry. -/
def execRte (s : State) : Host.Outcome State Fault Refusal :=
  run s fun c => do
    c.checkRte s
    .ok (c.returnFromTrap s 1 (resumeRetry c.g))

/-- RTE.skip. -/
def execRteSkip (s : State) : Host.Outcome State Fault Refusal :=
  run s fun c => do
    c.checkRte s
    .ok (c.returnFromTrap s 2 (resumeSkip c.g))

/-- The bytes at a target are no clause header; a target that cannot be fetched takes its trap there. -/
def State.notHeader (s : State) (g : Group) (a : Word) : Bool :=
  match s.fetch g a with
  | .ok (n, w, _) => !(n == 4 && isHeader w)
  | .error _ => false

/-- RTE.r. -/
def execRteR (a : BitVec 6) (s : State) : Host.Outcome State Fault Refusal :=
  run s fun c => do
    c.checkRte s
    checkTarget 32 (c.g.s a)
    need (!s.notHeader c.g (c.g.s a)) c.illegal
    .ok (c.returnFromTrap s 3 (resumeAt (c.g.s a)))

/-- BKPT n: BREAKPOINT, or in trap mode a halt after it (R381).  The partner of a pair goes on, as Table 13.4 says of a
BKPT. -/
def execBkpt (n : BitVec 12) (s : State) : Host.Outcome State Fault Refusal :=
  run s fun c =>
    if c.g.flow.trapMode then .ok ((c.finish s id).haltGroup c.age 2 c.pc c.f.lanes)
    else .error (.trap { cause := .breakpoint, aux := n.toNat })

/-- HALT: the fragment resumes after it (R381). -/
def execHalt (s : State) : Host.Outcome State Fault Refusal :=
  run s fun c => .ok (((c.finish s id).haltGroup c.age 1 c.pc c.f.lanes).haltPartners c.g)

/-- TRACE: a marker record (R365). -/
def execTrace (b a : BitVec 6) (s : State) : Host.Outcome State Fault Refusal :=
  run s fun c =>
    .ok (c.finish (s.traceRecord (s.sessionOf c.g) false c.pc c.f.lanes c.g.who (128 + (c.g.s a).toNat % 128) (c.g.s b)) id)

/-- TSTAMP. -/
def execTstamp (d : BitVec 6) (s : State) : Host.Outcome State Fault Refusal :=
  run s fun c => .ok (c.finish s fun g => g.setS d (BitVec.ofNat 64 s.timeNs))

/-- A counter of Table 15.13 for a group. -/
def State.perfCounter (s : State) (g : Group) (id : Nat) : Nat :=
  let sub := s.subCore g.id.core (subOf g.id.slot)
  match id with
  | 0x0000 => g.work.issued
  | 0x0001 => g.work.packed
  | 0x0002 => g.work.divergent
  | 0x0003 => g.work.traps
  | _ =>
    if id = 0x0100 then (Map.get 0 sub.hist 0 + s.emptyCycles g.id.core (subOf g.id.slot)) % 2 ^ 64
    else if 0x0101 ≤ id ∧ id ≤ 0x0110 then Map.get 0 sub.hist (id - 0x0100)
    else if 0x0200 ≤ id ∧ id ≤ 0x020F then Map.get 0 sub.reasons (id - 0x0200)
    else if 0x0300 ≤ id ∧ id ≤ 0x0307 then Map.get 0 (s.core g.id.core).counters id
    else 0

/-- PERF. -/
def execPerf (b d : BitVec 6) (s : State) : Host.Outcome State Fault Refusal :=
  run s fun c => do
    need (decide ((c.g.s b).toNat < 65536)) c.illegal
    .ok (c.finish s fun g => g.setS d (BitVec.ofNat 64 (s.perfCounter c.g (c.g.s b).toNat)))

/-! ## Debug commands (R380) -/

/-- The last command was refused, or not. -/
def State.refuse (s : State) (b : Bool) : State := { s with dbg := { s.dbg with refused := b } }

/-- A group that a debugger saved is to be restored. -/
def Group.wantBack (g : Group) : Group :=
  { g with saved := g.saved.map fun i => if i.reason = 4 then { i with reason := 1 } else i }

/-- A group that a debugger releases; one that DOUBLE halted stays halted (R380). -/
def Group.release? (g : Group) : Group :=
  if g.id.dbl then g else { g.wantBack with id := { g.id with halted := false } }

/-- Halt: the group, and its pair partner. -/
def State.cmdHalt (s : State) : State :=
  match Map.find? s.groups s.dbg.sel.toNat with
  | none => s.refuse true
  | some g => ((s.debugHalt g.id.age).haltPartners g).refuse false

/-- Resume: the group and its pair partner go on; a saved group is restored first. -/
def State.cmdResume (s : State) : State :=
  match Map.find? s.groups s.dbg.sel.toNat with
  | none => s.refuse true
  | some g =>
    if g.id.dbl then s.refuse true
    else
      let wake := fun (t : State) (a : Nat) => t.onGroup a Group.release?
      let s0 : State := { s with dbg := { s.dbg with halting := s.dbg.halting.filter (· != g.id.age) } }
      let s1 : State := if g.saved.isSome then { s0 with dbg := { s0.dbg with resuming := some g.id.age } } else s0
      ((s.pairOf g).foldl wake (wake s1 g.id.age)).traceRecord (s.sessionOf g) false 0 0 g.who 9 1 |>.refuse false

/-- Step: the group issues one instruction, and is halted again.  A pair partner is released with it, and halts with it
(R335). -/
def State.cmdStep (s : State) : State :=
  match Map.find? s.groups s.dbg.sel.toNat with
  | none => s.refuse true
  | some g =>
    if g.id.dbl then s.refuse true
    else
      let free := (s.pairOf g).foldl (fun (t : State) a => t.onGroup a Group.release?) s
      let s1 := free.onGroup g.id.age fun h => { h.wantBack with id := { h.id with halted := true } }
      let s2 : State := { s1 with dbg := { s1.dbg with stepping := some (g.id.age, g.work.issued) } }
      (s2.traceRecord (s.sessionOf g) false 0 0 g.who 9 2).refuse false

/-- Save: the group begins to be saved, with its gang, where the save store has room (R374; log 42). -/
def State.cmdSave (s : State) : State :=
  match Map.find? s.groups s.dbg.sel.toNat with
  | none => s.refuse true
  | some g =>
    let ages := (s.gangOf g).map (·.1)
    (if g.id.resident ∧ g.id.saving = 0 ∧ s.storeRoom ages = true then s.beginSave ages 4 else s).refuse false

/-- A debug stop that waited is due. -/
def State.haltDue (s : State) : Option Nat := s.dbg.halting.find? fun a => !s.sending a

/-- A debug stop that waited reaches its group. -/
def State.haltNow (s : State) (age : Nat) : State :=
  State.debugHalt { s with dbg := { s.dbg with halting := s.dbg.halting.filter (· != age) } } age

/-- A step is over: its group has issued, or can never issue. -/
def State.stepOver (s : State) : Bool :=
  match s.dbg.stepping with
  | none => false
  | some (age, n) => match Map.find? s.groups age with
    | none => true
    | some g => (g.work.issued != n && !s.sending age) || g.id.dbl || g.exited

/-- The end of a step: the group is halted again, and its pair partner with it. -/
def State.endStep (s : State) : State :=
  match s.dbg.stepping with
  | none => s
  | some (age, _) =>
    let s1 : State := { s with dbg := { s.dbg with stepping := none } }
    match Map.find? s1.groups age with
    | none => s1
    | some g => if g.id.dbl then s1 else match s1.nextFrag g with
      | some f => (s1.haltGroup age 3 f.pc f.lanes).haltPartners g
      | none => (s1.haltGroup age 3 0 0).haltPartners g

/-- DBGCMD_HALT. -/
def execDbgcmdHalt (s : State) : Host.Outcome State Fault Refusal := .next s.cmdHalt

/-- DBGCMD_RESUME. -/
def execDbgcmdResume (s : State) : Host.Outcome State Fault Refusal := .next s.cmdResume

/-- DBGCMD_STEP. -/
def execDbgcmdStep (s : State) : Host.Outcome State Fault Refusal := .next s.cmdStep

/-- DBGCMD_SAVE. -/
def execDbgcmdSave (s : State) : Host.Outcome State Fault Refusal := .next s.cmdSave

/-! ## The scrubber (R372, R411) -/

/-- REGISTER_FILE_SCRUB: the poisoned entries of a core's register file are counted and logged. -/
def execRegisterFileScrub (core : Nat) (s : State) : Host.Outcome State Fault Refusal :=
  let found := (s.coreGroups core).flatMap fun p => p.2.regs.poison.map fun k => (p.2.id.slot, k)
  .next (found.foldl (fun t p => (t.ras 16 (core / 48) (core % 48) (p.1 * 2 ^ 16 + p.2)).onCore core fun c => c.count 0x0306 1) s)

end Sys2Proof.Machine
end

