-- ==== Sys2Proof/Machine/Image.lean ====
section
/-! DEFINITION. The context save image as the debug window shows it, and writes to it (R375, R376, R379). -/

namespace Sys2Proof.Machine

/-- A field of an image: its place and size in bytes, its value, and the state after a write of a value. -/
structure ImageField where
  pos : Nat
  size : Nat
  val : Nat
  write : Nat → State → State

/-- A section of an image: its length and its fields; the other bytes are zero, and a write to them is ignored. -/
structure ImageSection where
  len : Nat
  fields : List ImageField

/-- A field of the group. -/
def groupField (age pos size val : Nat) (f : Nat → Group → Group) : ImageField :=
  { pos := pos, size := size, val := val, write := fun v s => s.onGroup age (f v) }

/-- Change the image of a group. -/
def savedField (age pos size val : Nat) (f : Nat → Saved → Saved) : ImageField :=
  groupField age pos size val fun v g => { g with saved := g.saved.map (f v) }

/-- A field that a write does not change: the version, and what follows from other fields (log 102). -/
def fixedField (pos size val : Nat) : ImageField := { pos := pos, size := size, val := val, write := fun _ s => s }

/-! ## Section 0: special registers -/

/-- The saved registers of Table 15.2, in ascending number. -/
def savedSpecials : List Nat :=
  [0x002, 0x003, 0x004, 0x007, 0x008, 0x009, 0x00A, 0x00B] ++ (List.range 9).map (0x010 + ·)
    ++ (List.range 5).map (0x020 + ·) ++ (List.range 8).map (0x028 + ·) ++ (List.range 8).map (0x030 + ·)
    ++ (List.range 16).map (0x040 + ·)

/-- Replace an element of a list. -/
def setAt {α : Type} : List α → Nat → α → List α
  | [], _, _ => []
  | _ :: l, 0, a => a :: l
  | x :: l, n + 1, a => x :: setAt l n a

/-- A special register of a saved group gets the value that was written to its image. -/
def Group.setImageSpecial (g : Group) (n v : Nat) : Group :=
  let w : Word := BitVec.ofNat 64 v
  match n with
  | 0x002 => { g with id := { g.id with num := v % 32 } }
  | 0x003 => { g with id := { g.id with wgIndex := v } }
  | 0x004 => { g with id := { g.id with launch := w } }
  | 0x008 => { g with id := { g.id with cls := v % 4 } }
  | 0x009 => { g with sys := { g.sys with gang :=
      { valid := v.testBit 37, pair := v.testBit 36, cohort := v / 2 ^ 32 % 16, members := w.setWidth 32 } } }
  | 0x00A => { g with id := { g.id with ctx := v % 4096 } }
  | 0x011 => { g with sys := { g.sys with fpstat := w.setWidth 4 } }
  | 0x013 => { g with sys := { g.sys with guideW := w.setWidth 32 } }
  | 0x015 => { g with sys := { g.sys with privHwm := w } }
  | 0x017 => { g with sys := { g.sys with rsDepth := v % 512 } }
  | 0x023 => { g with sys := { g.sys with trapNpc := w } }
  | 0x024 => { g with sys := { g.sys with trapFrag := w } }
  | _ =>
    if 0x028 ≤ n ∧ n ≤ 0x02F then
      let rec8 := (List.range 8).map fun i => g.sys.trapRec.getD i 0
      { g with sys := { g.sys with trapRec := setAt rec8 (n - 0x028) w } }
    else g.writeSpecial n w

/-- Section 0. -/
def State.imageSpecials (s : State) (age : Nat) (g : Group) : ImageSection :=
  let regs := (List.range savedSpecials.length).zip savedSpecials |>.map fun p =>
    groupField age (8 * p.1) 8 ((s.groupSpecial g p.2).getD 0) fun v h => h.setImageSpecial p.2 v
  let n := 8 * savedSpecials.length
  { len := n + 32,
    fields := regs ++
      [groupField age n 8 g.work.issued fun v h => { h with work := { h.work with issued := v } },
       groupField age (n + 8) 8 g.work.packed fun v h => { h with work := { h.work with packed := v } },
       groupField age (n + 16) 8 g.work.divergent fun v h => { h with work := { h.work with divergent := v } },
       groupField age (n + 24) 8 g.work.traps fun v h => { h with work := { h.work with traps := v } }] }

/-! ## Sections 1 and 2: scalar registers and small state -/

/-- Section 1. -/
def imageScalars (age : Nat) (g : Group) : ImageSection :=
  { len := 576,
    fields := (List.range 63).map (fun n => groupField age (8 * n) 8 (Map.get 0 g.regs.s n).toNat fun v h =>
        { h with regs := { h.regs with s := Map.set 0 h.regs.s n (BitVec.ofNat 64 v) } })
      ++ (List.range 8).map fun n => groupField age (512 + 8 * n) 8 (Map.get 0 g.regs.ts n).toNat fun v h =>
        { h with regs := { h.regs with ts := Map.set 0 h.regs.ts n (BitVec.ofNat 64 v) } } }

/-- The flags of a bank that pending operations keep set. -/
def State.flagBits (s : State) (age : Nat) (bank : Bool) : Nat :=
  (List.range 12).foldl (fun n i => if s.flagSet age bank i then n + 2 ^ i else n) 0

/-- An in-flight counter gets a value that was written to the image: its oldest operations are forgotten, or it counts
operations that never complete. -/
def Work.setCounter (w : Work) (p : Path) (n : Nat) : Work :=
  let live := (w.inflight.filter fun e => e.path == p).dropWhile (·.done)
  let more := List.replicate (n - live.length) { path := p, op := 2 ^ 64, done := false }
  { w with inflight := (w.inflight.filter fun e => e.path != p) ++ live.drop (live.length - n) ++ more }

/-- A flag gets a value that was written to the image: no operation keeps it set any more, or one that never completes does. -/
def State.setFlag (s : State) (age : Nat) (bank : Bool) (i : Nat) (v : Bool) : State :=
  if s.flagSet age bank i == v then s
  else if v then
    { s with nextOp := s.nextOp + 1, pend := s.pend ++ [{ id := s.nextOp, age := age, flag := some i, trapBank := bank, path := none,
                                                          entry := 0, pc := 0, lanes := 0, kind := .xat [] }] }
  else { s with pend := s.pend.map fun p =>
    if p.age = age ∧ p.trapBank = bank ∧ p.flag = some i then { p with flag := none } else p }

/-- The flags of a bank in the image. -/
def flagField (age pos : Nat) (bank : Bool) (val : Nat) : ImageField :=
  { pos := pos, size := 2, val := val,
    write := fun v t => (List.range 12).foldl (fun u i => u.setFlag age bank i (v.testBit i)) t }

/-- Section 2.  The counters and flags follow the operations in flight. -/
def State.imageSmall (s : State) (age : Nat) (g : Group) : ImageSection :=
  let mask := fun (pos : Nat) (m : Cells Lane) (n : Nat) (f : Lane → Flow → Flow) =>
    groupField age pos 4 (Map.get 0 m n).toNat fun v h => { h with flow := f (BitVec.ofNat 32 v) h.flow }
  { len := 200,
    fields := (List.range 8).map (fun n => groupField age (4 * n) 4 (g.m n).toNat fun v h => h.setM n (BitVec.ofNat 32 v))
      ++ [groupField age 32 1 g.regs.c.toNat fun v h => { h with regs := { h.regs with c := BitVec.ofNat 4 v } }]
      ++ (List.range 8).flatMap (fun n =>
        [mask (40 + 8 * n) g.flow.rejoinE n fun v x => { x with rejoinE := Map.set 0 x.rejoinE n v },
         mask (44 + 8 * n) g.flow.rejoinA n fun v x => { x with rejoinA := Map.set 0 x.rejoinA n v },
         mask (104 + 8 * n) g.flow.trapE n fun v x => { x with trapE := Map.set 0 x.trapE n v },
         mask (108 + 8 * n) g.flow.trapA n fun v x => { x with trapA := Map.set 0 x.trapA n v }])
      ++ ([Path.ld, Path.st, Path.wh, Path.an, Path.ra, Path.fe].zip (List.range 6)).map
        (fun p => groupField age (168 + 2 * p.2) 2 (g.work.counter p.1 % 1024) fun v h =>
          { h with work := h.work.setCounter p.1 (v % 1024) })
      ++ [groupField age 184 8 g.work.batchCount fun v h => { h with work := { h.work with batchCount := v } },
          groupField age 192 4 g.sys.rsDepth fun v h => { h with sys := { h.sys with rsDepth := v % 512 } },
          flagField age 196 false (s.flagBits age false), flagField age 198 true (s.flagBits age true)] }

/-! ## Sections 3 and 4: split table and return stack -/

/-- Code of a wait state (Table 4.1). -/
def WaitState.code : WaitState → Nat
  | .ready => 0
  | .clause => 1
  | .parked => 2
  | .held => 3
  | .paused => 4
  | .splitHold => 5

/-- The wait state of a code. -/
def waitOf : Nat → WaitState
  | 1 => .clause
  | 2 => .parked
  | 3 => .held
  | 4 => .paused
  | 5 => .splitHold
  | _ => .ready

/-- An entry of section 3 that is not valid, before anything is written to it. -/
def blankFrag (entry : Nat) : Frag :=
  { entry := entry, pc := 0, lanes := 0, header := none, clauseStart := 0, needHeader := true, wait := .ready, hold := .none, rejoin := 0,
    age := 0, agedAt := 0, lastIssue := 0, pausedUntil := 0, readyAt := 0 }

/-- The fragment that stands in an entry of section 3: the group's by their places, those of the trap bank by their own numbers. -/
def Group.splitAt (g : Group) (i : Saved) (place : Nat) : Option Frag :=
  if place < 32 then g.flow.frags.find? fun f => Map.get 40 i.places f.entry == place
  else g.flow.trapFrags.find? fun f => f.entry + 32 == place

/-- What an entry of section 3 holds while it is not valid. -/
def Saved.blankAt (i : Saved) (place : Nat) : Frag :=
  ((i.blanks.find? fun p => p.1 == place).map (·.2)).getD (blankFrag (if place < 32 then 128 + place else place - 32))

/-- Write an entry of section 3: a valid one is a fragment of the group, whose lanes have not exited. -/
def Group.putSplit (place : Nat) (valid : Bool) (f : Frag) (g : Group) : Group :=
  match g.saved with
  | none => g
  | some i =>
    let change := fun (fs : List Frag) =>
      let others := fs.filter fun x => x.entry != f.entry
      if valid then insertFrag others f else others
    let flow := if place < 32 then { g.flow with frags := change g.flow.frags } else { g.flow with trapFrags := change g.flow.trapFrags }
    { g with
      flow := { flow with live := flow.frags.foldl (fun m x => m ||| x.lanes) 0 },
      saved := some { i with places := if place < 32 then Map.insert i.places f.entry place else i.places,
                             blanks := (i.blanks.filter fun p => p.1 != place) ++ if valid then [] else [(place, f)] } }

/-- The fields of an entry of section 3; the rank of a fragment in the issue order stands in place of its last issue while the group is
saved. -/
def splitFields (age place : Nat) (valid : Bool) (f : Frag) : List ImageField :=
  let field := fun (pos size val : Nat) (h : Nat → Frag) =>
    groupField age (32 * place + pos) size val fun v => Group.putSplit place valid (h v)
  [field 0 8 f.pc.toNat fun v => { f with pc := evenPc (BitVec.ofNat 64 v) },
   field 8 4 f.lanes.toNat fun v => { f with lanes := BitVec.ofNat 32 v },
   field 12 4 ((f.header.map (·.toNat)).getD 0) fun v => { f with header := some (BitVec.ofNat 32 v) },
   groupField age (32 * place + 16) 1 (f.wait.code + f.rejoin % 8 * 16 + (if valid then 128 else 0)) fun v =>
     let w := waitOf (v % 16)
     Group.putSplit place (v.testBit 7) { f with wait := w, rejoin := v / 16 % 8,
                                                 hold := if w = f.wait then f.hold else if w = .splitHold then .entries 1 else .none },
   field 18 2 f.age fun v => { f with age := v },
   field 20 4 f.lastIssue fun v => { f with lastIssue := v }]

/-- Section 3. -/
def imageSplits (age : Nat) (g : Group) (i : Saved) : ImageSection :=
  { len := 1280,
    fields := (List.range 40).flatMap fun place => match g.splitAt i place with
      | some f => splitFields age place true f
      | none => splitFields age place false (i.blankAt place) }

/-- Section 4: the bottom entry first; one that names no lane is free. -/
def imageReturns (age : Nat) (i : Saved) : ImageSection :=
  let field := fun (k pos size val : Nat) (f : Nat → RetEntry) =>
    savedField age (16 * k + pos) size val fun v x => { x with rets := setAt x.rets k (f v) }
  { len := 256,
    fields := ((List.range 16).zip i.rets).flatMap fun p =>
      [field p.1 0 8 p.2.addr.toNat fun v => { p.2 with addr := BitVec.ofNat 64 v },
       field p.1 8 4 p.2.lanes.toNat fun v => { p.2 with lanes := BitVec.ofNat 32 v }] }

/-! ## Sections 5 and 6: vector registers -/

/-- Registers whose keys start at `key`: their lanes, then the poison of each register. -/
def imageVectors (age : Nat) (g : Group) (key count : Nat) : ImageSection :=
  let cells := (List.range (32 * count)).map fun i =>
    groupField age (4 * i) 4 (g.cell (key + i / 32) (i % 32)).toNat fun v h =>
      let p := h.regs.poison
      let h1 := h.setCell (32 * key + i, BitVec.ofNat 32 v)
      { h1 with regs := { h1.regs with poison := p } }
  let poison := (List.range count).map fun n =>
    let bits := (List.range 32).foldl (fun m l => if g.regs.poison.contains (32 * (key + n) + l) then m + 2 ^ l else m) 0
    groupField age (128 * count + 4 * n) 4 bits fun v h =>
      { h with regs := { h.regs with poison :=
        (h.regs.poison.filter fun k => decide (k / 32 ≠ key + n))
          ++ ((List.range 32).filter fun l => v.testBit l).map fun l => 32 * (key + n) + l } }
  { len := 132 * count, fields := cells ++ poison }

/-! ## Section 7: landing records -/

/-- Change a landing record by its number. -/
def recordField (id pos size val : Nat) (f : Nat → Landing → Landing) : ImageField :=
  { pos := pos, size := size, val := val, write := fun v s => s.onRecord id (f v) }

/-- A lane of a record in the image: a scalar store stands in place 0. -/
def LaneStore.place (l : LaneStore) : Nat := l.lane % 32

/-- The lanes of a record become those of a mask: a new lane has zero data at address 0. -/
def Landing.setLanes (r : Landing) (mask : Nat) : Landing :=
  let n := (r.lanes.head?.map fun l => l.bytes.length).getD 0
  let at_ := fun (i : Nat) => (r.lanes.find? fun l => l.lane == i).getD
    { lane := i, addr := 0, nc := false, bytes := List.replicate n (some 0), landed := false, faulted := false, direct := false,
      confirmed := false }
  { r with lanes := ((List.range 32).filter fun i => mask.testBit i).map at_ ++ r.lanes.filter fun l => decide (32 ≤ l.lane) }

/-- The state of a record becomes pending, landed or faulted (Table 8.13). -/
def Landing.setState (r : Landing) (v : Nat) : Landing :=
  { r with lanes := r.lanes.map fun l => { l with landed := v == 1, faulted := v == 2 } }

/-- Fields of the i-th record (Table 8.13). -/
def landingFields (i : Nat) (r : Landing) : List ImageField :=
  let at_ := 832 * i
  let lane := fun (l : LaneStore) (f : LaneStore → LaneStore) (x : Landing) =>
    { x with lanes := x.lanes.map fun m => if m.lane = l.lane then f m else m }
  [recordField r.id at_ 1 r.slot fun v x => { x with slot := v % 64 },
   recordField r.id (at_ + 1) 1 r.entry fun v x => { x with entry := v % 128 },
   recordField r.id (at_ + 4) 4 (maskOf ((r.lanes.filter fun l => decide (l.lane < 32)).map (·.lane))).toNat fun v x =>
     x.setLanes v,
   recordField r.id (at_ + 8) 8 r.pc.toNat fun v x => { x with pc := BitVec.ofNat 64 v },
   recordField r.id (at_ + 16) 4 r.seq fun v x => { x with seq := v },
   recordField r.id (at_ + 20) 1 r.kind fun v x => { x with kind := v % 4 },
   recordField r.id (at_ + 21) 1 r.size fun v x => { x with size := v % 8 },
   recordField r.id (at_ + 22) 1 (if r.isFaulted then 2 else if r.isLanded then 1 else 0) fun v x => x.setState (v % 4),
   recordField r.id (at_ + 23) 1 r.detail fun v x => { x with detail := v },
   recordField r.id (at_ + 24) 4 (maskOf ((r.lanes.filter (·.faulted)).map (·.place))).toNat fun v x =>
     { x with lanes := x.lanes.map fun m => { m with faulted := v.testBit m.place } }]
  ++ r.lanes.flatMap fun l =>
    recordField r.id (at_ + 64 + 8 * l.place) 8 l.addr.toNat (fun v x => lane l (fun m => { m with addr := BitVec.ofNat 64 v }) x)
      :: ((List.range l.bytes.length).zip l.bytes).map fun p =>
        recordField r.id (at_ + 320 + 16 * l.place + p.1) 1 ((p.2.map (·.toNat)).getD 0) fun v x =>
          lane l (fun m => { m with bytes := setAt m.bytes p.1 (some (BitVec.ofNat 8 v)) }) x

/-- Section 7. -/
def State.imageRecords (s : State) (age : Nat) : ImageSection :=
  let rs := s.landing.filter fun r => r.age == age
  { len := 832 * rs.length, fields := ((List.range rs.length).zip rs).flatMap fun p => landingFields p.1 p.2 }

/-! ## Section 8: failure records -/

/-- The words of a failure record: those of the trap that it will raise, with its place in the issue order in word 5. -/
def failureWords (t : Trap) (order : Nat) : List Nat := (setAt t.record 5 (BitVec.ofNat 64 order)).map (·.toNat)

/-- Section 8.  The cause follows from the record. -/
def imageFailures (age : Nat) (g : Group) : ImageSection :=
  let n := g.work.failedRemote.length
  let words := fun (i : Nat) (l : List Nat) => ((List.range 8).zip l).map fun p => fixedField (64 * i + 8 * p.1) 8 p.2
  let remote := fun (i : Nat) (r : FailedRemote) =>
    let put := fun (f : Nat → FailedRemote → FailedRemote) (v : Nat) (h : Group) =>
      { h with work := { h.work with failedRemote := h.work.failedRemote.map fun x => if x.order = r.order then f v x else x } }
    [groupField age (64 * i + 1) 1 r.trap.detail (put fun v x => { x with detail := v }),
     groupField age (64 * i + 4) 4 r.trap.aux (put fun v x => { x with peer := v }),
     groupField age (64 * i + 8) 8 r.trap.addr.toNat (put fun v x => { x with addr := BitVec.ofNat 64 v }),
     groupField age (64 * i + 16) 8 r.pc.toNat (put fun v x => { x with pc := BitVec.ofNat 64 v }),
     groupField age (64 * i + 24) 4 r.trap.lanes.toNat (put fun v x => { x with lanes := BitVec.ofNat 32 v }),
     groupField age (64 * i + 32) 8 r.trap.word.toNat (put fun v x => { x with retries := v }),
     groupField age (64 * i + 40) 8 r.order (put fun v x => { x with order := v })]
      ++ words i (failureWords r.trap r.order)
  let engine := fun (i : Nat) (r : FailedEngine) =>
    let put := fun (f : Nat → FailedEngine → FailedEngine) (v : Nat) (h : Group) =>
      { h with work := { h.work with failedEngine := h.work.failedEngine.map fun x => if x.order = r.order then f v x else x } }
    [groupField age (64 * i + 1) 1 r.detail (put fun v x => { x with detail := v }),
     groupField age (64 * i + 4) 4 r.trap.aux (put fun v x => { x with peer := v }),
     groupField age (64 * i + 8) 8 r.addr.toNat (put fun v x => { x with addr := BitVec.ofNat 64 v }),
     groupField age (64 * i + 16) 8 r.pc.toNat (put fun v x => { x with pc := BitVec.ofNat 64 v }),
     groupField age (64 * i + 40) 8 r.order (put fun v x => { x with order := v })]
      ++ words i (failureWords r.trap r.order)
  { len := 64 * (n + g.work.failedEngine.length),
    fields := ((List.range n).zip g.work.failedRemote).flatMap (fun p => remote p.1 p.2)
      ++ ((List.range g.work.failedEngine.length).zip g.work.failedEngine).flatMap fun p => engine (n + p.1) p.2 }

/-! ## Section 9: pending operations (Table 15.14) -/

/-- What a descriptor holds. -/
structure Descriptor where
  type_ : Nat
  flag : Nat
  entry : Nat
  lanes : Nat
  pc : Nat
  reg : Nat
  op : Nat
  aux : Nat
  wa : Nat
  wb : Nat
  wc : Nat
  tile : Nat
  step : Nat
  gw : Nat
  deriving DecidableEq, Repr

/-- Its bytes as fields but for TYPE; `put` says what a write to the field at an offset changes. -/
def Descriptor.fields (d : Descriptor) (at_ : Nat) (put : Nat → Nat → State → State) : List ImageField :=
    [(1, 1, d.flag), (2, 2, d.entry), (4, 4, d.lanes), (8, 8, d.pc), (16, 2, d.reg), (18, 1, d.op), (20, 4, d.aux),
     (24, 8, d.wa), (32, 8, d.wb), (40, 8, d.wc), (48, 1, d.tile), (49, 1, d.step), (52, 4, d.gw)].map
      fun p => { pos := at_ + p.1, size := p.2.1, val := p.2.2, write := put p.1 }

/-- FLAG of an instruction in flight. -/
def Pend.flagByte (p : Pend) : Nat :=
  match p.flag with
  | some i => i + (if p.trapBank then 16 else 0)
  | none => 128

/-- A pending operation with its place in the issue order: descriptor, what a write to a field of it changes, and the load
whose staged data follow it.  `tag` is the request tag for a request of an XAT, and 0 for the others. -/
structure PendingOp where
  order : Nat
  tag : Nat := 0
  desc : Descriptor
  put : Nat → Nat → State → State
  load : Option (Nat × Load)

/-- The descriptor common to instructions in flight. -/
def Pend.desc (p : Pend) (t : Nat) : Descriptor :=
  { type_ := t, flag := p.flagByte, entry := p.entry % 128, lanes := p.lanes.toNat, pc := p.pc.toNat, reg := 0, op := 0, aux := 0,
    wa := 0, wb := 0, wc := 0, tile := 0, step := 0, gw := 0 }

/-- Size code of a load (Table 8.2). -/
def Load.sizeCode (l : Load) : Nat :=
  match l.size with
  | 1 => if l.signed then 1 else 0
  | 2 => if l.signed then 3 else 2
  | 4 => 4
  | 8 => 5
  | _ => 6

/-- A write to a field that every instruction in flight has. -/
def Pend.putField (off v : Nat) (p : Pend) : Pend :=
  match off with
  | 1 => { p with flag := if v.testBit 7 then none else some (v % 16), trapBank := v.testBit 4 }
  | 2 => { p with entry := v % 128 }
  | 4 => { p with lanes := BitVec.ofNat 32 v }
  | 8 => { p with pc := BitVec.ofNat 64 v }
  | _ => p

/-- Size of a size code, and whether it is signed (Table 8.2). -/
def sizeOfCode (n : Nat) : Nat × Bool :=
  match n with
  | 0 => (1, false)
  | 1 => (1, true)
  | 2 => (2, false)
  | 3 => (2, true)
  | 4 => (4, false)
  | 5 => (8, false)
  | _ => (16, false)

/-- The lanes of a load without data become those of a mask: one that has its data all at once has zeros. -/
def Load.setUnfinished (l : Load) (m : Nat) : Load :=
  let open_ := fun (lane : Nat) => m.testBit (lane % 32)
  { l with staged := (l.addrs.filter fun a => !open_ a.1).map fun a =>
    (l.staged.find? fun p => p.1 == a.1).getD (a.1, List.replicate l.size 0) }

/-- A write to a field of a load. -/
def Load.putField (off v : Nat) (l : Load) : Load :=
  match off with
  | 16 => { l with reg := v }
  | 18 => { l with size := (sizeOfCode (v % 8)).1, signed := (sizeOfCode (v % 8)).2, kind := v / 8 % 8 }
  | 20 => l.setUnfinished v
  | 32 => match l.addrs.find? fun a => l.waits a.1 with
    | some (lane, _) => { l with addrs := l.addrs.map fun a => if a.1 = lane then (lane, BitVec.ofNat 64 v) else a }
    | none => l
  | _ => l

/-- Change an instruction in flight. -/
def State.editPend (s : State) (id : Nat) (f : Pend → Pend) : State :=
  { s with pend := s.pend.map fun p => if p.id = id then f p else p }

/-- A write to the descriptor of a load. -/
def State.putLoad (id off v : Nat) (s : State) : State :=
  let s1 := s.editPend id fun p => match p.kind with
    | .load l => { p.putField off v with kind := .load (l.putField off v) }
    | _ => p
  if off = 24 then
    { s1 with parks := s1.parks.map fun k => if k.what = .load id ∨ k.what = .resent id then { k with token := v } else k }
  else s1

/-- A pending receive moves to a slot and a partner. -/
def Workgroup.moveRecv (w : Workgroup) (op slot partner : Nat) : Workgroup :=
  match w.slots.findSome? fun p => p.2.recv.filter fun r => r.op == op with
  | none => w
  | some r =>
    let left := w.slots.map fun p => (p.1, { p.2 with recv := p.2.recv.filter fun r => r.op != op })
    let old : Rendezvous := Map.get { send := none, recv := none } left slot
    { w with slots := Map.insert left slot { old with recv := some { r with partner := partner } } }

/-- A write to the descriptor of a receive. -/
def State.putRecv (id off v : Nat) (s : State) : State :=
  let s1 := s.editPend id fun p => match p.kind with
    | .xrecv slot partner m reg count =>
      { p.putField off v with kind := match off with
        | 16 => .xrecv slot partner m v count
        | 18 => .xrecv (v % 16) partner m reg (v / 16 % 4 + 1)
        | 20 => .xrecv slot v m reg count
        | _ => p.kind }
    | _ => p
  match s1.pend.find? fun p => p.id == id with
  | none => s1
  | some p => match p.kind with
    | .xrecv slot partner _ _ _ => { s1 with wgs := s1.wgs.map fun w => (w.1, w.2.moveRecv id slot partner) }
    | _ => s1

/-- A write to the descriptor of a request of an XAT. -/
def State.putXat (id sub tag off v : Nat) (s : State) : State :=
  let s1 := s.editPend id (·.putField off v)
  { s1 with remote := s1.remote.map fun r =>
    if r.id ≠ sub then r
    else match off with
      | 16 => { r with reg := v }
      | 18 => { r with op := BitVec.ofNat 3 v }
      | 20 => { r with peer := v }
      | 24 => { r with lines := r.lines.map fun q =>
          if q.tag = tag then { q with tag := v % 65536, retries := v / 65536 % 256 } else q }
      | _ => r }

/-- Descriptors of a load, a receive, and the requests of an XAT. -/
def State.pendOps (s : State) (p : Pend) : List PendingOp :=
  match p.kind with
  | .load l =>
    let left := (l.addrs.filter fun a => l.waits a.1).map (·.1)
    let token := ((s.parks.find? fun k => k.what == .load p.id || k.what == .resent p.id).map (·.token)).getD 0
    [{ order := p.id, put := State.putLoad p.id, load := some (p.id, l),
       desc := { p.desc 1 with reg := l.reg, op := l.sizeCode + 8 * l.kind, aux := (lanesMask left).toNat, wa := token,
                               wb := (l.lowest (lanesMask left)).toNat } }]
  | .xrecv slot partner _ reg count =>
    [{ order := p.id, put := State.putRecv p.id, load := none,
       desc := { p.desc 3 with reg := reg, op := slot % 16 + (count - 1) % 4 * 16, aux := partner } }]
  | .xat subs => (s.remote.filter fun r => subs.contains r.id).flatMap fun r =>
    ((List.range r.lines.length).zip r.lines).filterMap fun q =>
      if q.2.over then none
      else some { order := p.id, tag := q.2.tag, put := State.putXat p.id r.id q.2.tag, load := none,
                  desc := { p.desc 2 with reg := r.reg, op := r.op.toNat, aux := r.peer,
                                          wa := q.2.tag % 65536 + q.2.retries % 256 * 65536 } }
  | .result _ _ _ | .object _ | .wstat _ _ | .flush _ _ _ _ => []

/-- A member's part of an array operation. -/
def MmaPart.putField (off v : Nat) (p : MmaPart) : MmaPart :=
  match off with
  | 2 => { p with entry := v % 128 }
  | 4 => { p with lanes := BitVec.ofNat 32 v }
  | 8 => { p with pc := BitVec.ofNat 64 v }
  | 24 => { p with slotA := v % 128, side := v / 2 ^ 16 % 128 }
  | 32 => { p with rows := BitVec.ofNat 64 v }
  | 40 => { p with batch := v }
  | 48 => { p with tile := v % 32 }
  | _ => p

/-- A write to the descriptor of a member's part: what the members share changes for all. -/
def ObjectEntry.putField (age off v : Nat) (e : ObjectEntry) : ObjectEntry :=
  let mine := fun (p : MmaPart) => if p.age = age then p.putField off v else p
  match e.op with
  | .mma sparse fmt bs run steps next parts =>
    let parts1 := parts.map mine
    match off with
    | 18 => { e with op := .mma (v % 4 == 1) fmt bs run steps next parts1 }
    | 20 => { e with op := .mma sparse (BitVec.ofNat 32 v) bs (steps * fwSlots (v % 2 ^ 32)) steps next parts1 }
    | 24 =>
      let n := v / 2 ^ 24 % 4 + 1
      { e with op := .mma sparse fmt (v / 2 ^ 8 % 128) (n * fwSlots fmt.toNat) n next parts1 }
    | 49 => { e with op := .mma sparse fmt bs run steps (v % 4) parts1 }
    | _ => { e with op := .mma sparse fmt bs run steps next parts1 }
  | .guided tc tu w ac au oc ou parts =>
    if off = 48 then
      { e with op := .guided (if ac = age then v % 32 else tc) (if au = age then v % 32 else tu) w ac au oc ou (parts.map mine) }
    else { e with op := .guided tc tu w ac au oc ou (parts.map mine) }
  | _ => e

/-- A write to the descriptor of an array operation, in every image that holds it. -/
def State.putArray (id age off v : Nat) (s : State) : State :=
  let edit := fun (e : ObjectEntry) => if e.id = id then e.putField age off v else e
  { s with groups := s.groups.map fun p => (p.1, { p.2 with saved := p.2.saved.map fun i =>
      { i with aops := i.aops.map edit, shares := i.shares.map edit } }) }

/-- Descriptors of a saved array operation: the part of the member whose image it is. -/
def ObjectEntry.pendOps (e : ObjectEntry) (age : Nat) : List PendingOp :=
  let desc := fun (p : MmaPart) =>
    ({ type_ := 4, flag := 128, entry := p.entry % 128, lanes := p.lanes.toNat, pc := p.pc.toNat, reg := 0, op := 0, aux := 0, wa := 0,
       wb := p.rows.toNat, wc := p.batch, tile := p.tile, step := 0, gw := 0 } : Descriptor)
  let one := fun (p : MmaPart) (d : Descriptor) =>
    ({ order := p.op, put := State.putArray e.id age, load := none, desc := d } : PendingOp)
  match e.op with
  | .mma sparse fmt bs _ steps next parts => (parts.filter fun p => p.age == age).map fun p =>
    one p { desc p with op := if sparse then 1 else 0, aux := fmt.toNat, step := next,
                        wa := p.slotA + bs * 2 ^ 8 + p.side * 2 ^ 16 + (steps - 1) * 2 ^ 24 }
  | .guided _ _ _ _ _ _ _ parts => (parts.filter fun p => p.age == age).map fun p => one p { desc p with op := 2 }
  | _ => []

/-- A latched operation after a write to its descriptor. -/
def Latched.putField (off v : Nat) (l : Latched) : Latched :=
  match off with
  | 2 => { l with entry := v % 128 }
  | 4 => { l with lanes := BitVec.ofNat 32 v }
  | 8 => { l with pc := BitVec.ofNat 64 v }
  | 18 => { l with guided := v % 4 == 2, sparse := v % 4 == 1 }
  | 20 => { l with fmt := BitVec.ofNat 32 v }
  | 24 => { l with step := BitVec.ofNat 64 v }
  | 32 => { l with rows := BitVec.ofNat 64 v }
  | 40 => { l with batch := v }
  | 48 => { l with tile := v % 32 }
  | 52 => { l with weight := BitVec.ofNat 32 v }
  | _ => l

/-- Descriptor of a latched operation. -/
def Latched.pendOp (l : Latched) : PendingOp :=
  { order := l.op, load := none,
    put := fun off v s => s.onGroup l.age fun g => { g with saved := g.saved.map fun i =>
      { i with latched := i.latched.map (·.putField off v) } },
    desc := { type_ := 5, flag := 128, entry := l.entry % 128, lanes := l.lanes.toNat, pc := l.pc.toNat, reg := 0,
              op := if l.guided then 2 else if l.sparse then 1 else 0, aux := l.fmt.toNat, wa := l.step.toNat,
              wb := l.rows.toNat, wc := l.batch, tile := l.tile, step := 0, gw := if l.guided then l.weight.toNat else 0 } }

/-- Put an operation into its place in the issue order. -/
def insertOp : List PendingOp → PendingOp → List PendingOp
  | [], p => [p]
  | q :: l, p => if p.order < q.order then p :: q :: l else q :: insertOp l p

/-- Staged data of a parked load: word j of lane l at 128 j + 4 l; each byte that is staged can be rewritten. -/
def stagedFields (op at_ : Nat) (l : Load) : List ImageField :=
  l.staged.flatMap fun p => ((List.range p.2.length).zip p.2).map fun b =>
    { pos := at_ + 128 * (b.1 / 4) + 4 * (p.1 % 32) + b.1 % 4, size := 1, val := b.2.toNat,
      write := fun v s => s.onPend op (.load { l with staged := l.staged.map fun q =>
        if q.1 = p.1 then (q.1, setAt q.2 b.1 (BitVec.ofNat 8 v)) else q }) }

/-- TYPE of an operation: what was written to it, else its own. -/
def Saved.typeOf (i : Saved) (p : PendingOp) : Nat := ((i.types.find? fun t => t.1 == (p.order, p.tag)).map (·.2)).getD p.desc.type_

/-- The field of TYPE. -/
def typeField (age at_ : Nat) (i : Saved) (p : PendingOp) : ImageField :=
  savedField age at_ 1 (i.typeOf p) fun v x => { x with types := ((p.order, p.tag), v) :: x.types.filter fun t => t.1 != (p.order, p.tag) }

/-- The fields of operations from a place on, and where they end. -/
def opFields (age : Nat) (i : Saved) : Nat → List PendingOp → List ImageField × Nat
  | at_, [] => ([], at_)
  | at_, p :: ps =>
    let (staged, next) := match p.load with
      | some (op, l) => (stagedFields op (at_ + 64) l, at_ + 576)
      | none => ([], at_ + 64)
    let (fs, n) := opFields age i next ps
    (typeField age at_ i p :: p.desc.fields at_ p.put ++ staged ++ fs, n)

/-- The pending operations of a saved group, in issue order. -/
def State.savedOps (s : State) (age : Nat) (i : Saved) : List PendingOp :=
  ((s.pend.filter fun p => p.age == age).flatMap s.pendOps ++ (i.aops ++ i.shares).flatMap (fun e => e.pendOps age)
    ++ i.latched.toList.map (·.pendOp)).foldl insertOp []

/-- Section 9. -/
def State.imagePending (s : State) (age : Nat) (i : Saved) : ImageSection :=
  let (fs, n) := opFields age i 0 (s.savedOps age i)
  { len := n, fields := fs }

/-! ## Sections 10 and 11: tiles and slots -/

/-- The bytes of a map as fields that write the map back. -/
def bytesFields (age at_ n : Nat) (m : Cells Byte) (put : Cells Byte → Saved → Saved) : List ImageField :=
  (List.range n).map fun j => savedField age (at_ + j) 1 (Map.get 0 m j).toNat fun v => put (Map.set 0 m j (BitVec.ofNat 8 v))

/-- Section 10. -/
def imageTiles (age : Nat) (i : Saved) : ImageSection :=
  let unit_ := 64 + 49152
  let one := fun (k : Nat) (p : Nat × Tile) =>
    let put := fun (t : Tile) (x : Saved) => { x with tiles := setAt x.tiles k (p.1, t) }
    [savedField age (unit_ * k) 1 p.1 (fun v x => { x with tiles := setAt x.tiles k (v % 32, p.2) }),
     savedField age (unit_ * k + 1) 1 (if p.2.i32 then 1 else 0) (fun v => put { p.2 with i32 := v % 2 == 1 }),
     savedField age (unit_ * k + 8) 8 p.2.rv.toNat (fun v => put { p.2 with rv := BitVec.ofNat 64 v })]
    ++ (List.range 12288).map fun j => savedField age (unit_ * k + 64 + 4 * j) 4 (Map.get 0 p.2.data j).toNat fun v =>
        put { p.2 with data := Map.set 0 p.2.data j (BitVec.ofNat 32 v) }
  { len := unit_ * i.tiles.length, fields := ((List.range i.tiles.length).zip i.tiles).flatMap fun q => one q.1 q.2 }

/-- The slots of an image from a place on: a read-only-staged one carries no data. -/
def slotFields (age : Nat) : Nat → Nat → List (Nat × Slot) → List ImageField × Nat
  | at_, _, [] => ([], at_)
  | at_, k, p :: l =>
    let put := fun (o : Slot) (x : Saved) => { x with slots := setAt x.slots k (p.1, o) }
    let (ro, base, bits) := match p.2.ro with
      | some (b, r) => (1, b.toNat, r.toNat)
      | none => (0, 0, 0)
    let reloads := fun (n b r : Nat) => put { p.2 with ro := if n % 2 = 1 then some (BitVec.ofNat 64 b, BitVec.ofNat 128 r) else none }
    let head := [savedField age at_ 1 p.1 (fun v x => { x with slots := setAt x.slots k (v % 128, p.2) }),
      savedField age (at_ + 1) 1 ro (fun v => reloads v base bits),
      savedField age (at_ + 2) 1 p.2.tag (fun v => put { p.2 with tag := v % 4 }),
      savedField age (at_ + 8) 8 base (fun v => reloads ro v bits), savedField age (at_ + 16) 16 bits (fun v => reloads ro base v)]
    let (data, next) := if ro = 1 then ([], at_ + 64)
      else (bytesFields age (at_ + 64) 16384 p.2.data fun m => put { p.2 with data := m }, at_ + 64 + 16384)
    let (fs, n) := slotFields age next (k + 1) l
    (head ++ data ++ fs, n)

/-- Section 11. -/
def imageSlots (age : Nat) (i : Saved) : ImageSection :=
  let (fs, n) := slotFields age 0 0 i.slots
  { len := n, fields := fs }

/-! ## The whole image (Tables 15.5 and 15.6) -/

/-- The sections in order. -/
def State.imageSections (s : State) (age : Nat) (g : Group) (i : Saved) : List ImageSection :=
  [s.imageSpecials age g, imageScalars age g, s.imageSmall age g, imageSplits age g i, imageReturns age i,
   imageVectors age g 0 g.regs.alloc, imageVectors age g 512 8, s.imageRecords age, imageFailures age g,
   s.imagePending age i, imageTiles age i, imageSlots age i]

/-- The offset of each section: after the header, each aligned to 128 bytes. -/
def sectionStarts : Nat → List ImageSection → List (Nat × ImageSection)
  | _, [] => []
  | at_, x :: l => (at_, x) :: sectionStarts ((at_ + x.len + 127) / 128 * 128) l

/-- An entry of the directory: what was written to it, else the place and length of its section. -/
def Saved.dirOf (i : Saved) (k start len : Nat) : Nat := (Map.find? i.dir k).getD (if len = 0 then 0 else start + len * 2 ^ 32)

/-- The header's fields. -/
def State.imageHeader (s : State) (age : Nat) (g : Group) (i : Saved) (secs : List (Nat × ImageSection)) : List ImageField :=
  let gang := g.sys.gang
  let state := (if g.flow.trapMode then 1 else 0) + (if g.id.halted then 2 else 0) + (if g.id.dbl then 4 else 0)
    + (if gang.valid then 8 else 0) + (if gang.valid && gang.pair then 16 else 0)
  [fixedField 0 4 0x00020001,
   groupField age 4 2 (g.id.ctx % 4096) fun v h => { h with id := { h.id with ctx := v % 4096 } },
   groupField age 6 2 state fun v h =>
     { h with id := { h.id with halted := v.testBit 1, dbl := v.testBit 2 }, flow := { h.flow with trapMode := v.testBit 0 } },
   savedField age 8 8 i.age fun v x => { x with age := v },
   groupField age 16 8 g.id.launch.toNat fun v h => { h with id := { h.id with launch := BitVec.ofNat 64 v } },
   groupField age 24 8 g.id.wgIndex fun v h => { h with id := { h.id with wgIndex := v } },
   groupField age 32 1 g.id.num fun v h => { h with id := { h.id with num := v % 32 } },
   groupField age 33 1 (g.regs.alloc / 32) fun v h => { h with regs := { h.regs with alloc := 32 * v } },
   groupField age 34 1 (s.basePrio g % 16 + i.prio % 16 * 16) fun v h =>
     { h with id := { h.id with prio := some (v % 16) }, saved := h.saved.map fun x => { x with prio := v / 16 } }]
  ++ ((List.range 12).zip secs).map fun p => savedField age (64 + 8 * p.1) 8 (i.dirOf p.1 p.2.1 p.2.2.len) fun v x =>
    { x with dir := Map.insert x.dir p.1 v }

/-- Every field of the image, at its offset from the image's start. -/
def State.imageFields (s : State) (age : Nat) (g : Group) (i : Saved) : List ImageField :=
  let secs := sectionStarts 256 (s.imageSections age g i)
  s.imageHeader age g i secs ++ secs.flatMap fun p => p.2.fields.map fun f => { f with pos := p.1 + f.pos }

/-- The image that the window shows: that of the selected group while it is saved and halted (R379). -/
def State.shownImage (s : State) : List ImageField :=
  match Map.find? s.groups s.dbg.sel.toNat with
  | none => []
  | some g => match g.saved with
    | none => []
    | some i => if g.id.halted then s.imageFields g.id.age g i else []

/-- The field that holds a byte of an image. -/
def fieldAt (fs : List ImageField) (off : Nat) : Option ImageField :=
  fs.find? fun f => decide (f.pos ≤ off) && decide (off < f.pos + f.size)

/-- A byte of an image. -/
def byteIn (fs : List ImageField) (off : Nat) : Byte :=
  match fieldAt fs off with
  | some f => BitVec.ofNat 8 (f.val / 2 ^ (8 * (off - f.pos)))
  | none => 0

/-- A byte of the shown image. -/
def State.imageByte (s : State) (off : Nat) : Byte := byteIn s.shownImage off

/-- Write a byte of an image. -/
def State.writeIn (s : State) (fs : List ImageField) (off : Nat) (b : Byte) : State :=
  match fieldAt fs off with
  | some f =>
    let unit_ := 2 ^ (8 * (off - f.pos))
    f.write (f.val - f.val / unit_ % 256 * unit_ + b.toNat * unit_) s
  | none => s

/-- Write a byte of the shown image. -/
def State.writeImage (s : State) (off : Nat) (b : Byte) : State := s.writeIn s.shownImage off b

/-- DEBUG_IMAGE_WRITE (R379). -/
def execDebugImageWrite (off : Nat) (value : BitVec 8) (s : State) : Host.Outcome State Fault Refusal :=
  .next (s.writeImage off value)

end Sys2Proof.Machine
end

