-- ==== Sys2Proof/Machine/Windows.lean ====
section
/-! DEFINITION. The system windows: the memory window, the launch queues, the debug window and its image range, and the
platform window with the capability list (R196, R201, R202, R218, R340, R379, R391, R392, R405, R406, R408, R409). -/

namespace Sys2Proof.Machine

/-! ## Reads -/

/-- SDCTL as it reads (Table 8.16). -/
def State.sdctl (s : State) : Nat :=
  s.win.sdCtx % 4096 * 2 ^ 20 + (if s.sdBusy then 128 else 0) + (if s.win.sdOvr then 64 else 0)
    + (if s.win.sdErr then 32 else 0) + s.win.sdMode % 4 * 4

/-- The memory window (Table 8.11). -/
def State.readMemWindow (s : State) (off : Nat) : Nat :=
  match off with
  | 0x000 => s.win.mctBase.toNat
  | 0x008 => s.win.xlRoot.toNat
  | 0x010 => s.win.fqBase.toNat
  | 0x018 => s.win.fqSize.toNat
  | 0x020 => s.win.fqProd.toNat
  | 0x028 => s.win.fqCons.toNat
  | 0x040 => s.win.sdBase.toNat
  | 0x048 => s.win.sdLen.toNat
  | 0x050 => s.sdctl
  | _ => 0

/-- A debug command is in progress: a step, a Resume of a saved group, a halt that waits, or the save of the selected group. -/
def State.debugBusy (s : State) : Bool :=
  s.dbg.stepping.isSome || s.dbg.resuming.isSome || !s.dbg.halting.isEmpty || match Map.find? s.groups s.dbg.sel.toNat with
    | some g => g.id.saving == 4
    | none => false

/-- DBGSTAT (Table 15.7). -/
def State.dbgstat (s : State) : Nat :=
  let group := match Map.find? s.groups s.dbg.sel.toNat with
    | some g => 1 + (if g.id.halted then 2 else 0) + (if g.id.resident then 4 else 0) + (if g.id.dbl then 8 else 0)
    | none => 0
  group + (if s.debugBusy then 16 else 0) + (if s.dbg.refused then 32 else 0)

/-- The debug window. -/
def State.readDebug (s : State) (off : Nat) : Nat :=
  match off with
  | 0x000 => s.dbg.tvtBase.toNat
  | 0x008 => s.dbg.trBase.toNat
  | 0x040 => s.dbg.sel.toNat
  | 0x050 => s.dbgstat
  | _ =>
    if 0x080 ≤ off ∧ off < 0x0C0 then
      (Map.get 0 (if off % 16 = 0 then s.dbg.wpBase else s.dbg.wpCtl) ((off - 0x080) / 16)).toNat
    else 0

/-- The capability records in their order: ID and payload word (Table 16.8). -/
def State.capabilities (s : State) : List (Nat × Nat) :=
  [(1, 1 + 2 * 2 ^ 8 + 384 * 2 ^ 16), (2, 1), (3, 3), (4, 1), (5, 3),
   (6, s.pkg % 512 + s.rackN % 1024 * 2 ^ 16 + 144 * 2 ^ 32), (7, 4096 + 32 * 2 ^ 16),
   (8, 8 + 3600 * 2 ^ 8 + 86400 * 2 ^ 32), (9, 224 + 256 * 2 ^ 9)]

/-- System-window offset of the capability list (Table 16.2). -/
def capBase : Nat := 0x800080000

/-- Word n of the capability list: the records lie one after another, three words each (R409, log 26). -/
def State.capWord (s : State) (n : Nat) : Nat :=
  match s.capabilities[n / 3]? with
  | none => 0
  | some (id, word) => match n % 3 with
    | 0 => id + 2 ^ 16 + 2 ^ 24
    | 1 => if n / 3 + 1 < s.capabilities.length then capBase + 24 * (n / 3 + 1) else 0
    | _ => word

/-- MARGIN of a core: the plan, its clock lowered by the power limit (R406, R408). -/
def State.marginWord (s : State) (core : Nat) : Nat :=
  let m := (Map.get 0 s.plat.margin core).toNat
  m / 2 ^ 16 % 4096 * 2 ^ 16 + (m % 4096 - 25 * s.plat.throttle)

/-- The platform window (Table 16.2). -/
def State.readPlatform (s : State) (off : Nat) : Nat :=
  match off with
  | 0x000 => capBase
  | 0x008 => s.win.cxRoot.toNat
  | 0x010 => s.plat.pwrLim % 4096
  | 0x018 => s.plat.pwrNow % 4096
  | 0x020 => s.plat.timeOfs.toNat
  | 0x120 => s.plat.hmDest.toNat
  | 0x128 => (if s.plat.hmErr then 4 else 0) + (if s.plat.hmBusy then 2 else 0)
  | 0x3F8 => s.plat.rasLogN.toNat
  | _ =>
    if 0x040 ≤ off ∧ off < 0x080 then (Map.get 0 s.plat.live ((off - 0x040) / 8)).toNat
    else if 0x080 ≤ off ∧ off < 0x0C0 then (Map.get 0 s.plat.irqTgt ((off - 0x080) / 8)).toNat
    else if 0x140 ≤ off ∧ off < 0x160 then (Map.get 0 s.plat.pcieCtl ((off - 0x140) / 8)).toNat
    else if 0x200 ≤ off ∧ off < 0x300 then (Map.get 0 s.plat.rasCnt ((off - 0x200) / 8)).toNat
    else if 0x400 ≤ off ∧ off < 0x800 then
      (Map.get 0 s.plat.rasLog ((off - 0x400) / 16)).toNat / 2 ^ (8 * (off % 16)) % 2 ^ 64
    else if 0x800 ≤ off ∧ off < 0x1400 then s.marginWord ((off - 0x800) / 8)
    else if 0x10000 ≤ off ∧ off < 0x50000 then
      let g := (off - 0x10000) / 4
      (Map.get 0 s.plat.home g).toNat + (Map.get 0 s.plat.home (g + 1)).toNat * 2 ^ 32
    else if 0x80000 ≤ off then s.capWord ((off - 0x80000) / 8)
    else 0

/-- The 8 bytes at a window offset that is a multiple of 8; unassigned offsets read zero (R196). -/
def State.readWindow64 (s : State) (off : Nat) : Nat :=
  let o := off % 2 ^ 32
  match off / 2 ^ 32 with
  | 4 => s.readMemWindow o
  | 5 => if o < 128 * 1024 then s.readQueue (o / 128) (o % 128) else 0
  | 6 => s.readDebug o
  | 7 => bytesVal ((List.range 8).map fun i => s.imageByte (o + i))
  | 8 => s.readPlatform o
  | _ => 0

/-- The n bytes at a window offset, which lie in one 8-byte register. -/
def State.readWindow (s : State) (off n : Nat) : Nat :=
  s.readWindow64 (off / 8 * 8) / 2 ^ (8 * (off % 8)) % 2 ^ (8 * n)

/-! ## Writes

A write gives the value in its place within the 8-byte register and the mask of the bits that it covers. -/

/-- FAULTRESP (Table 8.12). -/
def State.writeFaultresp (s : State) (v mask : Nat) : State :=
  let w := mergeBits 0 v mask
  match w / 2 ^ 62 with
  | 1 => s.resumeToken (w % 2 ^ 32)
  | 2 => s.declineToken (w % 2 ^ 32)
  | _ => s

/-- The memory window. -/
def State.writeMemWindow (s : State) (off v mask : Nat) : State :=
  let new := fun (old : Word) => (BitVec.ofNat 64 (mergeBits old.toNat v mask) : Word)
  match off with
  | 0x000 => { s with win := { s.win with mctBase := new s.win.mctBase } }
  | 0x008 => { s with win := { s.win with xlRoot := new s.win.xlRoot } }
  | 0x010 => s.writeFaultReg 0x010 (new s.win.fqBase)
  | 0x018 => s.writeFaultReg 0x018 (new s.win.fqSize)
  | 0x028 => s.writeFaultReg 0x028 (new s.win.fqCons)
  | 0x030 => s.writeFaultresp v mask
  | 0x040 => { s with win := { s.win with sdBase := new s.win.sdBase } }
  | 0x048 => { s with win := { s.win with sdLen := new s.win.sdLen } }
  | 0x050 => if mask % 2 = 1 then s.writeSdctl (BitVec.ofNat 64 v) else s
  | _ => s

/-- DBGCMD (Table 15.7). -/
def State.writeDbgcmd (s : State) (v : Nat) : State :=
  match v % 8 with
  | 1 => s.cmdHalt
  | 2 => s.cmdResume
  | 3 => s.cmdStep
  | 4 => s.cmdSave
  | _ => s

/-- Bits of WPCTL that hold (Table 15.8). -/
def wpCtlMask : Nat := 0xFFF00000000 + 0x1FF

/-- The debug window. -/
def State.writeDebug (s : State) (off v mask : Nat) : State :=
  let new := fun (old : Word) => (BitVec.ofNat 64 (mergeBits old.toNat v mask) : Word)
  match off with
  | 0x000 => { s with dbg := { s.dbg with tvtBase := new s.dbg.tvtBase } }
  | 0x008 => { s with dbg := { s.dbg with trBase := new s.dbg.trBase } }
  | 0x040 => { s with dbg := { s.dbg with sel := new s.dbg.sel } }
  | 0x048 => if mask % 2 = 1 then s.writeDbgcmd v else s
  | _ =>
    if 0x080 ≤ off ∧ off < 0x0C0 then
      let w := (off - 0x080) / 16
      if off % 16 = 0 then
        { s with dbg := { s.dbg with wpBase := Map.set 0 s.dbg.wpBase w (new (Map.get 0 s.dbg.wpBase w)) } }
      else
        let x := new (Map.get 0 s.dbg.wpCtl w) &&& BitVec.ofNat 64 wpCtlMask
        { s with dbg := { s.dbg with wpCtl := Map.set 0 s.dbg.wpCtl w x } }
    else s

/-- A request for a hallmark, ignored while one is being produced (Table 16.4). -/
def State.requestHallmark (s : State) : State := { s with plat := { s.plat with hmBusy := true } }

/-- HMCTL: ERR is cleared by a 1, GO requests a report. -/
def State.writeHmctl (s : State) (v : Nat) : State :=
  let s1 : State := { s with plat := { s.plat with hmErr := s.plat.hmErr && !v.testBit 2 } }
  if v.testBit 0 then s1.requestHallmark else s1

/-- The platform window. -/
def State.writePlatform (s : State) (off v mask : Nat) : State :=
  let new := fun (old : Word) => (BitVec.ofNat 64 (mergeBits old.toNat v mask) : Word)
  match off with
  | 0x008 => { s with win := { s.win with cxRoot := new s.win.cxRoot } }
  | 0x010 => { s with plat := { s.plat with pwrLim := mergeBits s.plat.pwrLim v mask % 4096 } }
  | 0x120 => { s with plat := { s.plat with hmDest := new s.plat.hmDest } }
  | 0x128 => if mask % 2 = 1 then s.writeHmctl v else s
  | _ =>
    if 0x080 ≤ off ∧ off < 0x0C0 then
      let i := (off - 0x080) / 8
      { s with plat := { s.plat with irqTgt := Map.set 0 s.plat.irqTgt i (new (Map.get 0 s.plat.irqTgt i)) } }
    else if 0x100 ≤ off ∧ off < 0x120 then
      let l := (List.range 8).filter fun i => mask.testBit (8 * i)
      let put := fun (m : Cells Byte) (i : Nat) => Map.set 0 m (off - 0x100 + i) (BitVec.ofNat 8 (v / 2 ^ (8 * i)))
      { s with plat := { s.plat with nonce := l.foldl put s.plat.nonce } }
    else if 0x140 ≤ off ∧ off < 0x160 then
      let i := (off - 0x140) / 8
      { s with plat := { s.plat with pcieCtl := Map.set 0 s.plat.pcieCtl i (new (Map.get 0 s.plat.pcieCtl i) &&& 0xFFF) } }
    else s

/-- The image range: the bytes that the mask covers. -/
def State.writeImageBytes (s : State) (off v mask : Nat) : State :=
  ((List.range 8).filter fun i => mask.testBit (8 * i)).foldl (fun t i =>
    t.writeImage (off + i) (BitVec.ofNat 8 (v / 2 ^ (8 * i)))) s

/-- Write bytes at a window offset, within one 8-byte register; none while a full launch queue holds the write up (R341).
Writes to unassigned offsets and to what only reads are ignored. -/
def State.writeWindow (s : State) (off n v : Nat) : Option State :=
  let o := off % 2 ^ 32 / 8 * 8
  let sh := 8 * (off % 8)
  let v8 := v % 2 ^ (8 * n) * 2 ^ sh
  let mask := (2 ^ (8 * n) - 1) * 2 ^ sh
  match off / 2 ^ 32 with
  | 4 => some (s.writeMemWindow o v8 mask)
  | 5 =>
    if 128 * 1024 ≤ o then some s
    else if off % 128 < 64 then s.portWrite (o / 128) (off % 128) (valBytes n v)
    else some (s.writeQueue (o / 128) (o % 128) v8 mask)
  | 6 => some (s.writeDebug o v8 mask)
  | 7 => some (s.writeImageBytes o v8 mask)
  | 8 => some (s.writePlatform o v8 mask)
  | _ => some s

/-- REGISTER_WRITE (R9, R340, R379, R391): a control core writes a register of 8 bytes; none while the control cores are
held in reset (R403).  A write that a full queue holds up stays with the control core until it can be made, and its later accesses
behind it (R390). -/
def execRegisterWrite (reg : CoreWrite) (value : BitVec 64) (s : State) : Host.Outcome State Fault Refusal :=
  let e := Event.registerWrite reg.core reg.dest value
  let s0 := s.served e
  if !s.boot.verified then .next s0
  else if s.coreBlocked e reg.core then .next (s.keep e)
  else match s0.writeWindow (reg.dest / 8 * 8) 8 value.toNat with
    | some s1 => .next s1
    | none => .next (s.keep e)

end Sys2Proof.Machine
end

