-- ==== Sys2Proof/Machine/Boundary.lean ====
section
/-! DEFINITION. Accesses of other agents at the LLC slices and the control cache: control cores (R390), requests to control
space that this package homes (R396, R398), and PCIe (R399, R400). -/

namespace Sys2Proof.Machine

/-! ## At the LLC and the control cache -/

/-- An access of another agent to n bytes waits: a shootdown or a stall holds its page (R216, R397, R398), a store that
has not landed holds its bytes (R222), or a mark or an engine holds its line (R230, R248). -/
def State.agentWaits (s : State) (vk n : Nat) : Bool :=
  s.underShootdown vk || s.underShootdown (vk + n - 1)
    || (s.landing.any fun r => r.isPending && r.lanes.any fun l => r.touches l vk n)
    || (List.range (lineOf (vk + n - 1) + 1 - lineOf vk)).any fun i =>
        s.markHolds 512 (lineOf vk + i) || s.wherryOwns s.nextOp (lineOf vk + i)

/-- Write those bytes of a run that are there, where every line of it translates. -/
def State.agentStore (s : State) (vk : Nat) (l : List (Option Byte)) : Except Nat State :=
  let first := lineOf vk
  let ready := (List.range (lineOf (vk + l.length - 1) + 1 - first)).foldl (fun (t : Except Nat State) i =>
    match t with
    | .ok u => u.llcPresent ((first + i) * 128)
    | .error d => .error d) (.ok s)
  match ready with
  | .ok t => .ok (t.llcWrite ((List.range l.length).zip l |>.filterMap fun (p : Nat × Option Byte) => p.2.map fun b => (vk + p.1, b)))
  | .error d => .error d

/-- Write bytes where every one of them translates. -/
def State.agentWrite (s : State) (vk : Nat) (l : List Byte) : Except Nat State := s.agentStore vk (l.map some)

/-- Bytes that an operation of another agent moves. -/
def opSize (size : Nat) : AgentOp → Nat
  | .atomic code _ _ => atomicSize code
  | .store l => l.length
  | .fence => 0
  | .object _ => 8
  | _ => size

/-- Perform the operation of another agent: the bytes that it returns. -/
def State.agentPerform (s : State) (vk size : Nat) (op : AgentOp) : Except Nat (List Byte × State) :=
  match op with
  | .read => s.llcReads vk size
  | .write v => match s.agentWrite vk (valBytes size v.toNat) with
    | .ok t => .ok ([], t)
    | .error d => .error d
  | .store l => match s.agentStore vk l with
    | .ok t => .ok ([], t)
    | .error d => .error d
  | .fence => .ok ([], s)
  | .object u => match s.llcReads vk 8 with
    | .error d => .error d
    | .ok (old, t) => match t.agentWrite vk (valBytes 8 (objectNew u (bytesVal old))) with
      | .ok t1 => .ok (old, t1)
      | .error d => .error d
  | .atomic code a c => match s.llcReads vk (atomicSize code) with
    | .error d => .error d
    | .ok (old, t) =>
      let cut := fun (x : Word) => (BitVec.ofNat 64 (x.toNat % 2 ^ (8 * atomicSize code)) : Word)
      .ok (old, (t.performRemote code [(0, BitVec.ofNat 64 vk, cut a, cut c)]).2.2)

/-- What the home of a line is asked for, in place of an operation that this package cannot perform itself (R24). -/
def homeOp? (size : Nat) : AgentOp → Option HomeOp
  | .write v => some (.write ((valBytes size v.toNat).map some))
  | .store l => some (.write l)
  | .atomic code a c => some (.atomic code a c)
  | .object u => some (.object u)
  | .read | .fence => none

/-- The request to the home of its line that an operation becomes, if it does. -/
def State.farOp (s : State) (vk size : Nat) (op : AgentOp) : Option HomeOp := if s.asksHome vk then homeOp? size op else none

/-! ## Control cores (R390) -/

/-- What a control core receives of the bytes it read: nothing for a write. -/
def State.coreReply (s : State) (op : AgentOp) (l : List Byte) : State :=
  match op with
  | .write _ | .store _ | .fence => s
  | _ => s.send (.read (BitVec.ofNat 64 (bytesVal l)))

/-- An access of a control core to tensor or control space, by the home of a line that another package homes; one that
cannot be translated is an access fault (log 27). -/
def State.coreMemory (s : State) (core pa vk size : Nat) (op : AgentOp) : State :=
  match s.farOp vk size op with
  | some h => s.askHome (vk % 2 ^ 48) h (.core core)
  | none => match s.agentPerform vk size op with
    | .ok (l, t) => t.coreReply op l
    | .error _ => s.send (.accessFault pa)

/-- What an access of a control core does where nothing of the core is before it (Table 16.1): control space as SC, a window
of the package, a port's memory, or tensor space at the LLC with no check of rights. -/
def State.coreAccess (s : State) (core pa size : Nat) (op : AgentOp) : State :=
  let e := Event.controlCoreAccess core pa size op
  let s0 := s.served e
  let o := pa % 2 ^ 52
  let n := opSize size op
  match pa / 2 ^ 52 with
  | 0 =>
    if 2 ^ 48 ≤ o then s0.send (.accessFault pa)
    else if s.agentWaits (2 ^ 62 + o) n then s.keep e
    else s0.coreMemory core pa (2 ^ 62 + o) size op
  | 1 =>
    if 2 ^ 40 ≤ o then s0.send (.accessFault pa)
    else match op with
      | .read => s0.send (.read (BitVec.ofNat 64 (s.readWindow o size)))
      | .write v => (s0.writeWindow o size v.toNat).getD (s.keep e)
      | _ => s0.send (.accessFault pa)
  | 2 =>
    if 2 ^ 42 ≤ o then s0.send (.accessFault pa)
    else match op with
      | .read => s0.send (.pcieAccess (o / 2 ^ 40) (o % 2 ^ 40) size none)
      | .write v => s0.send (.pcieAccess (o / 2 ^ 40) (o % 2 ^ 40) size (some v))
      | _ => s0.send (.accessFault pa)
  | 3 =>
    let vk := (s.tensorAddr o).toNat
    if 2 ^ 48 ≤ o then s0.send (.accessFault pa)
    else if s.agentWaits vk n then s.keep e
    else s0.coreMemory core pa vk size op
  | _ => s0.send (.accessFault pa)

/-- CONTROL_CORE_ACCESS (R390): none while the control cores are held in reset (R403); a full fence is done once the core's
earlier accesses are. -/
def execControlCoreAccess (pa size : Nat) (op : CoreOp) (s : State) : Host.Outcome State Fault Refusal :=
  let e := Event.controlCoreAccess op.core pa size op.op
  if !s.boot.verified then .next (s.served e)
  else if s.coreBlocked e op.core then .next (s.keep e)
  else if op.op = .fence then .next (s.served e)
  else .next (s.coreAccess op.core pa size op.op)

/-! ## Requests to this package as a home (R396, R398)

What is written here is seen outside only once the mirror holds it. -/

/-- The bytes of a line at the LLC or the control cache. -/
def State.lineBytes (s : State) (line : Nat) : List Byte :=
  (List.range 128).map fun i => ((Map.find? s.mem.llc (line * 128 + i)).map (·.val)).getD 0

/-- Send a line to its mirror, with the result of a request that the mirror keeps beside it. -/
def State.sendCopy (s : State) (line : Nat) (result : Option (Nat × Nat × List Byte)) : State :=
  let t := match s.llcWhole line with
    | .ok t => t
    | .error _ => s
  State.send { t with mem := { t.mem with unmirrored := t.mem.unmirrored.filter (· != line) },
                      fabric := { t.fabric with copies := insertNat t.fabric.copies line } }
    (.mirrorCopy (s.mirrorPkg (line * 128 % 2 ^ 48)) line (t.lineBytes line) result)

/-- Give a requester its result for a line, which is kept until it acknowledges it (R398). -/
def State.answerHome (s : State) (src tag line : Nat) (l : List Byte) : State :=
  let all := (src, tag, l) :: s.fabric.answered.filter fun a => !(a.1 == src && a.2.1 == tag)
  let t : State := { s with fabric := { s.fabric with answered := all } }
  if src = s.pkg then { t with arrivals := t.arrivals ++ [.homeAnswer tag l] } else t.send (.homeReply src tag line l)

/-- A request for a line cannot be performed: the detail of Table 8.10. -/
def State.failHome (s : State) (src tag line d : Nat) : State :=
  if src = s.pkg then { s with arrivals := s.arrivals ++ [.homeFailed tag d] } else s.send (.homeFailure src tag line d)

/-- A request has been performed: its result goes out once the mirror holds the line (R396). -/
def State.homeDone (s : State) (req : HomeRequest) (l : List Byte) : State :=
  let line := lineOf (2 ^ 62 + req.off)
  if s.mirrored req.off && s.mem.unmirrored.contains line then
    let t := s.sendCopy line (some (req.src, req.tag, l))
    { t with fabric := { t.fabric with replies := t.fabric.replies ++ [(req.src, req.tag, l, line)] } }
  else s.answerHome req.src req.tag line l

/-- The copies of lines that a test selects are with their mirror: what waited for them goes out. -/
def State.copiesDone (s : State) (sel : Nat → Bool) : State :=
  let f := s.fabric
  let t : State := { s with fabric := { f with copies := f.copies.filter fun line => !sel line,
                                               replies := f.replies.filter fun r => !sel r.2.2.2 } }
  (f.replies.filter fun r => sel r.2.2.2).foldl (fun u r => u.answerHome r.1 r.2.1 r.2.2.2 r.2.2.1) t

/-- A request waits: for its bytes, or for the copy of its line.  One of this package itself has done its waiting for the bytes
before it was made. -/
def State.homeWaits (s : State) (req : HomeRequest) : Bool :=
  let vk := 2 ^ 62 + req.off
  (if req.src = s.pkg then s.underShootdown vk else s.agentWaits vk (opSize req.size req.op))
    || s.fabric.copies.contains (lineOf vk)

/-- CONTROL_HOME_REQUEST: a request is performed once; one whose tag was performed before gets that result again.  The
results that the requester acknowledges are forgotten.  A request for a granule homed elsewhere is dropped: its source
sends it again to the current home.  A line that was written here goes to its mirror before it is supplied. -/
def execControlHomeRequest (req : HomeRequest) (s : State) : Host.Outcome State Fault Refusal :=
  let e := Event.controlHomeRequest req
  let kept := s.fabric.answered.filter fun a => !(a.1 == req.src && req.acks.contains a.2.1)
  let s1 : State := { s with fabric := { s.fabric with answered := kept } }
  let s0 := s1.served e
  let line := lineOf (2 ^ 62 + req.off)
  match kept.find? fun a => a.1 == req.src && a.2.1 == req.tag with
  | some a => .next (s0.answerHome req.src req.tag line a.2.2)
  | none =>
    if s.fabric.lost.contains req.src || decide (2 ^ 48 ≤ req.off) || !s.homedHere req.off
        || s.fabric.replies.any fun r => r.1 == req.src && r.2.1 == req.tag then .next s0
    else if s.homeWaits req then .next (s1.keep e)
    else if s.mirrored req.off && s.mem.unmirrored.contains line then .next ((s1.keep e).sendCopy line none)
    else match s0.agentPerform (2 ^ 62 + req.off) req.size req.op with
      | .error d => .next (s0.failHome req.src req.tag line d)
      | .ok (l, t) => .next (t.homeDone req l)

/-! ## PCIe (R399, R400) -/

/-- The port of an inbound request. -/
def eventPort : Event → Option Nat
  | .pcieInboundRead p _ _ => some p
  | .pcieInboundWrite p _ _ => some p
  | .pcieAtomicop p _ _ _ _ _ => some p
  | _ => none

/-- A request of a port waits: for an earlier one of its port, or for its bytes. -/
def State.portWaits (s : State) (e : Event) (vk n : Nat) : Bool :=
  ((s.before e).any fun b => eventPort b == eventPort e)
    || ((eventPort e).any fun p => s.asking (.port p)) || s.agentWaits vk n

/-- The ports that work: the four of the package, once the boot checks have passed (R399, R403). -/
def State.portUp (s : State) (port : Nat) : Bool := s.boot.verified && decide (port < 4)

/-- The bytes of a run, line by line, with their keys. -/
def linePieces (vk : Nat) (l : List Byte) : List (Nat × List Byte) :=
  (List.range (lineOf (vk + l.length - 1) + 1 - lineOf vk)).map fun i =>
    let from_ := max vk ((lineOf vk + i) * 128)
    (from_, (l.drop (from_ - vk)).take ((lineOf vk + i + 1) * 128 - from_))

/-- The virtual key of an inbound address, if it lies in tensor space of this package or in control space and its context has
the right on every page that the request touches. -/
def State.pcieKey (s : State) (port : Nat) (a : Word) (n : Nat) (right : Rights → Bool) : Option Nat :=
  let ctx := (Map.get 0 s.plat.pcieCtl port).toNat % 4096
  let here := match space? a with
    | some .tensor => pkgOf a == s.pkg
    | some .control => true
    | _ => false
  let vk := a.toNat
  let pages := List.range (pageOf (vk + n - 1) + 1 - pageOf vk)
  let allowed := pages.all fun i => right (s.walkRights ctx (BitVec.ofNat 64 ((pageOf vk + i) * 65536)))
  if here && decide (offset48 a + n ≤ 2 ^ 48) && allowed then some vk else none

/-- An inbound request is refused: counted, and, unless it is a posted write, completed with Unsupported Request (R400). -/
def State.pcieRefuse (s : State) (port : Nat) (posted : Bool) : State :=
  let s1 := s.ras 15 0 0 0
  if posted then s1 else s1.send (.pcieUnsupported port)

/-- PCIE_INBOUND_READ. -/
def execPcieInboundRead (port : Nat) (addr : BitVec 64) (size : Nat) (s : State) : Host.Outcome State Fault Refusal :=
  let e := Event.pcieInboundRead port addr size
  let s0 := s.served e
  if !s.portUp port then .next s0
  else if s.portWaits e addr.toNat size then .next (s.keep e)
  else match s.pcieKey port addr size (·.rd) with
    | none => .next (s0.pcieRefuse port false)
    | some vk => match s0.llcReads vk size with
      | .error _ => .next (s0.pcieRefuse port false)
      | .ok (l, t) => .next (t.send (.pcieCompletion port l))

/-- PCIE_INBOUND_WRITE: to a control line that another package homes, by requests to its home. -/
def execPcieInboundWrite (port : Nat) (addr : BitVec 64) (data : List (BitVec 8)) (s : State) :
    Host.Outcome State Fault Refusal :=
  let e := Event.pcieInboundWrite port addr data
  let s0 := s.served e
  if !s.portUp port then .next s0
  else if s.portWaits e addr.toNat data.length then .next (s.keep e)
  else match s.pcieKey port addr data.length (·.wr) with
    | none => .next (s0.pcieRefuse port true)
    | some vk =>
      if s.asksHome vk then
        .next ((linePieces vk data).foldl (fun t p => t.askHome (p.1 % 2 ^ 48) (.write (p.2.map some)) (.port port)) s0)
      else match s0.agentWrite vk data with
        | .error _ => .next (s0.pcieRefuse port true)
        | .ok t => .next t

/-- The operation code of an AtomicOp of a size in bytes (Table 10.1). -/
def pcieCode (size : Nat) : PcieAtomic → Nat
  | .fetchAdd => if size = 8 then 0x01 else 0x00
  | .swap => if size = 8 then 0x11 else 0x10
  | .cas => if size = 8 then 0x13 else 0x12

/-- PCIE_ATOMICOP: `a` is the operand, for CAS the value compared with, and `c` the swap value.  Other sizes than 32 and 64
bits are not supported (R399). -/
def execPcieAtomicop (port : Nat) (addr : BitVec 64) (size : Nat) (op : PcieAtomic) (a c : BitVec 64) (s : State) :
    Host.Outcome State Fault Refusal :=
  let e := Event.pcieAtomicop port addr size op a c
  let s0 := s.served e
  if !s.portUp port then .next s0
  else if s.portWaits e addr.toNat size then .next (s.keep e)
  else if !(size == 4 || size == 8) || decide (addr.toNat % size ≠ 0) then .next (s0.pcieRefuse port false)
  else match s.pcieKey port addr size (·.at_) with
    | none => .next (s0.pcieRefuse port false)
    | some vk =>
      if s.asksHome vk then .next (s0.askHome (vk % 2 ^ 48) (.atomic (pcieCode size op) a c) (.port port))
      else match s0.agentPerform vk size (.atomic (pcieCode size op) a c) with
        | .error _ => .next (s0.pcieRefuse port false)
        | .ok (l, t) => .next (t.send (.pcieCompletion port l))

/-- PCIE_ERROR_REPORTED (R392, R399, R410): the port's AER registers hold it (log 98). -/
def execPcieErrorReported (port : Nat) (correctable : Bool) (s : State) : Host.Outcome State Fault Refusal :=
  if !s.portUp port then .next s
  else
    let bits := Map.get 0 s.plat.aer port ||| (if correctable then 1#2 else 2#2)
    let s1 : State := { s with plat := { s.plat with aer := Map.set 0 s.plat.aer port bits } }
    .next ((if correctable then s1.rasFree 13 else s1.rasFree 14).signal 7)

end Sys2Proof.Machine
end

