-- ==== Sys2Proof/Machine/MemInstr.lean ====
section
/-! DEFINITION. Loads and stores: majors 0x20 to 0x23 (R182 to R188, R196, R382). -/

namespace Sys2Proof.Machine

/-- Bytes per lane of a size code (Table 8.2). -/
def laneSize (sz : BitVec 3) : Nat :=
  match sz.toNat with
  | 0 | 1 => 1
  | 2 | 3 => 2
  | 4 => 4
  | 5 => 8
  | _ => 16

/-- The size code sign-extends. -/
def signedSize (sz : BitVec 3) : Bool := sz == 1#3 || sz == 3#3

/-- The accesses to system windows, which are made at issue in ascending lane order (R196). -/
def windowsOf (accs : List Access) : List Access := accs.filter (·.inWindow)

/-- The data that a load takes from system windows. -/
def State.windowData (s : State) (accs : List Access) : List (Nat × List Byte) :=
  (windowsOf accs).map fun a => (a.lane, valBytes a.size (s.readWindow (a.addr.toNat % 2 ^ 61) a.size))

/-- A window access comes after the data of an acquiring load of the group (R237). -/
def Ctx.windowOrder (c : Ctx) (s : State) (accs : List Access) : Except Stop Unit :=
  need ((windowsOf accs).isEmpty || !s.acquiring c.age) (.hold (.loads s.nextOp))

/-- Write the window lanes of a store in order; the queue that holds one up, if any. -/
def State.storeWindows (s : State) : List (Nat × Word × List Byte) → Except Nat State
  | [] => .ok s
  | p :: l =>
    let off := p.2.1.toNat % 2 ^ 61
    match s.writeWindow off p.2.2.length (bytesVal p.2.2) with
    | none => .error (off % 2 ^ 32 / 128)
    | some s1 => s1.storeWindows l

/-- A load in flight, with what it took from windows. -/
def Ctx.beginLoad (c : Ctx) (s : State) (l : Load) (accs : List Access) : Except Stop State := do
  c.windowOrder s accs
  .ok (c.startLoad s c.flagA .ld { l with staged := s.windowData accs })

/-- Store lanes: windows and shared memory at once, the others by a landing record. -/
def Ctx.storeLanes (c : Ctx) (s : State) (kind sz : Nat) (stream : Bool) (accs : List Access)
    (ls : List (Nat × Word × List Byte)) : Except Stop State := do
  c.windowOrder s accs
  let mark := accs.findSome? fun a => c.plainMark a.addr
  let s1 ← c.storeTo s kind sz stream mark ls
  match s1.storeWindows (ls.filter fun p => decide (p.2.1.toNat / 2 ^ 61 = 7)) with
  | .ok s2 => .ok (c.finish s2 id)
  | .error q => .error (.hold (.queueRoom q))

/-- LD (R182 to R187). -/
def execLd (x : Bool) (sz : BitVec 3) (m : Bool) (o : BitVec 7) (b : BitVec 6) (t : BitVec 7) (s : State) :
    Host.Outcome State Fault Refusal :=
  let size := laneSize sz
  runMem s
    { path := some .ld,
      pre := fun c => do
        c.checkRuns ((t.toNat, max 1 (size / 4)) :: runOff o)
        c.needA
        c.checkEcc c.active (runOff o),
      reads := true,
      rule := { right := .read, window := true },
      accs := fun c => c.laneAccesses x o b size,
      watchRd := true } fun c s =>
    let accs := c.laneAccesses x o b size
    c.beginLoad s (c.loadOf s 0 0 size (signedSize sz) m (c.g.vKey t.toNat) accs) accs

/-- ST (R182 to R187). -/
def execSt (x : Bool) (sz : BitVec 3) (m : Bool) (o : BitVec 7) (b : BitVec 6) (t : BitVec 7) (s : State) :
    Host.Outcome State Fault Refusal :=
  let size := laneSize sz
  let runs := (t.toNat, max 1 (size / 4)) :: runOff o
  runMem s
    { path := some .st,
      pre := fun c => do
        c.checkRuns runs
        c.checkEcc c.active runs,
      rule := { right := .write, window := true },
      accs := fun c => c.laneAccesses x o b size,
      watchWr := true } fun c s =>
    let accs := c.laneAccesses x o b size
    c.storeLanes s 0 sz.toNat m accs (c.storeData accs t.toNat size)

/-- The one access of LDS and STS (R188). -/
def Ctx.scalarAccess (c : Ctx) (i : BitVec 13) (b : BitVec 6) : Access := { lane := 32, addr := c.scalarAddr i b, size := 8 }

/-- LDS (R188). -/
def execLds (imm : BitVec 13) (b d : BitVec 6) (s : State) : Host.Outcome State Fault Refusal :=
  runMem s
    { path := some .ld,
      pre := fun c => c.needA,
      reads := true,
      rule := { right := .read, window := true },
      accs := fun c => [c.scalarAccess imm b],
      watchRd := true } fun c s =>
    let accs := [c.scalarAccess imm b]
    c.beginLoad s (c.loadOf s 1 0 8 false false (c.g.sKey d) accs) accs

/-- STS (R188). -/
def execSts (imm : BitVec 13) (b t : BitVec 6) (s : State) : Host.Outcome State Fault Refusal :=
  runMem s
    { path := some .st,
      pre := fun _ => .ok (),
      rule := { right := .write, window := true },
      accs := fun c => [c.scalarAccess imm b],
      watchWr := true } fun c s =>
    let a := c.scalarAccess imm b
    c.storeLanes s 1 5 false [a] [(32, a.addr, valBytes 8 (c.g.s t).toNat)]

end Sys2Proof.Machine
end

