-- ==== Sys2Proof/Machine/Rack.lean ====
section
/-! DEFINITION. The package in its rack: the fabric and the loss of packages (R393, R397, R398), time alignment (R401), boot,
rack assignment and the hallmark (R402 to R405), margins, droop and power (R406 to R408), and ECC events (R372, R410). -/

namespace Sys2Proof.Machine

/-! ## Live packages (Table 16.2) -/

/-- Package p is live. -/
def State.live (s : State) (p : Nat) : Bool := (Map.get 0 s.plat.live (p / 64)).getLsbD (p % 64)

/-- The live packages, in order. -/
def State.livePackages (s : State) : List Nat := (List.range 512).filter s.live

/-- When a package was last heard, in ns; this package hears itself. -/
def State.heardLately (s : State) (p : Nat) : Bool :=
  p == s.pkg || decide (s.timeNs < Map.get 0 s.fabric.heard p + 200000)

/-- The lowest live package that is not suspected. -/
def State.lowestLive (s : State) : Option Nat :=
  (s.livePackages.filter fun p => !s.fabric.suspected.contains p).head?

/-! ## Links and heartbeats (R393, R397) -/

/-- FLIT_CRC_FAIL: a flit is sent again; the failures of a port in a row are counted. -/
def execFlitCrcFail (port : Nat) (s : State) : Host.Outcome State Fault Refusal :=
  if portCount ≤ port then .next s
  else
  let n := Map.get 0 s.fabric.crcFails port + 1
  .next (State.ras { s with fabric := { s.fabric with crcFails := Map.set 0 s.fabric.crcFails port n } } 11 0 0 0)

/-- A flit of a port passes its check: no failures in a row are left; after the sixteenth the link goes down all the same. -/
def State.flitGood (s : State) (port : Nat) : State :=
  if 16 ≤ Map.get 0 s.fabric.crcFails port then s
  else { s with fabric := { s.fabric with crcFails := Map.set 0 s.fabric.crcFails port 0 } }

/-- LINK_DOWN: a flit has failed 16 times in a row, and the port's plane is out of use. -/
def execLinkDown (port : Nat) (s : State) : Host.Outcome State Fault Refusal :=
  if portCount ≤ port ∨ Map.get 0 s.fabric.crcFails port < 16 ∨ s.fabric.down.contains port = true then .next s
  else .next (State.rasFree { s with fabric := { s.fabric with down := port :: s.fabric.down } } 12)

/-- The links that go down: a flit of theirs has failed 16 times in a row. -/
def State.linksFailed (s : State) : List Nat :=
  (s.fabric.crcFails.filter fun p => decide (16 ≤ p.2) && decide (p.1 < portCount) && !s.fabric.down.contains p.1).map (·.1)

/-- A heartbeat is due: every 10 µs, of a package that has joined the rack (R397, R403, R404). -/
def State.beatDue (s : State) : Bool := s.boot.verified && s.boot.joined && decide (s.fabric.beatAt ≤ s.timeNs)

/-- The grandmaster of the rack's time: the lowest live package, which takes the place of a lost one without a step
(R401). -/
def State.grandmaster (s : State) : Bool := s.livePackages.head? == some s.pkg

/-- The grandmaster tells its time; the spec does not say how often, and the model does it with each heartbeat (log 104). -/
def State.sendTime (s : State) : State :=
  if s.grandmaster then s.send (.timeSync (BitVec.ofNat 64 s.timeNs)) else s

/-- HEARTBEAT_SEND. -/
def execHeartbeatSend (s : State) : Host.Outcome State Fault Refusal :=
  if s.beatDue then
    .next (State.sendTime (State.send { s with fabric := { s.fabric with beatAt := s.timeNs + 10000 } } .heartbeat))
  else .next s

/-- HEARTBEAT_RECEIVE. -/
def execHeartbeatReceive (pkg : Nat) (s : State) : Host.Outcome State Fault Refusal :=
  .next { s with fabric := { s.fabric with heard := Map.set 0 s.fabric.heard pkg s.timeNs,
                                           suspected := s.fabric.suspected.filter (· != pkg) } }

/-- A notice of loss waits to be applied. -/
def State.noticed (s : State) (p : Nat) : Bool := s.inbox.any fun i => i.2 == .lossNotice p

/-- Send the notices that fall to this package: it is the lowest live package that is not suspected. -/
def State.sendNotices (s : State) : State :=
  if s.lowestLive = some s.pkg then
    (s.fabric.suspected.filter fun p => s.live p && !s.noticed p).foldl (fun t p =>
      State.send { t with inbox := t.inbox ++ [(false, .lossNotice p)] } (.loss p)) s
  else s

/-- A live package has not been heard for 200 µs. -/
def State.unheard (s : State) (p : Nat) : Bool :=
  s.live p && !s.heardLately p && !s.fabric.suspected.contains p

/-- PEER_SUSPECT. -/
def execPeerSuspect (pkg : Nat) (s : State) : Host.Outcome State Fault Refusal :=
  if s.unheard pkg then
    .next (State.sendNotices { s with fabric := { s.fabric with suspected := pkg :: s.fabric.suspected } })
  else .next s

/-- Fewer than half of the live packages were heard for 200 µs, this one counted. -/
def State.cutOff (s : State) : Bool :=
  s.boot.joined && !s.fabric.isolated
    && decide (2 * (s.livePackages.filter s.heardLately).length < s.livePackages.length)

/-- Number of launch queues (Table 14.5). -/
def queueCount : Nat := 1024

/-- PACKAGE_ISOLATED: every queue is reset, and control space stalls without bound. -/
def execPackageIsolated (s : State) : Host.Outcome State Fault Refusal :=
  if s.cutOff then
    .next ((List.range queueCount).foldl (fun t q => t.resetQueue q 2) { s with fabric := { s.fabric with isolated := true } })
  else .next s

/-! ## Loss of a package (R398) -/

/-- The first live package above p, in cyclic order. -/
def State.nextLive (s : State) (p : Nat) : Nat :=
  let l := s.livePackages
  ((l.filter fun q => p < q) ++ l).headD p

/-- A home map entry. -/
def homeWord (home mirror : Nat) : BitVec 32 := BitVec.ofNat 32 (2 ^ 31 + mirror % 512 * 2 ^ 9 + home % 512)

/-- Home and mirror of an entry. -/
def homeOf (e : BitVec 32) : Nat := e.toNat % 512
def mirrorOf (e : BitVec 32) : Nat := e.toNat / 2 ^ 9 % 512

/-- No access to a granule whose entry is not valid completes: what the control cache and the control die's translations
hold of it is gone (R395). -/
def State.dropGranule (s : State) (g : Nat) : State :=
  let inside := fun (vk : Nat) => keySpace vk == .control && vk % 2 ^ 48 / 2 ^ 30 == g
  let line := fun (l : Nat) => inside (l * 128)
  let run := fun (p : Nat × PageRun) => p.1 == 16 && inside (p.2.vpage * 65536)
  let m := s.mem
  { s with mem := { m with llc := m.llc.filter fun p => !inside p.1, llcLanded := m.llcLanded.filter fun l => !line l,
                           marks := m.marks.filter fun p => !line p.1, xlate := m.xlate.filter fun p => !run p,
                           unmirrored := m.unmirrored.filter fun l => !line l } }

/-- One granule when a package is lost: nothing where it was neither home nor mirror.  A granule whose other copy is
also lost, or not yet complete, is lost in both. -/
def State.rehome (s : State) (p : Nat) (c : Nat × BitVec 32) : State :=
  let (g, e) := c
  let put := fun (w : BitVec 32) => Map.set 0 s.plat.home g w
  if e.toNat / 2 ^ 31 = 0 ∨ (homeOf e ≠ p ∧ mirrorOf e ≠ p) then s
  else if homeOf e = p ∧ (s.fabric.rebuilding.contains g = true ∨ s.live (mirrorOf e) = false) then
    State.rasFree (State.dropGranule { s with plat := { s.plat with home := put 0 } } g) 10
  else
    let home := if homeOf e = p then mirrorOf e else homeOf e
    let f := s.fabric
    let taken := if homeOf e = p ∧ home = s.pkg then insertNat f.taken g else f.taken
    { s with plat := { s.plat with home := put (homeWord home (s.nextLive home)) },
             fabric := { f with rebuilding := insertNat f.rebuilding g, taken := taken } }

/-- A byte of a control line that this package homes, for a copy of it: in the control cache, in the frames of the mirror's copy that it
took over, or in the frame that the line was translated to. -/
def State.homeByte (s : State) (k : Nat) : Byte :=
  let off := k % 2 ^ 48
  match Map.find? s.mem.llc k with
  | some b => b.val
  | none =>
    if s.fabric.taken.contains (off / 2 ^ 30) then Map.get 0 s.mem.phys (2 ^ 41 + off)
    else match findPage s.mem.owners (k / 65536) with
      | some f => Map.get 0 s.mem.phys (f * 65536 + k % 65536)
      | none => 0

/-- The lines of a granule that this package homes and that hold anything: those of the control cache, of the copy that it took over,
and of the frames that its pages were translated to. -/
def State.granuleLines (s : State) (g : Nat) : List Nat :=
  let first := (2 ^ 62 + g * 2 ^ 30) / 128
  let cached := (s.mem.llc.map fun p => lineOf p.1)
    ++ (s.mem.phys.filter fun p => decide (2 ^ 41 ≤ p.1)).map fun p => lineOf (p.1 - 2 ^ 41 + 2 ^ 62)
  let stored := s.mem.owners.flatMap fun r => (s.mem.phys.filter fun p =>
    decide (r.frame * 65536 ≤ p.1) && decide (p.1 < (r.frame + r.count) * 65536)).map fun p =>
      lineOf (r.vpage * 65536 + (p.1 - r.frame * 65536))
  ((cached ++ stored).filter fun l => decide (first ≤ l) && decide (l < first + 2 ^ 23)).eraseDups

/-- Send the copy of a line to a new mirror, with the result of a request that waits for it. -/
def State.streamCopy (s : State) (line : Nat) : State :=
  let result := (s.fabric.replies.find? fun r => r.2.2.2 == line).map fun r => (r.1, r.2.1, r.2.2.1)
  State.send { s with mem := { s.mem with unmirrored := s.mem.unmirrored.filter (· != line) },
                      fabric := { s.fabric with copies := insertNat s.fabric.copies line } }
    (.mirrorCopy (s.mirrorPkg (line * 128 % 2 ^ 48)) line ((List.range 128).map fun i => s.homeByte (line * 128 + i)) result)

/-- The copies of a granule that lost its home or its mirror to `p` stream to its new mirror, where this package homes it (R398). -/
def State.streamGranule (s : State) (p : Nat) (c : Nat × BitVec 32) : State :=
  let off := c.1 * 2 ^ 30
  if c.2.toNat / 2 ^ 31 = 1 ∧ (homeOf c.2 = p ∨ mirrorOf c.2 = p) ∧ s.homedHere off = true ∧ s.mirrored off = true then
    (s.granuleLines c.1).foldl State.streamCopy s
  else s

/-- Send a request that had no response again, with its tag, to the current home: this package where it is the home now.  A
granule without a home gives detail 1 (R398, step 4). -/
def State.resendAsk (s : State) (a : HomeAsk) : State :=
  if !s.homeValid a.off then { s with arrivals := s.arrivals ++ [.homeFailed a.tag 1] }
  else if s.homedHere a.off then { s with inbox := s.inbox ++ [(false, .controlHomeRequest (a.request s.pkg))] }
  else s.send (.homeRequest (s.homePkg a.off) a.tag a.off a.op [])

/-- LOSS_NOTICE (R398): steps 1 to 4, and the copies to the new mirrors begin to stream.  The control cache keeps no directory here,
and a line that the lost package held reverts to what this home holds (step 5; log 99); the stalled requests resume once the
rebuild completes (step 6; log 47). -/
def execLossNotice (pkg : Nat) (s : State) : Host.Outcome State Fault Refusal :=
  let s0 := s.served (.lossNotice pkg)
  if !s.live pkg || pkg == s.pkg then .next s0
  else
    let w := Map.get 0 s0.plat.live (pkg / 64) &&& ~~~(1#64 <<< (pkg % 64))
    let f := s0.fabric
    let s1 : State := { s0 with
      plat := { s0.plat with live := Map.set 0 s0.plat.live (pkg / 64) w },
      fabric := { f with lost := insertNat f.lost pkg, suspected := f.suspected.filter (· != pkg),
                         answered := f.answered.filter fun a => a.1 != pkg } }
    let s2 := s1.plat.home.foldl (fun t c => t.rehome pkg c) s1
    let s2 := s0.plat.home.foldl (fun t c => t.streamGranule pkg c) s2
    let s3 := (s.fabric.asks.filter fun a => s.homePkg a.off == pkg).foldl State.resendAsk s2
    .next (((((s3.signal 1).losePeer pkg).loseWherry pkg).loseFerry pkg).shootdownAnswer pkg).sendNotices

/-- The new mirrors hold the copies of the granules being rebuilt that this package homes. -/
def State.rebuilt (s : State) : Bool :=
  !s.fabric.copies.any fun line => s.fabric.rebuilding.contains (line * 128 % 2 ^ 48 / 2 ^ 30)

/-- LOSS_REBUILD_COMPLETE: once the copies are whole, the stalled requests resume. -/
def execLossRebuildComplete (s : State) : Host.Outcome State Fault Refusal :=
  if s.rebuilt then .next { s with fabric := { s.fabric with rebuilding := [] } } else .next s

/-! ## Time (R401) -/

/-- TIME_SYNC_MESSAGE: the offset of TIMENS from the grandmaster, in ns; the grandmaster itself follows nobody.  Before any
queue has been enabled TIMENS may be stepped once, forward; else it is slewed. -/
def execTimeSyncMessage (offset : Int) (s : State) : Host.Outcome State Fault Refusal :=
  if s.grandmaster then .next s
  else
  let s1 : State := { s with plat := { s.plat with timeOfs := BitVec.ofInt 64 offset } }
  let s2 := if 100 < offset.natAbs then s1.rasFree 18 else s1
  if !s.boot.stepped && !s.boot.queued && decide (offset < 0) then
    .next { s2 with time8 := s2.time8 + 8 * offset.natAbs, boot := { s2.boot with stepped := true },
                    plat := { s2.plat with slew := 0 } }
  else .next { s2 with plat := { s2.plat with slew := -8 * offset } }

/-! ## Boot (R402, R403) -/

/-- n bytes of a record from a byte on. -/
def field (l : List Byte) (off n : Nat) : List Byte := (l.drop off).take n

/-- A little-endian field. -/
def fieldVal (l : List Byte) (off n : Nat) : Nat := bytesVal (field l off n)

/-- SHA3-256 of a message. -/
def digest (l : List Byte) : List Byte := (List.range 32).map (Config.sha3 l)

/-- LENGTH of a configuration record. -/
def recLength (l : List Byte) : Nat := fieldVal l 4 4

/-- SECVER, PARTID, SIGNKEY, RACKKEY, DEVKEY and DEVCERT of a configuration record (Table 16.6). -/
def recSecver (l : List Byte) : Nat := fieldVal l 8 8
def recPartid (l : List Byte) : List Byte := field l 16 16
def recSignKey (l : List Byte) : List Byte := field l 7572 1312
def recRackKey (l : List Byte) : List Byte := field l 8884 1312
def recDevKey (l : List Byte) : List Byte := field l 3840 1312
def recDevCert (l : List Byte) : List Byte := field l 5152 2420

/-- The checks of R403 on the record and the firmware images. -/
def bootChecks (rollback : Nat) (i : BootImage) : Bool :=
  let r := i.record
  digest (recSignKey r) == (List.range 32).map Config.romDigest
    && Config.verifies (recSignKey r) (digest (r.take (recLength r))) (field r (recLength r) 2420)
    && decide (rollback ≤ recSecver r)
    && Config.firmwareVerifies (recSignKey r) i.mgmtFirmware (recSecver r)
    && Config.firmwareVerifies (recSignKey r) i.coreFirmware (recSecver r)

/-- What the record says of the parts that are enabled, remapped and repaired (Table 16.6): the enabled physical cores of a die,
the physical core of a logical one, the defective slice of a sub-core of a physical core, and the repair code of an HBM
entry with its stack.  No result, bound or logical number depends on them (R13). -/
def recEnable (l : List Byte) (die : Nat) : Nat := fieldVal l (32 + 8 * die) 8 % 2 ^ 52
def recPhysical (l : List Byte) (core : Nat) : Nat × Nat := (core / 48, fieldVal l (96 + core) 1)
def recRemap (l : List Byte) (entry sub : Nat) : Option Nat :=
  let e := fieldVal l (480 + 2 * entry) 2
  if e / 16 % 4 = sub ∧ e % 16 ≠ 15 then some (e % 16) else none
def recRepair (l : List Byte) (entry : Nat) : Nat × Nat :=
  let e := fieldVal l (1248 + 4 * entry) 4
  (e % 16, e / 16)

/-- The physical core of a logical one: its die and its index there (R13). -/
def State.physicalCore (s : State) (core : Nat) : Nat × Nat := recPhysical s.boot.record core

/-- MARGIN of each core, from the record. -/
def recMargins (l : List Byte) : Cells Word :=
  ((List.range 384).map fun c => (c, fieldVal l (2272 + 4 * c) 4)).foldl (fun m p =>
    Map.set 0 m p.1 (BitVec.ofNat 64 (p.2 / 2 ^ 16 % 2 ^ 12 * 2 ^ 16 + p.2 % 2 ^ 12))) []

/-- The registers whose reset value is the configuration's. -/
def State.configure (s : State) (r : List Byte) : State :=
  let size := fieldVal r 3824 8
  { s with
    win := { s.win with xlRoot := BitVec.ofNat 64 (fieldVal r 3808 8), cxRoot := BitVec.ofNat 64 (fieldVal r 3816 8),
                        reserved := (Config.reservedBase size, size) },
    plat := { s.plat with margin := recMargins r } }

/-- BOOT_VERIFY: at reset the boot ROM verifies the record and the firmware; a failed check leaves all in reset. -/
def execBootVerify (image : BootImage) (s : State) : Host.Outcome State Fault Refusal :=
  let r := image.record
  if s.boot.verified then .next s
  else if bootChecks s.boot.rollback image then
    let measures := (List.range 32).map Config.romIdentity ++ digest (r.take (recLength r + 2420))
      ++ digest image.mgmtFirmware ++ digest image.coreFirmware
    .next (State.configure { s with boot := { s.boot with verified := true, rollback := recSecver r, record := r,
                                                          measures := measures } } r)
  else .next (s.send .managementFailure)

/-! ## Joining the rack (R404) -/

/-- The checks of a rack assignment record. -/
def State.rackChecks (s : State) (l : List Byte) : Bool :=
  let count := fieldVal l 22 2 % 1024
  Config.verifies (recRackKey s.boot.record) (digest (l.take 64)) (field l 64 2420)
    && field l 4 16 == recPartid s.boot.record
    && decide (1 ≤ count) && decide (count ≤ 512) && decide (fieldVal l 20 2 % 512 < count)
    && decide (s.boot.epoch ≤ fieldVal l 24 8)

/-- PKGLIVE of a rack of n packages. -/
def rackLive (n : Nat) : Cells Word :=
  ((List.range 8).map fun w => (w, (BitVec.ofNat 64 (2 ^ min 64 (n - 64 * w) - 1) : Word))).filter fun p => p.2 != 0

/-- HOMEMAP of a rack of n packages. -/
def rackHomes (n : Nat) : Cells (BitVec 32) :=
  (List.range (128 * n)).map fun g => (g, homeWord (g / 128) ((g / 128 + 1) % n))

/-- The bring-up is over: a record was accepted, or a queue has been enabled. -/
def State.broughtUp (s : State) : Bool := s.boot.joined || s.boot.queued

/-- RACK_ASSIGNMENT_RECORD: a record that passes every check writes the fields whose reset value is the rack's; another is
counted.  After the bring-up PKGLIVE and HOMEMAP change only by a loss, and a further record that passes changes nothing
(log 105).  The packages of the rack count as heard from now on. -/
def execRackAssignmentRecord (bytes : List (BitVec 8)) (s : State) : Host.Outcome State Fault Refusal :=
  if !s.boot.verified || (s.rackChecks bytes && s.broughtUp) then .next s
  else if s.rackChecks bytes then
    let n := fieldVal bytes 22 2 % 1024
    .next { s with
      pkg := fieldVal bytes 20 2 % 512,
      rackN := n,
      plat := { s.plat with live := rackLive n, home := rackHomes n },
      boot := { s.boot with epoch := fieldVal bytes 24 8, joined := true },
      fabric := { s.fabric with heard := (List.range n).foldl (fun m p => Map.set 0 m p s.timeNs) s.fabric.heard } }
  else .next (s.ras 19 0 0 0)

/-! ## The hallmark (R405) -/

/-- HALLMARK_REQUEST: a control core writes HMCTL with GO = 1. -/
def execHallmarkRequest (s : State) : Host.Outcome State Fault Refusal := .next s.requestHallmark

/-- The report but for its signature (Table 16.7). -/
def State.hallmarkBody (s : State) : List Byte :=
  valBytes 4 0x00010000 ++ valBytes 4 s.pkg ++ recPartid s.boot.record
    ++ (List.range 32).map (fun i => Map.get 0 s.plat.nonce i) ++ valBytes 8 s.timeNs ++ field s.boot.record 8 8
    ++ s.boot.measures ++ recDevKey s.boot.record ++ recDevCert s.boot.record

/-- The report. -/
def State.hallmarkReport (s : State) : List Byte :=
  s.hallmarkBody ++ (List.range 2420).map (Config.deviceSign (digest s.hallmarkBody))

/-- A report goes to HMDEST: aligned to 4 KiB and writable. -/
def State.hallmarkDest (s : State) : Option Nat :=
  let d := s.plat.hmDest.toNat
  if d % 4096 = 0 ∧ d < 2 ^ 48 ∧ s.controlReady d 6352 = true then some d else none

/-- Control space at HMDEST is stalled or under shootdown. -/
def State.hallmarkWaits (s : State) : Bool := s.agentWaits (2 ^ 62 + s.plat.hmDest.toNat % 2 ^ 48) 6352

/-- HALLMARK_COMPLETE: the report is written or refused, and BUSY clears. -/
def execHallmarkComplete (s : State) : Host.Outcome State Fault Refusal :=
  if !s.plat.hmBusy || s.hallmarkWaits then .next s
  else
    let ok := s.hallmarkDest.isSome
    let s1 := match s.hallmarkDest with
      | some d => s.controlWrite d s.hallmarkReport
      | none => { s with plat := { s.plat with hmErr := true } }
    .next ((State.send { s1 with plat := { s1.plat with hmBusy := false } } (.hallmark ok)).signal 5)

/-! ## Margins, droop and power (R406 to R408) -/

/-- ASSAY_SAMPLE: what the monitors of a core need, in mV at 1,200 MHz. -/
def execAssaySample (core needMv : Nat) (s : State) : Host.Outcome State Fault Refusal :=
  .next { s with plat := { s.plat with assay := Map.set 0 s.plat.assay core needMv } }

/-- A new plan of a core: by how many steps the clock falls and the supply rises within their bounds is not stated (log 4). -/
def newMargin (old : Word) (a b : Nat) : Word :=
  let clock := old.toNat % 2 ^ 12
  let supply := old.toNat / 2 ^ 16 % 2 ^ 12
  let steps := a % ((clock - 1200) / 25 + 1)
  let rise := b % (600 - supply + 1)
  BitVec.ofNat 64 ((supply + rise) * 2 ^ 16 + (clock - 25 * steps))

/-- MARGIN_REPLAN: the plan of a core, and one beyond margin runs at 600 mV and 1,200 MHz and is counted. -/
def execMarginReplan (core : Nat) (s : State) : Host.Outcome State Fault Refusal :=
  let put := fun (t : State) (w : Word) =>
    ({ t with plat := { t.plat with margin := Map.set 0 t.plat.margin core w } } : State)
  let free := fun k => (Config.freeWord (s.freeCtr + k)).toNat
  if 600 < Map.get 0 s.plat.assay core then
    .next ((put (State.ras { s with freeCtr := s.freeCtr + 1 } 17 (core / 48) (core % 48) (free 0))
      (BitVec.ofNat 64 (600 * 2 ^ 16 + 1200))).signal 6)
  else
    .next ((put { s with freeCtr := s.freeCtr + 2 }
      (newMargin (Map.get 0 s.plat.margin core) (free 0) (free 1))).signal 6)

/-- DROOP_DETECT: the clock of a core is halved, and the event counted. -/
def execDroopDetect (core : Nat) (s : State) : Host.Outcome State Fault Refusal :=
  .next (s.onCore core fun c => { (c.count 0x0304 1) with half := true, phase := false })

/-- DROOP_RESTORE. -/
def execDroopRestore (core : Nat) (s : State) : Host.Outcome State Fault Refusal :=
  .next (s.onCore core fun c => { c with half := false, phase := false })

/-- POWER_LIMIT_STEP: PWRNOW, and one step of 25 MHz: down once PWRNOW exceeds the limit and until it is below it, up again below
95 % of it. -/
def execPowerLimitStep (watts : Nat) (s : State) : Host.Outcome State Fault Refusal :=
  let limit := min s.plat.pwrLim 3400
  let now := watts % 4096
  let n := s.plat.throttle
  let down := decide (limit < now) || (s.plat.lowering && decide (limit = now))
  let n' := if down then n + 1 else if 100 * now < 95 * limit then n - 1 else n
  .next { s with plat := { s.plat with pwrNow := now, throttle := n', lowering := down } }

/-- INPUT_UNDERVOLTAGE: package reset.  TIMENS runs on (R384), the flash keeps what it holds (R403, R404), and what other
agents have still to send stays with them. -/
def execInputUndervoltage (s : State) : Host.Outcome State Fault Refusal :=
  .next { State.reset with
    time8 := s.time8, freeCtr := s.freeCtr, agenda := s.agenda, outbox := s.outbox,
    boot := { State.reset.boot with rollback := s.boot.rollback, epoch := s.boot.epoch } }

/-! ## ECC (R372, R410) -/

/-- Poison keys. -/
def State.poisonKeys (s : State) (l : List Nat) : State :=
  { s with mem := { s.mem with poison := (l.filter fun k => !s.mem.poison.contains k) ++ s.mem.poison } }

/-- Poison a key. -/
def State.poisonKey (s : State) (k : Nat) : State := s.poisonKeys [k]

/-- The core of a place. -/
def State.rasCore (s : State) : RasPlace → Option Nat
  | .register age _ => (Map.find? s.groups age).map (·.id.core)
  | .sharedMem wg _ => (Map.find? s.wgs wg).map (·.core)
  | .slot core _ | .tile core _ | .dirtyL1 core _ | .cleanSram core => some core
  | .hbm _ | .llc _ | .controlMemory _ _ => none

/-- Die and unit of an error (R411): of a core, its die and its number there (R13); of HBM the stack, and of an LLC tier the slice,
that hold the granule (R22).  The die of these, and the unit of the control die's memories, are the event's. -/
def State.rasUnit (s : State) (e : RasError) : Nat × Nat :=
  match s.rasCore e.place with
  | some core => (core / 48, core % 48)
  | none => match e.place with
    | .hbm n => (e.die, n * 32 / 4096 % 16)
    | .llc n => (e.die, if keySpace (n * 32) = .control then e.unit else sliceOf (n * 32 % 2 ^ 48))
    | _ => (e.die, e.unit)

/-- Count an error in RAS counter i, and log it where R411 says so. -/
def State.rasOf (s : State) (e : RasError) (i : Nat) : State := s.ras i (s.rasUnit e).1 (s.rasUnit e).2 e.location

/-- An uncorrectable error of a word of a core's L1: dirty bytes are poisoned; clean ones are fetched again. -/
def State.l1Error (s : State) (e : RasError) (core vk : Nat) : State :=
  if (s.core core).l1.any fun p => p.1 / 4 == vk / 4 && p.2.dirty then (s.rasOf e 1).poisonKey (poisonL1 core vk)
  else (s.l1Drop core fun k b => k / 4 == vk / 4 && !b.dirty).rasOf e 0

/-- An uncorrectable error.  A line of control memory that both copies have lost behaves as poisoned (R410). -/
def State.uncorrectable (s : State) (e : RasError) : State :=
  let log := s.rasOf e
  match e.place with
  | .register age k =>
    (log 1).onGroup age fun g =>
      { g with regs := { g.regs with poison := if g.regs.poison.contains k then g.regs.poison else k :: g.regs.poison } }
  | .hbm n => (log 5).poisonKey n
  | .llc n => (log (if n / 2 ^ 56 = 2 then 7 else 3)).poisonKey (2 ^ 100 + n)
  | .controlMemory n lost => if lost then s.poisonKeys ((List.range 4).map fun i => 2 ^ 35 + n / 4 * 4 + i) else log 9
  | .sharedMem wg off => (log 1).poisonKey (poisonShared wg off)
  | .slot core k => (log 1).poisonKey (poisonSlot core k)
  | .tile core k => (log 1).poisonKey (poisonTile core k)
  | .dirtyL1 core vk => s.l1Error e core vk
  | .cleanSram _ => log 0

/-- The counter of a corrected error. -/
def correctedCounter : RasPlace → Nat
  | .hbm _ => 4
  | .llc n => if n / 2 ^ 56 = 2 then 6 else 2
  | .controlMemory _ _ => 8
  | _ => 0

/-- RAS_ERROR_EVENT. -/
def execRasErrorEvent (err : RasError) (s : State) : Host.Outcome State Fault Refusal :=
  if err.correctable then
    let s1 := s.rasOf err (correctedCounter err.place)
    match err.place with
    | .register age _ => match Map.find? s.groups age with
      | some g => .next (s1.onCore g.id.core fun c => c.count 0x0305 1)
      | none => .next s1
    | _ => .next s1
  else .next (s.uncorrectable err)

end Sys2Proof.Machine
end

