-- ==== Sys2Proof/Machine/Restore.lean ====
section
/-! DEFINITION. Restoring a saved group from its image, and the save agent (R356, R377 to R379). -/

namespace Sys2Proof.Machine

/-! ## The restore (R356, R378) -/

/-! ## What was written to the image (R379; log 102) -/

/-- A group number under a new name. -/
def renameTo (old new n : Nat) : Nat := if n = old then new else n

/-- A part of a group in an array operation, under a new AGE. -/
def MmaPart.aged (old new : Nat) (p : MmaPart) : MmaPart := { p with age := renameTo old new p.age }

/-- An operation, under a new AGE of a group. -/
def ObjectEntry.aged (old new : Nat) (e : ObjectEntry) : ObjectEntry :=
  let op := match e.op with
    | .mma sparse fmt bs n steps next parts => .mma sparse fmt bs n steps next (parts.map (·.aged old new))
    | .guided tc tu w ac au oc ou parts => .guided tc tu w (renameTo old new ac) (renameTo old new au) oc ou (parts.map (·.aged old new))
    | op => op
  { e with age := renameTo old new e.age, op := op }

/-- An image, under a new AGE of a group. -/
def Saved.aged (old new : Nat) (i : Saved) : Saved :=
  { i with tiles := i.tiles.map (fun p => (p.1, { p.2 with owner := p.2.owner.map (renameTo old new) })),
           slots := i.slots.map (fun p => (p.1, { p.2 with owner := p.2.owner.map (renameTo old new) })),
           aops := i.aops.map (·.aged old new), shares := i.shares.map (·.aged old new),
           latched := i.latched.map (fun l => { l with age := renameTo old new l.age }),
           age := renameTo old new i.age }

/-- A request of a home, under a new AGE of a group. -/
def AskWho.aged (old new : Nat) : AskWho → AskWho
  | .object age entry => .object (renameTo old new age) entry
  | .count x => .count { x with age := renameTo old new x.age }
  | w => w

/-- A rendezvous slot, under a new AGE of a group. -/
def Rendezvous.aged (old new : Nat) (r : Rendezvous) : Rendezvous :=
  { send := r.send.map fun x => { x with age := renameTo old new x.age }
    recv := r.recv.map fun x => { x with age := renameTo old new x.age } }

/-- A saved group takes another AGE: everything that names it follows.  An AGE that another group has is not taken. -/
def State.reage (s : State) (old new : Nat) : State :=
  match Map.find? s.groups old with
  | none => s
  | some g =>
    if old = new ∨ (Map.find? s.groups new).isSome = true then s
    else
      let groups := Map.insert (Map.erase s.groups old) new { g with id := { g.id with age := new } }
      { s with
        groups := groups.map fun p => (p.1, { p.2 with saved := p.2.saved.map (·.aged old new) }),
        wgs := s.wgs.map fun w => (w.1, { w.2 with slots := w.2.slots.map fun x => (x.1, x.2.aged old new) }),
        pend := s.pend.map fun p => { p with age := renameTo old new p.age },
        landing := s.landing.map fun r => { r with age := renameTo old new r.age },
        parks := s.parks.map fun k => { k with age := renameTo old new k.age },
        counts := s.counts.map fun x => { x with age := renameTo old new x.age },
        wherry := s.wherry.map fun w => { w with age := renameTo old new w.age },
        ferry := s.ferry.map fun c => { c with age := renameTo old new c.age },
        remote := s.remote.map fun r => { r with age := renameTo old new r.age },
        arrivers := s.arrivers.map fun x => (x.1, renameTo old new x.2.1, x.2.2),
        fabric := { s.fabric with asks := s.fabric.asks.map fun a => { a with who := a.who.aged old new } },
        dbg := { s.dbg with resuming := s.dbg.resuming.map (renameTo old new) },
        nextAge := max s.nextAge (new + 1) }

/-- An array operation without the part of one member. -/
def ObjectEntry.withoutPart (age op : Nat) (e : ObjectEntry) : Option ObjectEntry :=
  let left := fun (parts : List MmaPart) => parts.filter fun p => p.age != age || p.op != op
  match e.op with
  | .mma sparse fmt bs n steps next parts =>
    if (left parts).isEmpty then none else some { e with op := .mma sparse fmt bs n steps next (left parts) }
  | .guided tc tu w ac au oc ou parts =>
    if (left parts).isEmpty then none else some { e with op := .guided tc tu w ac au oc ou (left parts) }
  | _ => some e

/-- A pending operation whose TYPE was written to is not restored: nothing of it is left, and its group does not wait for it. -/
def State.dropOp (s : State) (age : Nat) (p : PendingOp) : State :=
  let free := fun (t : State) => t.onGroup age fun g =>
    { g with work := [Path.ld, .st, .wh, .an, .ra, .fe].foldl (fun w q => w.finish q p.order) (g.work.forgetOp p.order) }
  match p.desc.type_ with
  | 2 =>
    let s1 : State := { s with remote := s.remote.map fun r =>
      if r.age = age then { r with lines := r.lines.filter fun q => q.tag != p.tag } else r }
    (s1.remote.filter fun r => r.age == age && r.lines.isEmpty).foldl (fun t r => t.settleSub r.id) s1
  | 4 => free { s with groups := s.groups.map fun q => (q.1, { q.2 with saved := q.2.saved.map fun i =>
      { i with aops := i.aops.filterMap (·.withoutPart age p.order), shares := i.shares.filterMap (·.withoutPart age p.order) } }) }
  | 5 => free (s.onGroup age fun g => { g with saved := g.saved.map fun i => { i with latched := none } })
  | _ => free { s with
      pend := s.pend.filter fun q => q.id != p.order,
      parks := s.parks.filter fun k => k.what != .load p.order && k.what != .resent p.order,
      wgs := s.wgs.map fun w => (w.1, { w.2 with slots := w.2.slots.map fun x =>
        (x.1, { x.2 with recv := x.2.recv.filter fun r => r.op != p.order }) }) }

/-- The operations of a saved group whose TYPE is another than theirs are dropped. -/
def State.dropTypes (s : State) (age : Nat) : State :=
  match Map.find? s.groups age with
  | none => s
  | some g => match g.saved with
    | none => s
    | some i => ((s.savedOps age i).filter fun p => i.typeOf p != p.desc.type_).foldl (fun t p => t.dropOp age p) s

/-- Byte j of a section of an image becomes b. -/
def State.putSection (s : State) (age k j : Nat) (b : Byte) : State :=
  match Map.find? s.groups age with
  | none => s
  | some g => match g.saved with
    | none => s
    | some i => match (sectionStarts 256 (s.imageSections age g i))[k]? with
      | some (start, _) => s.writeIn (s.imageFields age g i) (start + j) b
      | none => s

/-- A section whose entry of the directory was written to is read where the entry says; past the length there it reads zero. -/
def State.readSections (s : State) (age : Nat) : State :=
  match Map.find? s.groups age with
  | none => s
  | some g => match g.saved with
    | none => s
    | some i =>
      let fs := s.imageFields age g i
      let secs := sectionStarts 256 (s.imageSections age g i)
      i.dir.foldl (fun t d =>
        let len := (secs[d.1]?.map fun x => x.2.len).getD 0
        (List.range len).foldl (fun u j =>
          u.putSection age d.1 j (if j < d.2 / 2 ^ 32 % 2 ^ 32 then byteIn fs (d.2 % 2 ^ 32 + j) else 0)) t) s

/-- The AGE in the image of a group. -/
def Group.imageAge (g : Group) : Nat := (g.saved.map (·.age)).getD g.id.age

/-- The groups of ages with what was written to their images, and the ages that they have then. -/
def State.applyWritten (s : State) : List Nat → State × List Nat
  | [] => (s, [])
  | a :: l =>
    let s1 := (s.readSections a).dropTypes a
    let new := ((Map.find? s1.groups a).map Group.imageAge).getD a
    let s2 := s1.reage a new
    let taken := if (Map.find? s2.groups a).isSome then a else new
    let (s3, rest) := s2.applyWritten l
    (s3, taken :: rest)

/-- The return stack that section 4 gives: the newest first, without the free entries. -/
def Saved.returns (i : Saved) : List RetEntry := (i.rets.filter fun r => r.lanes != 0).reverse

/-- The objects of an image are unclaimed on a core, once the groups of `gone` have left it. -/
def State.objectsFree (s : State) (core : Nat) (gone : List Nat) (g : Group) : Bool :=
  let free := fun (o : Option Nat) => match o with
    | none => true
    | some a => gone.contains a
  match g.saved with
  | none => true
  | some i => i.slots.all (fun p => free (s.ownerOf core false p.1)) && i.tiles.all fun p => free (s.ownerOf core true p.1)

/-- The groups restored with a group: its gang, or its whole workgroup where that is saved (R356). -/
def State.restoreUnit (s : State) (g : Group) : List (Nat × Group) :=
  if ((s.wgOf g).map (·.saved)).getD false then s.members g.id.wg else s.gangOf g

/-- What they need of a core. -/
def State.restoreNeeds (s : State) (g : Group) : Needs :=
  let gs := s.restoreUnit g
  let whole := match s.wgOf g with
    | some w => if w.saved then (sharedSpace w.shSize, definedEntries w.cohorts) else (0, 0)
    | none => (0, 0)
  { slots := gs.length, blocks := (gs.map fun p => p.2.blocks).sum, shared := whole.1, cohorts := whole.2 }

/-- They fit on a core, once the groups of `gone` have left it. -/
def State.restoreFits (s : State) (g : Group) (core : Nat) (gone : List Nat) : Bool :=
  let gs := s.restoreUnit g
  s.roomOn (s.restoreNeeds g) core gone (gs.map fun p => p.2.flow.frags.length) && (gs.all fun p => s.objectsFree core gone p.2)
    && decide (((s.core core).aops.filter (·.queued)).length
      + (gs.flatMap fun p => ((p.2.saved.map (·.aops)).getD []).filter (·.queued)).length ≤ 32)

/-- The core to which they can be restored now. -/
def State.restoreCore (s : State) (g : Group) : Option Nat :=
  if ((s.wgOf g).map (·.saved)).getD false then s.bestCore fun k => s.restoreFits g k []
  else if s.restoreFits g g.id.core [] then some g.id.core else none

/-- Those of a set, and the groups that await one of it, through so many others at most. -/
def State.awaiters (s : State) : Nat → List Nat → List Nat
  | 0, l => l
  | n + 1, l =>
    let more := (s.groups.filter fun h => !l.contains h.1 && s.groups.any fun g => l.contains g.1 && s.awaits h.2 g.2).map (·.1)
    if more.isEmpty then l else s.awaiters n (l ++ more)

/-- The partial eviction that would make room for them: of groups of lower effective priority that do not await them, be it
through other groups (R350, R356). -/
def State.restorePlan (s : State) (g : Group) : Option (Nat × List Nat) :=
  let ps := s.priorities
  let gs := s.restoreUnit g
  let prio := gs.foldl (fun m p => max m (Map.get 0 ps p.1)) 0
  let spared := s.awaiters s.groups.length (gs.map (·.1))
  let may := fun (h : Group) => decide (Map.get 0 ps h.id.age < prio) && !spared.contains h.id.age
  if ((s.wgOf g).map (·.saved)).getD false then s.bestPlan ps (fun k gone => s.restoreFits g k gone) may
  else (s.plan ps g.id.core (s.restoreFits g g.id.core) may).map fun l => (g.id.core, l)

/-- Load a read-only-staged slot again for a restored group (R378). -/
def State.reloadSlot (s : State) (g : Group) (core n : Nat) (base : Word) (bits : BitVec 128) : State :=
  let k : Shape := { Group.shape { g with regs := { g.regs with k := [(0, bits)] } } 0 with base := base }
  let e : ObjectEntry := { id := s.nextOp, age := g.id.age, cls := 0, queued := false, op := .engine (some n) none s.nextOp }
  let w : Wherry :=
    { id := s.nextOp, core := core, age := g.id.age, wg := g.id.wg, ctx := g.id.ctx, pc := 0, major := 0, minor := 0,
      order := 0, stream := false, bar := none, left := k.total, state := .queued, detail := 0, done := 0, failAddr := 0,
      aop := some s.nextOp, retries := 0, buf := [], asked := false, waiting := false, retryAt := 0, refusal := 0, out := [],
      inTrap := false, body := .loado n true k bits }
  State.reachObject { s with nextOp := s.nextOp + 1, wherry := s.wherry ++ [w] } core e

/-- New numbers for split-table entries, as pairs of old and new. -/
abbrev Renaming := List (Nat × Nat)

/-- The new number of an entry. -/
def Renaming.of (r : Renaming) (n : Nat) : Nat := ((r.find? fun p => p.1 == n).map (·.2)).getD n

/-- The lowest free numbers, in turn (R96). -/
def newNames : List Nat → List Nat → Renaming
  | _, [] => []
  | used, n :: l =>
    let m := lowestFree used 128 0
    (n, m) :: newNames (m :: used) l

/-- A group under new numbers of its entries; those of the trap bank stay. -/
def Group.renamed (g : Group) (r : Renaming) : Group :=
  let tf := g.sys.trapFrag.toNat
  { g with
    flow := { g.flow with frags := g.flow.frags.map (fun f => { f with entry := r.of f.entry }), stopped := r.of g.flow.stopped },
    sys := { g.sys with trapFrag := BitVec.ofNat 64 (tf / 128 * 128 + r.of (tf % 128) % 128) },
    work := { g.work with
      declined := g.work.declined.map (fun d => if d.inTrap then d else { d with entry := r.of d.entry }),
      sendAbandon := g.work.sendAbandon.map fun p => (r.of p.1, p.2) } }

/-- A part of a group in an array operation under new numbers. -/
def MmaPart.renamed (age : Nat) (r : Renaming) (p : MmaPart) : MmaPart :=
  if p.age = age then { p with entry := r.of p.entry } else p

/-- An operation under new numbers of a group. -/
def ObjectEntry.renamed (age : Nat) (r : Renaming) (e : ObjectEntry) : ObjectEntry :=
  match e.op with
  | .mma sparse fmt bs n steps next parts => { e with op := .mma sparse fmt bs n steps next (parts.map (·.renamed age r)) }
  | .guided tc tu w ac au oc ou parts => { e with op := .guided tc tu w ac au oc ou (parts.map (·.renamed age r)) }
  | _ => e

/-- Everything that names the entries of a restored group, under new numbers: what was issued in trap mode names the trap
bank. -/
def State.renamed (s : State) (core age : Nat) (trap : Bool) (r : Renaming) : State :=
  let s1 := (s.onGroup age fun g => g.renamed r).onCore core fun c =>
    { c with aops := c.aops.map (·.renamed age r),
             latch := c.latch.map fun l => if l.age = age then { l with entry := r.of l.entry } else l }
  { s1 with
    pend := s1.pend.map (fun p => if p.age = age ∧ p.trapBank = false then { p with entry := r.of p.entry } else p),
    landing := s1.landing.map (fun x => if x.age = age ∧ x.inTrap = false then { x with entry := r.of x.entry } else x),
    parks := s1.parks.map (fun k => match k.what with
      | .instruction e n => if k.age = age ∧ trap = false then { k with what := .instruction (r.of e) n } else k
      | _ => k),
    wgs := s1.wgs.map fun w => (w.1, { w.2 with slots := w.2.slots.map fun x => (x.1, { x.2 with send := x.2.send.map fun y =>
      if y.age = age ∧ y.inTrap = false then { y with entry := r.of y.entry } else y }) }) }

/-- The numbers that a group's entries take on a sub-core: the lowest free ones, in their order (R96; log 32). -/
def State.entryNames (s : State) (core sub age : Nat) (g : Group) : Renaming :=
  let others := (s.subGroups core sub).filter fun p => p.1 != age
  newNames (others.flatMap fun p => p.2.flow.frags.map (·.entry)) (g.flow.frags.map (·.entry))

/-- A fragment in the cycles of the core to which it is restored: a pause lasts for the cycles that it has left (R115), and a hold
for entries begins again (R91). -/
def Frag.atCycle (now : Nat) (f : Frag) : Frag :=
  match f.wait with
  | .paused => { f with pausedUntil := now + f.pausedUntil }
  | .splitHold => { f with pausedUntil := now }
  | _ => f

/-- Restore one group to a core (R378): its slot, its objects, its operations at the tail of the array queue, its records. -/
def State.restoreGroup (s : State) (core age : Nat) : State :=
  match Map.find? s.groups age with
  | none => s
  | some g => match g.saved with
    | none => s
    | some i =>
      let slot := s.freeSlot core (s.bestSub core)
      let reload := i.slots.filter fun p => p.2.ro.isSome
      let there := Frag.atCycle (s.cycleOf core)
      let s1 := s.onGroup age fun g =>
        { g with id := { g.id with core := core, slot := slot, resident := true, saving := if reload.isEmpty then 0 else 5 },
                 flow := { g.flow with ret := i.returns, frags := g.flow.frags.map there, trapFrags := g.flow.trapFrags.map there },
                 saved := none }
      let s2 := i.slots.foldl (fun t p => t.onOperand core p.1 fun _ => p.2) s1
      let s3 := i.tiles.foldl (fun t p => t.onTile core p.1 fun _ => p.2) s2
      let s4 := s3.onCore core fun c => { c with aops := c.aops ++ i.aops, latch := c.latch ++ i.latched.toList }
      let s5 : State := { s4 with
        mem := { s4.mem with poison := s4.mem.poison ++ i.poison.map fun k => k + core * 2 ^ 24 },
        landing := s4.landing.map fun r => if r.age = age then { r with core := core, slot := slot } else r }
      let s6 := reload.foldl (fun t p => match p.2.ro with
        | some (base, bits) => t.reloadSlot g core p.1 base bits
        | none => t) (s5.renamed core age g.flow.trapMode (s.entryNames core (subOf slot) age g))
      s6.traceRecord (s.sessionOf g) false 0 0
        (core % 512 + slot % 64 * 2 ^ 9 + (if g.flow.trapMode then 2 ^ 15 else 0)) 5 (BitVec.ofNat 64 age)

/-- A saved workgroup comes to a core, as by a placement. -/
def State.bringWorkgroup (s : State) (wg core : Nat) (n : Needs) : State :=
  let s1 := (s.reclaim core n).onWg wg fun w => { w with core := core, saved := false }
  (s1.l1Drop core fun _ b => !b.dirty).acquire core 4

/-- A group is back: a Resume that waited for it is over (R380). -/
def State.back (s : State) (age : Nat) : State :=
  if s.dbg.resuming = some age then { s with dbg := { s.dbg with resuming := none } } else s

/-- The groups that are back of those restored: the others still wait for their slots. -/
def State.backAll (s : State) (ages : List Nat) : State :=
  ages.foldl (fun t a => match Map.find? t.groups a with
    | some g => if g.id.saving = 5 then t else t.back a
    | none => t.back a) s

/-- The slots that a restored group waits for are loaded again. -/
def State.reloaded (s : State) (g : Group) : Bool :=
  !s.wherry.any fun w => w.age == g.id.age && w.major == 0 && w.active

/-- GROUP_RESTORE (R356, R378): the group returns with its gang, or with its saved workgroup, or room begins to be made; a
group that waits for its slots to be loaded goes on once they are. -/
def execGroupRestore (age : Nat) (s : State) : Host.Outcome State Fault Refusal :=
  match Map.find? s.groups age with
  | none => .next s
  | some g =>
    if g.id.resident then
      if g.id.saving = 5 ∧ s.reloaded g = true then
        .next ((s.onGroup age fun g => { g with id := { g.id with saving := 0 } }).back age)
      else .next s
    else match s.restoreCore g with
      | some core =>
        let whole := ((s.wgOf g).map (·.saved)).getD false
        let s1 := if whole then s.bringWorkgroup g.id.wg core (s.restoreNeeds g) else s
        let (s2, ages) := s1.applyWritten ((s.restoreUnit g).map (·.1))
        .next ((ages.foldl (fun t a => t.restoreGroup core a) s2).backAll ages)
      | none => match s.restorePlan g with
        | some (_, ages) => .next (s.beginSave ages 1)
        | none => .next s

/-- A group can be restored now, or groups can begin to be evicted for it: what is freed for a launch of higher base priority
is not for it (R354). -/
def State.restorable (s : State) (ps : Cells Nat) (age : Nat) (g : Group) : Bool :=
  let free := fun (k : Nat) => !s.wanted k (Map.get 0 ps age)
  match s.restoreCore g with
  | some k => free k
  | none => match s.restorePlan g with
    | some (k, _ :: _) => free k
    | _ => false

/-- Put an evicted group into the order of restoring: by effective priority, then by age, a gang being as old as its oldest member
(R353, R356). -/
def State.insertRestore (s : State) (ps : Cells Nat) : List (Nat × Group) → Nat × Group → List (Nat × Group)
  | [], p => [p]
  | q :: l, p =>
    let a := Map.get 0 ps p.1
    let b := Map.get 0 ps q.1
    if b < a ∨ (a = b ∧ (s.unitOf ps p.2).age < (s.unitOf ps q.2).age) then p :: q :: l else q :: s.insertRestore ps l p

/-- The group that the scheduler restores next: the first in order, and no other before it (log 32).  One that a debugger saved
waits for Resume (R380). -/
def State.restoreDue (s : State) : List Event :=
  let ps := s.priorities
  let gone := s.groups.filter fun p => match p.2.saved with
    | some i => i.reason != 4
    | none => false
  match gone.foldl (s.insertRestore ps) [] with
  | p :: _ => if s.restorable ps p.1 p.2 then [.groupRestore p.1] else []
  | [] => []

/-- What is due for a group that is being saved or restored. -/
def State.saveDue (s : State) (age : Nat) (g : Group) : List Event :=
  if !g.id.resident || g.id.saving = 0 then []
  else if g.id.saving = 5 then if s.reloaded g then [.groupRestore age] else []
  else if s.saveReady g then [.groupSave age g.id.saving] else []

/-! ## The save agent (R377) -/

/-- SAVE_AGENT_APPLY: a response to a parked load, or to an XAT, of a saved group is applied to its image. -/
def execSaveAgentApply (op : Nat) (s : State) : Host.Outcome State Fault Refusal :=
  match s.pend.find? fun p => p.id == op with
  | some p => match Map.find? s.groups p.age with
    | some g => if g.id.resident then .next s else .next (s.arriveLoad op)
    | none => .next s
  | none => match s.remote.find? fun r => r.id == op with
    | some r => match Map.find? s.groups r.age with
      | some g => if g.id.resident then .next s else .next (s.settleSub op)
      | none => .next s
    | none => .next s

end Sys2Proof.Machine
end

