-- ==== Sys2Proof/Machine/Dispatch.lean ====
section
/-! DEFINITION. The meaning of each instruction, one arm for each constructor. -/

namespace Sys2Proof.Machine

def exec (i : Instr) (s : State) : Host.Outcome State Fault Refusal :=
  match i with
  | .clauseHeader g e m b a w => Sys2Proof.Machine.execClauseHeader g e m b a w s
  | .vmov16 x src d => Sys2Proof.Machine.execVmov16 x src d s
  | .vadd16 x src d => Sys2Proof.Machine.execVadd16 x src d s
  | .vsub16 x src d => Sys2Proof.Machine.execVsub16 x src d s
  | .vmul16 x src d => Sys2Proof.Machine.execVmul16 x src d s
  | .vand16 x src d => Sys2Proof.Machine.execVand16 x src d s
  | .vor16 x src d => Sys2Proof.Machine.execVor16 x src d s
  | .vxor16 x src d => Sys2Proof.Machine.execVxor16 x src d s
  | .vshl16 x src d => Sys2Proof.Machine.execVshl16 x src d s
  | .vshr16 x src d => Sys2Proof.Machine.execVshr16 x src d s
  | .vsra16 x src d => Sys2Proof.Machine.execVsra16 x src d s
  | .vfadd16 x src d => Sys2Proof.Machine.execVfadd16 x src d s
  | .vfsub16 x src d => Sys2Proof.Machine.execVfsub16 x src d s
  | .vfmul16 x src d => Sys2Proof.Machine.execVfmul16 x src d s
  | .vfmin16 x src d => Sys2Proof.Machine.execVfmin16 x src d s
  | .vfmax16 x src d => Sys2Proof.Machine.execVfmax16 x src d s
  | .vaddi16 imm d => Sys2Proof.Machine.execVaddi16 imm d s
  | .sadd b a d => Sys2Proof.Machine.execSadd b a d s
  | .ssub b a d => Sys2Proof.Machine.execSsub b a d s
  | .smul b a d => Sys2Proof.Machine.execSmul b a d s
  | .smulhI64 b a d => Sys2Proof.Machine.execSmulhI64 b a d s
  | .smulhN64 b a d => Sys2Proof.Machine.execSmulhN64 b a d s
  | .sdivn b a d => Sys2Proof.Machine.execSdivn b a d s
  | .sand b a d => Sys2Proof.Machine.execSand b a d s
  | .sor b a d => Sys2Proof.Machine.execSor b a d s
  | .sxor b a d => Sys2Proof.Machine.execSxor b a d s
  | .sshl b a d => Sys2Proof.Machine.execSshl b a d s
  | .sshr b a d => Sys2Proof.Machine.execSshr b a d s
  | .ssra b a d => Sys2Proof.Machine.execSsra b a d s
  | .sminI64 b a d => Sys2Proof.Machine.execSminI64 b a d s
  | .sminN64 b a d => Sys2Proof.Machine.execSminN64 b a d s
  | .smaxI64 b a d => Sys2Proof.Machine.execSmaxI64 b a d s
  | .smaxN64 b a d => Sys2Proof.Machine.execSmaxN64 b a d s
  | .ssel c b a d => Sys2Proof.Machine.execSsel c b a d s
  | .sclz a d => Sys2Proof.Machine.execSclz a d s
  | .spopc a d => Sys2Proof.Machine.execSpopc a d s
  | .sbfxN64 b a d => Sys2Proof.Machine.execSbfxN64 b a d s
  | .sbfxI64 b a d => Sys2Proof.Machine.execSbfxI64 b a d s
  | .sbfi b a d => Sys2Proof.Machine.execSbfi b a d s
  | .scmp b a k c => Sys2Proof.Machine.execScmp b a k c s
  | .smov a d => Sys2Proof.Machine.execSmov a d s
  | .saddImm imm a d => Sys2Proof.Machine.execSaddImm imm a d s
  | .smulImm imm a d => Sys2Proof.Machine.execSmulImm imm a d s
  | .sandImm imm a d => Sys2Proof.Machine.execSandImm imm a d s
  | .sorImm imm a d => Sys2Proof.Machine.execSorImm imm a d s
  | .sxorImm imm a d => Sys2Proof.Machine.execSxorImm imm a d s
  | .sshlImm imm a d => Sys2Proof.Machine.execSshlImm imm a d s
  | .sshrImm imm a d => Sys2Proof.Machine.execSshrImm imm a d s
  | .ssraImm imm a d => Sys2Proof.Machine.execSsraImm imm a d s
  | .sminImm imm a d => Sys2Proof.Machine.execSminImm imm a d s
  | .smaxImm imm a d => Sys2Proof.Machine.execSmaxImm imm a d s
  | .scmpImm imm a k c => Sys2Proof.Machine.execScmpImm imm a k c s
  | .sli imm d => Sys2Proof.Machine.execSli imm d s
  | .slih h imm d => Sys2Proof.Machine.execSlih h imm d s
  | .bra o => Sys2Proof.Machine.execBra o s
  | .bcT o c => Sys2Proof.Machine.execBcT o c s
  | .bcF o c => Sys2Proof.Machine.execBcF o c s
  | .bdiv o m => Sys2Proof.Machine.execBdiv o m s
  | .bvoteAny o m => Sys2Proof.Machine.execBvoteAny o m s
  | .bvoteAll o m => Sys2Proof.Machine.execBvoteAll o m s
  | .bvoteNone o m => Sys2Proof.Machine.execBvoteNone o m s
  | .call o => Sys2Proof.Machine.execCall o s
  | .callR a => Sys2Proof.Machine.execCallR a s
  | .ret => Sys2Proof.Machine.execRet s
  | .jmpi a => Sys2Proof.Machine.execJmpi a s
  | .join j => Sys2Proof.Machine.execJoin j s
  | .park j => Sys2Proof.Machine.execPark j s
  | .strike j => Sys2Proof.Machine.execStrike j s
  | .regang => Sys2Proof.Machine.execRegang s
  | .exit => Sys2Proof.Machine.execExit s
  | .nop => Sys2Proof.Machine.execNop s
  | .yield => Sys2Proof.Machine.execYield s
  | .srd n a => Sys2Proof.Machine.execSrd n a s
  | .swr n a => Sys2Proof.Machine.execSwr n a s
  | .vadd x b a d => Sys2Proof.Machine.execVadd x b a d s
  | .vsub x b a d => Sys2Proof.Machine.execVsub x b a d s
  | .vmul x b a d => Sys2Proof.Machine.execVmul x b a d s
  | .vmulh x b a d => Sys2Proof.Machine.execVmulh x b a d s
  | .vmin x b a d => Sys2Proof.Machine.execVmin x b a d s
  | .vmax x b a d => Sys2Proof.Machine.execVmax x b a d s
  | .vabsd x b a d => Sys2Proof.Machine.execVabsd x b a d s
  | .vdot4 x b a d => Sys2Proof.Machine.execVdot4 x b a d s
  | .vand x b a d => Sys2Proof.Machine.execVand x b a d s
  | .vor x b a d => Sys2Proof.Machine.execVor x b a d s
  | .vxor x b a d => Sys2Proof.Machine.execVxor x b a d s
  | .vshl x b a d => Sys2Proof.Machine.execVshl x b a d s
  | .vshr x b a d => Sys2Proof.Machine.execVshr x b a d s
  | .vsra x b a d => Sys2Proof.Machine.execVsra x b a d s
  | .vfshl x b a d => Sys2Proof.Machine.execVfshl x b a d s
  | .vfshr x b a d => Sys2Proof.Machine.execVfshr x b a d s
  | .vpopc a d => Sys2Proof.Machine.execVpopc a d s
  | .vclz a d => Sys2Proof.Machine.execVclz a d s
  | .vbrev a d => Sys2Proof.Machine.execVbrev a d s
  | .vnot a d => Sys2Proof.Machine.execVnot a d s
  | .vbfxN32 x b a d => Sys2Proof.Machine.execVbfxN32 x b a d s
  | .vbfxI32 x b a d => Sys2Proof.Machine.execVbfxI32 x b a d s
  | .vbfi x b a d => Sys2Proof.Machine.execVbfi x b a d s
  | .vaddc x b a d => Sys2Proof.Machine.execVaddc x b a d s
  | .vsubb x b a d => Sys2Proof.Machine.execVsubb x b a d s
  | .vaddi imm a d => Sys2Proof.Machine.execVaddi imm a d s
  | .vandi imm a d => Sys2Proof.Machine.execVandi imm a d s
  | .vori imm a d => Sys2Proof.Machine.execVori imm a d s
  | .vxori imm a d => Sys2Proof.Machine.execVxori imm a d s
  | .vshli imm a d => Sys2Proof.Machine.execVshli imm a d s
  | .vshri imm a d => Sys2Proof.Machine.execVshri imm a d s
  | .vsrai imm a d => Sys2Proof.Machine.execVsrai imm a d s
  | .vli imm d => Sys2Proof.Machine.execVli imm d s
  | .vlop3 t b a d => Sys2Proof.Machine.execVlop3 t b a d s
  | .vicmp x b a k m => Sys2Proof.Machine.execVicmp x b a k m s
  | .vsel x b a d => Sys2Proof.Machine.execVsel x b a d s
  | .vmovs b a d => Sys2Proof.Machine.execVmovs b a d s
  | .vmovx x b a d => Sys2Proof.Machine.execVmovx x b a d s
  | .vmovxl x b d => Sys2Proof.Machine.execVmovxl x b d s
  | .vmovxw x b a d => Sys2Proof.Machine.execVmovxw x b a d s
  | .vmov x b d => Sys2Proof.Machine.execVmov x b d s
  | .mand c b a => Sys2Proof.Machine.execMand c b a s
  | .mor c b a => Sys2Proof.Machine.execMor c b a s
  | .mxor c b a => Sys2Proof.Machine.execMxor c b a s
  | .mnot b a => Sys2Proof.Machine.execMnot b a s
  | .mpop b d => Sys2Proof.Machine.execMpop b d s
  | .mfind b d => Sys2Proof.Machine.execMfind b d s
  | .mset src a => Sys2Proof.Machine.execMset src a s
  | .mget b d => Sys2Proof.Machine.execMget b d s
  | .mgetLanes d => Sys2Proof.Machine.execMgetLanes d s
  | .vfadd x b a d => Sys2Proof.Machine.execVfadd x b a d s
  | .vfsub x b a d => Sys2Proof.Machine.execVfsub x b a d s
  | .vfmul x b a d => Sys2Proof.Machine.execVfmul x b a d s
  | .vfmin x b a d => Sys2Proof.Machine.execVfmin x b a d s
  | .vfmax x b a d => Sys2Proof.Machine.execVfmax x b a d s
  | .vfma x b a d => Sys2Proof.Machine.execVfma x b a d s
  | .vfscale x b a d => Sys2Proof.Machine.execVfscale x b a d s
  | .vfcpys x b a d => Sys2Proof.Machine.execVfcpys x b a d s
  | .vfmad n c b a d => Sys2Proof.Machine.execVfmad n c b a d s
  | .vfabs a d => Sys2Proof.Machine.execVfabs a d s
  | .vfneg a d => Sys2Proof.Machine.execVfneg a d s
  | .vfrnd r a d => Sys2Proof.Machine.execVfrnd r a d s
  | .vfclass a d => Sys2Proof.Machine.execVfclass a d s
  | .vfexpo a d => Sys2Proof.Machine.execVfexpo a d s
  | .vfcmp x b a k m => Sys2Proof.Machine.execVfcmp x b a k m s
  | .vpfadd x b a d => Sys2Proof.Machine.execVpfadd x b a d s
  | .vpfmul x b a d => Sys2Proof.Machine.execVpfmul x b a d s
  | .vpfma x b a d => Sys2Proof.Machine.execVpfma x b a d s
  | .vhaddBf16 x b a d => Sys2Proof.Machine.execVhaddBf16 x b a d s
  | .vhmulBf16 x b a d => Sys2Proof.Machine.execVhmulBf16 x b a d s
  | .vhfmaBf16 x b a d => Sys2Proof.Machine.execVhfmaBf16 x b a d s
  | .vhaddF16 x b a d => Sys2Proof.Machine.execVhaddF16 x b a d s
  | .vhmulF16 x b a d => Sys2Proof.Machine.execVhmulF16 x b a d s
  | .vhfmaF16 x b a d => Sys2Proof.Machine.execVhfmaF16 x b a d s
  | .vdadd x b a d => Sys2Proof.Machine.execVdadd x b a d s
  | .vdmul x b a d => Sys2Proof.Machine.execVdmul x b a d s
  | .vdfma x b a d => Sys2Proof.Machine.execVdfma x b a d s
  | .vdmin x b a d => Sys2Proof.Machine.execVdmin x b a d s
  | .vdmax x b a d => Sys2Proof.Machine.execVdmax x b a d s
  | .vrcp a d => Sys2Proof.Machine.execVrcp a d s
  | .vrsqrt a d => Sys2Proof.Machine.execVrsqrt a d s
  | .vsqrt a d => Sys2Proof.Machine.execVsqrt a d s
  | .vexp2 a d => Sys2Proof.Machine.execVexp2 a d s
  | .vlog2 a d => Sys2Proof.Machine.execVlog2 a d s
  | .vsin a d => Sys2Proof.Machine.execVsin a d s
  | .vcos a d => Sys2Proof.Machine.execVcos a d s
  | .vtanh a d => Sys2Proof.Machine.execVtanh a d s
  | .vsigm a d => Sys2Proof.Machine.execVsigm a d s
  | .vfdivs x b a d => Sys2Proof.Machine.execVfdivs x b a d s
  | .vfdivx x b a d => Sys2Proof.Machine.execVfdivx x b a d s
  | .vcvt r p a d => Sys2Proof.Machine.execVcvt r p a d s
  | .vqntE4m3 src a d => Sys2Proof.Machine.execVqntE4m3 src a d s
  | .vqntE5m2 src a d => Sys2Proof.Machine.execVqntE5m2 src a d s
  | .vqntE2m1 src a d => Sys2Proof.Machine.execVqntE2m1 src a d s
  | .vqntLg6 src a d => Sys2Proof.Machine.execVqntLg6 src a d s
  | .vqntI8 src a d => Sys2Proof.Machine.execVqntI8 src a d s
  | .vdqnt src a d => Sys2Proof.Machine.execVdqnt src a d s
  | .vpack w a d => Sys2Proof.Machine.execVpack w a d s
  | .vunpack w a d => Sys2Proof.Machine.execVunpack w a d s
  | .vrandB32 src a d => Sys2Proof.Machine.execVrandB32 src a d s
  | .vrandF32 src a d => Sys2Proof.Machine.execVrandF32 src a d s
  | .vnblRing a d => Sys2Proof.Machine.execVnblRing a d s
  | .vnbrRing a d => Sys2Proof.Machine.execVnbrRing a d s
  | .vnblEdge w a d => Sys2Proof.Machine.execVnblEdge w a d s
  | .vnbrEdge w a d => Sys2Proof.Machine.execVnbrEdge w a d s
  | .vshuf x b a d => Sys2Proof.Machine.execVshuf x b a d s
  | .vbcastImm n a d => Sys2Proof.Machine.execVbcastImm n a d s
  | .vbcastScalar src a d => Sys2Proof.Machine.execVbcastScalar src a d s
  | .vred o a d => Sys2Proof.Machine.execVred o a d s
  | .vscanIncl o a d => Sys2Proof.Machine.execVscanIncl o a d s
  | .vscanExcl o a d => Sys2Proof.Machine.execVscanExcl o a d s
  | .vvoteBallot a src => Sys2Proof.Machine.execVvoteBallot a src s
  | .vvoteEq a src => Sys2Proof.Machine.execVvoteEq a src s
  | .xsend p n src a => Sys2Proof.Machine.execXsend p n src a s
  | .xrecv p n src d => Sys2Proof.Machine.execXrecv p n src d s
  | .xedge w a => Sys2Proof.Machine.execXedge w a s
  | .ld x src m o b t => Sys2Proof.Machine.execLd x src m o b t s
  | .st x src m o b t => Sys2Proof.Machine.execSt x src m o b t s
  | .lds imm b d => Sys2Proof.Machine.execLds imm b d s
  | .sts imm b t => Sys2Proof.Machine.execSts imm b t s
  | .ldacq z src o b t => Sys2Proof.Machine.execLdacq z src o b t s
  | .strel z src o b t => Sys2Proof.Machine.execStrel z src o b t s
  | .pref l x o b => Sys2Proof.Machine.execPref l x o b s
  | .cflush l x o b => Sys2Proof.Machine.execCflush l x o b s
  | .cinv l x o b => Sys2Proof.Machine.execCinv l x o b s
  | .landr d => Sys2Proof.Machine.execLandr d s
  | .unmapv b a => Sys2Proof.Machine.execUnmapv b a s
  | .unmapvDiscard b a => Sys2Proof.Machine.execUnmapvDiscard b a s
  | .unmapvRights b a => Sys2Proof.Machine.execUnmapvRights b a s
  | .fenceAcq src => Sys2Proof.Machine.execFenceAcq src s
  | .fenceRel src => Sys2Proof.Machine.execFenceRel src s
  | .fenceFull src => Sys2Proof.Machine.execFenceFull src s
  | .tcfence => Sys2Proof.Machine.execTcfence s
  | .bar src => Sys2Proof.Machine.execBar src s
  | .bara src => Sys2Proof.Machine.execBara src s
  | .barw src => Sys2Proof.Machine.execBarw src s
  | .mbinit b a => Sys2Proof.Machine.execMbinit b a s
  | .mbexp b a => Sys2Proof.Machine.execMbexp b a s
  | .mbarr b d => Sys2Proof.Machine.execMbarr b d s
  | .mbwait b a => Sys2Proof.Machine.execMbwait b a s
  | .mon a => Sys2Proof.Machine.execMon a s
  | .mwait b d => Sys2Proof.Machine.execMwait b d s
  | .waitcLd b => Sys2Proof.Machine.execWaitcLd b s
  | .waitcSt b => Sys2Proof.Machine.execWaitcSt b s
  | .waitcWh b => Sys2Proof.Machine.execWaitcWh b s
  | .waitcAn b => Sys2Proof.Machine.execWaitcAn b s
  | .waitcRa b => Sys2Proof.Machine.execWaitcRa b s
  | .waitcFe b => Sys2Proof.Machine.execWaitcFe b s
  | .atom o v b t => Sys2Proof.Machine.execAtom o v b t s
  | .red o v b t => Sys2Proof.Machine.execRed o v b t s
  | .xat x o b a d => Sys2Proof.Machine.execXat x o b a d s
  | .xred x o b a d => Sys2Proof.Machine.execXred x o b a d s
  | .wcopy r src d => Sys2Proof.Machine.execWcopy r src d s
  | .wcopyStream r src d => Sys2Proof.Machine.execWcopyStream r src d s
  | .wgather r imm src d => Sys2Proof.Machine.execWgather r imm src d s
  | .wscatter r imm src d => Sys2Proof.Machine.execWscatter r imm src d s
  | .wfill r v d => Sys2Proof.Machine.execWfill r v d s
  | .wcomp r src a => Sys2Proof.Machine.execWcomp r src a s
  | .wdcomp r a d => Sys2Proof.Machine.execWdcomp r a d s
  | .wloado ro n r src => Sys2Proof.Machine.execWloado ro n r src s
  | .wstat b d => Sys2Proof.Machine.execWstat b d s
  | .wcancel b => Sys2Proof.Machine.execWcancel b s
  | .frs r a => Sys2Proof.Machine.execFrs r a s
  | .fag r a => Sys2Proof.Machine.execFag r a s
  | .far r a => Sys2Proof.Machine.execFar r a s
  | .fa2a r a => Sys2Proof.Machine.execFa2a r a s
  | .fbc r a => Sys2Proof.Machine.execFbc r a s
  | .fupd r b a => Sys2Proof.Machine.execFupd r b a s
  | .fshard a => Sys2Proof.Machine.execFshard a s
  | .oclaim c b d => Sys2Proof.Machine.execOclaim c b d s
  | .orel c b => Sys2Proof.Machine.execOrel c b s
  | .oput n b a => Sys2Proof.Machine.execOput n b a s
  | .oget n b d => Sys2Proof.Machine.execOget n b d s
  | .aclaim c b d => Sys2Proof.Machine.execAclaim c b d s
  | .arel c b => Sys2Proof.Machine.execArel c b s
  | .mma t f m k => Sys2Proof.Machine.execMma t f m k s
  | .mmas t f m k => Sys2Proof.Machine.execMmas t f m k s
  | .afence d => Sys2Proof.Machine.execAfence d s
  | .azero y t => Sys2Proof.Machine.execAzero y t s
  | .gangset c => Sys2Proof.Machine.execGangset c s
  | .gangsetPair c => Sys2Proof.Machine.execGangsetPair c s
  | .aguide a => Sys2Proof.Machine.execAguide a s
  | .adrainV t b d => Sys2Proof.Machine.execAdrainV t b d s
  | .adrainO n src f b x => Sys2Proof.Machine.execAdrainO n src f b x s
  | .adrainG t => Sys2Proof.Machine.execAdrainG t s
  | .astash c b f r q p n => Sys2Proof.Machine.execAstash c b f r q p n s
  | .lnch b d => Sys2Proof.Machine.execLnch b d s
  | .lnchTry b d => Sys2Proof.Machine.execLnchTry b d s
  | .trig => Sys2Proof.Machine.execTrig s
  | .rgrow a => Sys2Proof.Machine.execRgrow a s
  | .rshrink a => Sys2Proof.Machine.execRshrink a s
  | .prio b a => Sys2Proof.Machine.execPrio b a s
  | .cohort b d => Sys2Proof.Machine.execCohort b d s
  | .cohortSelf d => Sys2Proof.Machine.execCohortSelf d s
  | .trap n => Sys2Proof.Machine.execTrap n s
  | .rte => Sys2Proof.Machine.execRte s
  | .rteSkip => Sys2Proof.Machine.execRteSkip s
  | .rteR a => Sys2Proof.Machine.execRteR a s
  | .bkpt n => Sys2Proof.Machine.execBkpt n s
  | .trace b a => Sys2Proof.Machine.execTrace b a s
  | .halt => Sys2Proof.Machine.execHalt s
  | .tstamp d => Sys2Proof.Machine.execTstamp d s
  | .perf b d => Sys2Proof.Machine.execPerf b d s
  | .clauseWaitSatisfied age entry => Sys2Proof.Machine.execClauseWaitSatisfied age entry s
  | .subcoreIssueCycle core sub => Sys2Proof.Machine.execSubcoreIssueCycle core sub s
  | .splitEntryHoldEvict core sub => Sys2Proof.Machine.execSplitEntryHoldEvict core sub s
  | .yieldPauseEnd age entry => Sys2Proof.Machine.execYieldPauseEnd age entry s
  | .resultWriteback op => Sys2Proof.Machine.execResultWriteback op s
  | .edgeLatchDeposit age entry => Sys2Proof.Machine.execEdgeLatchDeposit age entry s
  | .rendezvousTransfer wg slot => Sys2Proof.Machine.execRendezvousTransfer wg slot s
  | .rightsWalkComplete core ctx addr => Sys2Proof.Machine.execRightsWalkComplete core ctx addr s
  | .translationWalk ctx addr => Sys2Proof.Machine.execTranslationWalk ctx addr s
  | .loadDataArrive op => Sys2Proof.Machine.execLoadDataArrive op s
  | .loadFaultPark op => Sys2Proof.Machine.execLoadFaultPark op s
  | .faultRecordRetry => Sys2Proof.Machine.execFaultRecordRetry s
  | .faultQueueRegWrite off value => Sys2Proof.Machine.execFaultQueueRegWrite off value s
  | .faultrespResume token => Sys2Proof.Machine.execFaultrespResume token s
  | .faultrespDecline token => Sys2Proof.Machine.execFaultrespDecline token s
  | .landingProbeAnswer core ctx page => Sys2Proof.Machine.execLandingProbeAnswer core ctx page s
  | .llcHbmWriteback ctx line => Sys2Proof.Machine.execLlcHbmWriteback ctx line s
  | .shootdownStart => Sys2Proof.Machine.execShootdownStart s
  | .shootdownDrainDone => Sys2Proof.Machine.execShootdownDrainDone s
  | .shootdownMgtRequest src base len mode => Sys2Proof.Machine.execShootdownMgtRequest src base len mode s
  | .shootdownPackageAnswer pkg => Sys2Proof.Machine.execShootdownPackageAnswer pkg s
  | .sdctlGo value => Sys2Proof.Machine.execSdctlGo value s
  | .releaseRecall core entry => Sys2Proof.Machine.execReleaseRecall core entry s
  | .recallAnswer core entry => Sys2Proof.Machine.execRecallAnswer core entry s
  | .watchFire addr => Sys2Proof.Machine.execWatchFire addr s
  | .mwaitTimeout age entry => Sys2Proof.Machine.execMwaitTimeout age entry s
  | .remoteAtomicRequest req => Sys2Proof.Machine.execRemoteAtomicRequest req s
  | .remoteAtomicAck sub olds flags => Sys2Proof.Machine.execRemoteAtomicAck sub olds flags s
  | .remoteAtomicRnr sub detail => Sys2Proof.Machine.execRemoteAtomicRnr sub detail s
  | .remoteRetryTimer sub => Sys2Proof.Machine.execRemoteRetryTimer sub s
  | .wherryCommandStart core => Sys2Proof.Machine.execWherryCommandStart core s
  | .wherryCountUpdate cmd bytes => Sys2Proof.Machine.execWherryCountUpdate cmd bytes s
  | .wherryCommandComplete cmd => Sys2Proof.Machine.execWherryCommandComplete cmd s
  | .engineXlateFault cmd => Sys2Proof.Machine.execEngineXlateFault cmd s
  | .wherryRemotePacket src stream runs => Sys2Proof.Machine.execWherryRemotePacket src stream runs s
  | .ferryMatch cmd partners => Sys2Proof.Machine.execFerryMatch cmd partners s
  | .ferryComplete cmd => Sys2Proof.Machine.execFerryComplete cmd s
  | .claimZeroingDone age entry => Sys2Proof.Machine.execClaimZeroingDone age entry s
  | .objectRelease core tile index => Sys2Proof.Machine.execObjectRelease core tile index s
  | .gangLatchOpen wg cohort => Sys2Proof.Machine.execGangLatchOpen wg cohort s
  | .arrayKStep core => Sys2Proof.Machine.execArrayKStep core s
  | .arrayQueueEntry age entry => Sys2Proof.Machine.execArrayQueueEntry age entry s
  | .batchComplete age => Sys2Proof.Machine.execBatchComplete age s
  | .guidedDrain core => Sys2Proof.Machine.execGuidedDrain core s
  | .rgrowGrant core => Sys2Proof.Machine.execRgrowGrant core s
  | .rgrowStallEvict core => Sys2Proof.Machine.execRgrowStallEvict core s
  | .launchPortWrite port off size value => Sys2Proof.Machine.execLaunchPortWrite port off size value s
  | .queueReset queue => Sys2Proof.Machine.execQueueReset queue s
  | .queueResetComplete queue => Sys2Proof.Machine.execQueueResetComplete queue s
  | .qresWrite queue value => Sys2Proof.Machine.execQresWrite queue value s
  | .launchStart queue => Sys2Proof.Machine.execLaunchStart queue s
  | .workgroupPlace queue => Sys2Proof.Machine.execWorkgroupPlace queue s
  | .groupRestore age => Sys2Proof.Machine.execGroupRestore age s
  | .groupSave age reason => Sys2Proof.Machine.execGroupSave age reason s
  | .saveAgentApply op => Sys2Proof.Machine.execSaveAgentApply op s
  | .workgroupRetire wg => Sys2Proof.Machine.execWorkgroupRetire wg s
  | .registerFileScrub core => Sys2Proof.Machine.execRegisterFileScrub core s
  | .dbgcmdHalt => Sys2Proof.Machine.execDbgcmdHalt s
  | .dbgcmdResume => Sys2Proof.Machine.execDbgcmdResume s
  | .dbgcmdStep => Sys2Proof.Machine.execDbgcmdStep s
  | .dbgcmdSave => Sys2Proof.Machine.execDbgcmdSave s
  | .debugImageWrite off value => Sys2Proof.Machine.execDebugImageWrite off value s
  | .registerWrite reg value => Sys2Proof.Machine.execRegisterWrite reg value s
  | .hallmarkRequest => Sys2Proof.Machine.execHallmarkRequest s
  | .hallmarkComplete => Sys2Proof.Machine.execHallmarkComplete s
  | .controlCoreAccess pa size op => Sys2Proof.Machine.execControlCoreAccess pa size op s
  | .controlHomeRequest req => Sys2Proof.Machine.execControlHomeRequest req s
  | .flitCrcFail port => Sys2Proof.Machine.execFlitCrcFail port s
  | .linkDown port => Sys2Proof.Machine.execLinkDown port s
  | .heartbeatSend => Sys2Proof.Machine.execHeartbeatSend s
  | .heartbeatReceive pkg => Sys2Proof.Machine.execHeartbeatReceive pkg s
  | .peerSuspect pkg => Sys2Proof.Machine.execPeerSuspect pkg s
  | .packageIsolated => Sys2Proof.Machine.execPackageIsolated s
  | .lossNotice pkg => Sys2Proof.Machine.execLossNotice pkg s
  | .lossRebuildComplete => Sys2Proof.Machine.execLossRebuildComplete s
  | .timeSyncMessage offset => Sys2Proof.Machine.execTimeSyncMessage offset s
  | .pcieInboundRead port addr size => Sys2Proof.Machine.execPcieInboundRead port addr size s
  | .pcieInboundWrite port addr data => Sys2Proof.Machine.execPcieInboundWrite port addr data s
  | .pcieAtomicop port addr size op a c => Sys2Proof.Machine.execPcieAtomicop port addr size op a c s
  | .bootVerify image => Sys2Proof.Machine.execBootVerify image s
  | .rackAssignmentRecord bytes => Sys2Proof.Machine.execRackAssignmentRecord bytes s
  | .droopDetect core => Sys2Proof.Machine.execDroopDetect core s
  | .droopRestore core => Sys2Proof.Machine.execDroopRestore core s
  | .powerLimitStep watts => Sys2Proof.Machine.execPowerLimitStep watts s
  | .inputUndervoltage => Sys2Proof.Machine.execInputUndervoltage s
  | .assaySample core needMv => Sys2Proof.Machine.execAssaySample core needMv s
  | .marginReplan core => Sys2Proof.Machine.execMarginReplan core s
  | .rasErrorEvent err => Sys2Proof.Machine.execRasErrorEvent err s
  | .ferryShardArrival cmd position => Sys2Proof.Machine.execFerryShardArrival cmd position s
  | .pcieErrorReported port correctable => Sys2Proof.Machine.execPcieErrorReported port correctable s

end Sys2Proof.Machine
end

