-- ==== Sys2Proof/Machine/Arrivals.lean ====
section
/-! DEFINITION. What reaches the package beside the events of the opcode table: answers of other packages to its own
packets and requests, copies and snoops of control lines (R396, R398), PCIe messages (R399), and a driver's writes to the
tables of the package's own memory (R202, R414). -/

namespace Sys2Proof.Machine

/-! ## A home's answers (R24, R396, R398) -/

/-- A request of this package is answered: its tag is acknowledged with the next request. -/
def State.askDone (s : State) (tag : Nat) : State :=
  { s with fabric := { s.fabric with asks := s.fabric.asks.filter fun a => a.tag != tag, acks := s.fabric.acks ++ [tag] } }

/-- The request of a tag that is not answered. -/
def State.askOf (s : State) (tag : Nat) : Option HomeAsk := s.fabric.asks.find? fun a => a.tag == tag

/-- The fragment's object instruction has its answer. -/
def Frag.answered (f : Frag) (entry old : Nat) : Frag :=
  match f.hold with
  | .objectOp a u n true none => if f.entry = entry then { f with hold := .objectOp a u n true (some old) } else f
  | _ => f

/-- The fragment's object instruction has still to ask. -/
def Frag.unasked (f : Frag) (entry : Nat) : Frag :=
  match f.hold with
  | .objectOp a u n true none => if f.entry = entry then { f with hold := .objectOp a u n false none } else f
  | _ => f

/-- The home of an object has made the update of an instruction, and answers its old word. -/
def State.objectAnswered (s : State) (age entry old : Nat) : State :=
  s.onGroup age fun g => { g with flow := { g.flow with frags := g.flow.frags.map (·.answered entry old),
                                                        trapFrags := g.flow.trapFrags.map (·.answered entry old) } }

/-- The home of an object cannot translate its page: the group parks at its instruction, which asks again (R428). -/
def State.objectRefused (s : State) (age entry detail off : Nat) : State :=
  let back := fun (f : Frag) => f.unasked entry
  let s1 := s.onGroup age fun g => { g with flow := { g.flow with frags := g.flow.frags.map back, trapFrags := g.flow.trapFrags.map back } }
  match Map.find? s1.groups age with
  | none => s1
  | some g => match g.frag? entry with
    | none => s1
    | some f =>
      let c : Ctx := { age := age, entry := entry, g := g, f := f, len := 4, word := 0, packed := false, clock := s1.issueClock,
                       now := s1.cycleOf g.id.core }
      c.parkState s1 1 detail 0 (controlAddr off)

/-- A home has performed a request: who asked has its answer. -/
def State.homeAnswered (s : State) (tag : Nat) (bytes : List Byte) : State :=
  match s.askOf tag with
  | none => s
  | some a =>
    let t := s.askDone tag
    match a.who, a.op with
    | .lane op lane, _ => t.laneAnswered op lane bytes
    | .engine _, _ => t.packetAcked fun p => p.tag == some tag
    | .core _, .atomic _ _ _ | .core _, .object _ => t.send (.read (BitVec.ofNat 64 (bytesVal bytes)))
    | .port p, .atomic _ _ _ | .port p, .object _ => t.send (.pcieCompletion p bytes)
    | .core _, .write _ | .port _, .write _ => t
    | .store id lane, _ => t.storeAnswered id lane
    | .object age entry, _ => t.objectAnswered age entry (bytesVal bytes)
    | .count x, _ => t.objectMoved x.wg x.ctx x.addr (.add x.n) (bytesVal bytes)
    | .device, _ => t

/-- A home cannot perform a request: the detail of Table 8.10. -/
def State.homeFailed (s : State) (tag detail : Nat) : State :=
  match s.askOf tag with
  | none => s
  | some a =>
    let t := s.askDone tag
    match a.who, a.op with
    | .lane op lane, _ => t.laneRefused op lane detail
    | .engine _, _ => t.packetFailed tag detail
    | .core _, _ => t.send (.accessFault a.off)
    | .port p, .write _ => t.pcieRefuse p true
    | .port p, _ => t.pcieRefuse p false
    | .store id lane, _ => t.storeRefused id lane detail
    | .object age entry, _ => t.objectRefused age entry detail a.off
    | .count x, _ => { t with counts := t.counts ++ [x] }
    | .device, _ => t

/-! ## Copies and snoops -/

/-- This package mirrors a line: the copy goes to frames that no translation reaches, and the result of the request is kept
beside it, for the case that this package becomes the home (R395, R398). -/
def State.applyCopy (s : State) (src line : Nat) (bytes : List Byte) (result : Option (Nat × Nat × List Byte)) : State :=
  let key := 2 ^ 41 + line * 128 % 2 ^ 48
  let cells := (List.range bytes.length).zip bytes
  let phys := cells.foldl (fun m p => Map.set 0 m (key + p.1) p.2) s.mem.phys
  let f := s.fabric
  let t : State := { s with mem := { s.mem with phys := phys }, fabric := { f with answered := result.toList ++ f.answered } }
  t.send (.mirrorAck src line)

/-- Another package's home takes a line back, which is dropped: no line of another home is in the M or O state here, since each
write of it went to its home (R396; log 6). -/
def State.snooped (s : State) (src line : Nat) : State :=
  let t : State := if s.farKey (line * 128) then { s with mem := s.mem.llcDrop line } else s
  t.send (.snoopAnswer src line)

/-! ## The driver's tables -/

/-- Places that hold tables which no address of the package's own programs reaches: the reserved region of HBM (R197), and the
LPDDR that the control tables lie in. -/
def State.tablePlace (s : State) (key : Nat) : Bool :=
  (decide (s.win.reserved.1 ≤ key) && decide (key < s.win.reserved.1 + s.win.reserved.2))
    || (decide (2 ^ 40 ≤ key) && decide (key < 2 ^ 40 + lpddrBytes))

/-- A driver writes bytes of the tables.  PRESUMED (log 106): the spec has the driver map pages (R202, R414), and does not say by
which path it reaches the tables. -/
def State.writeTables (s : State) (key : Nat) (bytes : List Byte) : State :=
  let cells := ((List.range bytes.length).zip bytes).filter fun p => s.tablePlace (key + p.1)
  { s with mem := { s.mem with phys := cells.foldl (fun m p => Map.set 0 m (key + p.1) p.2) s.mem.phys } }

/-! ## What arrives -/

/-- What an arrival does; nothing while it must wait. -/
def State.arrival? (s : State) : Arrival → Option State
  | .bulkAck pkg addr => some (s.packetAcked fun p => p.pkg == pkg && p.addr == addr && p.tag.isNone)
  | .bulkRefused pkg addr d => some (s.packetRefused pkg addr d)
  | .bulkRead src addr n => s.answerRead src addr n
  | .ferryAck pkg list tag => some (s.ferryAcked pkg list tag)
  | .homeAnswer tag l => some (s.homeAnswered tag l)
  | .homeFailed tag d => some (s.homeFailed tag d)
  | .mirrorCopy src line l r => some (s.applyCopy src line l r)
  | .mirrorAck line => some (s.copiesDone (· == line))
  | .snoop src line => some (s.snooped src line)
  | .flitGood port => some (if port < portCount then s.flitGood port else s)
  | .pcieUnsupported port => some (if s.portUp port then s.send (.pcieUnsupported port) else s)
  | .pcieMsi port page ident => some (if s.portUp port then s.send (.interrupt page ident) else s)
  | .tableWrite key l => some (s.writeTables key l)

/-- An arrival is a read that another package's engine makes here. -/
def Arrival.isRead : Arrival → Bool
  | .bulkRead _ _ _ => true
  | _ => false

/-- The arrivals that can be taken next: the oldest, and the oldest read, which alone may have to wait. -/
def State.arrivalsNext (s : State) : List Arrival :=
  ((s.arrivals.find? fun a => !a.isRead).toList ++ (s.arrivals.find? (·.isRead)).toList).filter fun a =>
    (State.arrival? { s with arrivals := s.arrivals.erase a } a).isSome

/-- Take an arrival. -/
def State.arrive (s : State) (a : Arrival) : State :=
  (State.arrival? { s with arrivals := s.arrivals.erase a } a).getD s

end Sys2Proof.Machine
end

