-- ==== Sys2Proof/Machine/Issuing.lean ====
section
/-! DEFINITION. What issues next: the fragment that the last issue cycle selected fetches its instruction, which is
checked against its clause and decoded (R31 to R35, R53, R116). -/

namespace Sys2Proof.Machine

/-- What a step does with an issuing fragment: nothing more, or execute an instruction. -/
inductive Todo where
  | next (s : State)
  | exec (i : Instr) (s : State)

/-- The stopping point at an instruction that could not be fetched: how long it is, and so the address after it, is not
stated (log 8). -/
def State.unfetched (s : State) (f : Frag) : StopPoint :=
  { entry := f.entry, lanes := f.lanes, pc := f.pc, npc := Config.freeWord s.freeCtr, header := none, kept := false }

/-- ILLEGAL at the instruction just fetched. -/
def State.illegalHere (s : State) : State :=
  match s.ctx? with
  | none => s
  | some c => c.stopped s c.illegal

/-- Execute the word just fetched, or ILLEGAL where it does not decode. -/
noncomputable def State.decoded (s : State) (w : Nat) : Todo :=
  match decode w with
  | .ok i => .exec i s
  | .error _ => .next s.illegalHere

/-- The next instruction of a fragment that was selected.  A header is a step of its own, after which the fragment issues
the first instruction of the body in the same cycle (R92). -/
noncomputable def State.issueOne (s : State) (age entry : Nat) (packed : Bool) : Todo :=
  match Map.find? s.groups age with
  | none => .next s
  | some g => match g.frag? entry with
    | none => .next s
    | some f =>
      if !s.mayIssue g || f.wait != .ready then .next s
      else match s.fetch g f.pc with
        | .error .wait => .next s
        | .error (.trap t) => .next (State.takeTrap { s with freeCtr := s.freeCtr + 1 } age (s.unfetched f) t)
        | .ok (n, w, s1) =>
          let s2 := { s1 with cur := some { age := age, entry := entry, len := n, word := w, packed := packed },
                              issueClock := s1.issueClock + 1 }
          if n = 4 ∧ isHeader w = true then
            State.decoded { s2 with issuing := (age, entry, packed) :: s2.issuing } w
          else if f.bodyOk n then s2.decoded w
          else .next s2.illegalHere

end Sys2Proof.Machine
end

