-- ==== Sys2Proof/Machine/Driver.lean ====
section
/-! DEFINITION. What happens when nothing is on the agenda and nothing issues: the clock, the sub-cores in turn, and the
steps of the machine's own units that are due (log 2). -/

namespace Sys2Proof.Machine

/-- The instruction that an event is. -/
noncomputable def eventInstr (e : Event) : Instr :=
  match e with
  | .clauseWaitSatisfied age entry => .clauseWaitSatisfied age entry
  | .subcoreIssueCycle core sub => .subcoreIssueCycle core sub
  | .splitEntryHoldEvict core sub => .splitEntryHoldEvict core sub
  | .yieldPauseEnd age entry => .yieldPauseEnd age entry
  | .resultWriteback op => .resultWriteback op
  | .edgeLatchDeposit age entry => .edgeLatchDeposit age entry
  | .rendezvousTransfer wg slot => .rendezvousTransfer wg slot
  | .rightsWalkComplete core ctx addr => .rightsWalkComplete core ctx addr
  | .translationWalk ctx addr => .translationWalk ctx addr
  | .loadDataArrive op => .loadDataArrive op
  | .loadFaultPark op => .loadFaultPark op
  | .faultRecordRetry => .faultRecordRetry
  | .faultQueueRegWrite off value => .faultQueueRegWrite off value
  | .faultrespResume token => .faultrespResume token
  | .faultrespDecline token => .faultrespDecline token
  | .landingProbeAnswer core ctx page => .landingProbeAnswer core ctx page
  | .llcHbmWriteback ctx line => .llcHbmWriteback ctx line
  | .shootdownStart => .shootdownStart
  | .shootdownDrainDone => .shootdownDrainDone
  | .shootdownMgtRequest src base len mode => .shootdownMgtRequest src base len mode
  | .shootdownPackageAnswer pkg => .shootdownPackageAnswer pkg
  | .sdctlGo value => .sdctlGo value
  | .releaseRecall core entry => .releaseRecall core entry
  | .recallAnswer core entry => .recallAnswer core entry
  | .watchFire addr => .watchFire addr
  | .mwaitTimeout age entry => .mwaitTimeout age entry
  | .remoteAtomicRequest req => .remoteAtomicRequest req
  | .remoteAtomicAck sub olds flags => .remoteAtomicAck sub olds flags
  | .remoteAtomicRnr sub detail => .remoteAtomicRnr sub detail
  | .remoteRetryTimer sub => .remoteRetryTimer sub
  | .wherryCommandStart core => .wherryCommandStart core
  | .wherryCountUpdate cmd bytes => .wherryCountUpdate cmd bytes
  | .wherryCommandComplete cmd => .wherryCommandComplete cmd
  | .engineXlateFault cmd => .engineXlateFault cmd
  | .wherryRemotePacket src stream runs => .wherryRemotePacket src stream runs
  | .ferryMatch cmd partners => .ferryMatch cmd partners
  | .ferryComplete cmd => .ferryComplete cmd
  | .claimZeroingDone age entry => .claimZeroingDone age entry
  | .objectRelease core tile index => .objectRelease core tile index
  | .gangLatchOpen wg cohort => .gangLatchOpen wg cohort
  | .arrayKStep core => .arrayKStep core
  | .arrayQueueEntry age entry => .arrayQueueEntry age entry
  | .batchComplete age => .batchComplete age
  | .guidedDrain core => .guidedDrain core
  | .rgrowGrant core => .rgrowGrant core
  | .rgrowStallEvict core => .rgrowStallEvict core
  | .launchPortWrite core queue off size value => .launchPortWrite ⟨core, queue⟩ off size value
  | .queueReset queue => .queueReset queue
  | .queueResetComplete queue => .queueResetComplete queue
  | .qresWrite queue value => .qresWrite queue value
  | .launchStart queue => .launchStart queue
  | .workgroupPlace queue => .workgroupPlace queue
  | .groupRestore age => .groupRestore age
  | .groupSave age reason => .groupSave age reason
  | .saveAgentApply op => .saveAgentApply op
  | .workgroupRetire wg => .workgroupRetire wg
  | .registerFileScrub core => .registerFileScrub core
  | .dbgcmdHalt => .dbgcmdHalt
  | .dbgcmdResume => .dbgcmdResume
  | .dbgcmdStep => .dbgcmdStep
  | .dbgcmdSave => .dbgcmdSave
  | .debugImageWrite off value => .debugImageWrite off value
  | .registerWrite core off value => .registerWrite ⟨core, off⟩ value
  | .hallmarkRequest => .hallmarkRequest
  | .hallmarkComplete => .hallmarkComplete
  | .controlCoreAccess core pa size op => .controlCoreAccess pa size ⟨core, op⟩
  | .controlHomeRequest req => .controlHomeRequest req
  | .flitCrcFail port => .flitCrcFail port
  | .linkDown port => .linkDown port
  | .heartbeatSend => .heartbeatSend
  | .heartbeatReceive pkg => .heartbeatReceive pkg
  | .peerSuspect pkg => .peerSuspect pkg
  | .packageIsolated => .packageIsolated
  | .lossNotice pkg => .lossNotice pkg
  | .lossRebuildComplete => .lossRebuildComplete
  | .timeSyncMessage offset => .timeSyncMessage offset
  | .pcieInboundRead port addr size => .pcieInboundRead port addr size
  | .pcieInboundWrite port addr data => .pcieInboundWrite port addr data
  | .pcieAtomicop port addr size op a c => .pcieAtomicop port addr size op a c
  | .bootVerify image => .bootVerify image
  | .rackAssignmentRecord bytes => .rackAssignmentRecord bytes
  | .droopDetect core => .droopDetect core
  | .droopRestore core => .droopRestore core
  | .powerLimitStep watts => .powerLimitStep watts
  | .inputUndervoltage => .inputUndervoltage
  | .assaySample core needMv => .assaySample core needMv
  | .marginReplan core => .marginReplan core
  | .rasErrorEvent err => .rasErrorEvent err
  | .ferryShardArrival cmd position => .ferryShardArrival cmd position
  | .pcieErrorReported port correctable => .pcieErrorReported port correctable

/-- The event is no act of a core, a control core or a port: boot itself, the board, and the monitors of the dies. -/
def ofBoard : Event → Bool
  | .bootVerify _ | .rackAssignmentRecord _ | .droopDetect _ | .droopRestore _ | .powerLimitStep _ | .inputUndervoltage
  | .assaySample _ _ | .marginReplan _ | .rasErrorEvent _ => true
  | _ => false

/-- An event can happen: every core, control core and port is held in reset until the boot checks have passed, so that nothing
which they would do or receive does (R403). -/
def State.admits (s : State) (e : Event) : Bool := s.boot.verified || ofBoard e

/-! ## The clock -/

/-- The sub-cores that hold groups and whose clock ticks in this period. -/
def State.turns (s : State) : List (Nat × Nat) :=
  ((s.groups.filter fun p => p.2.id.resident && !(s.core p.2.id.core).phase).map
    fun p => (p.2.id.core, subOf p.2.id.slot)).eraseDups

/-- The next of them in this period, in the order of their numbers, 4 to a core: a sub-core that takes in or gives up a group in the
middle of a period runs no second cycle in it, and no other loses its own. -/
def State.nextTurn (s : State) : Option Nat :=
  ((s.turns.map fun p => 4 * p.1 + p.2).filter fun k => decide (s.turn ≤ k)).min?

/-- Clock of a core in MHz, before the droop response halves it: the top clock of its plan, less the steps of the power limit
(R406, R408).  DESIGN CHOICE (log 11): a plan with no clock, or one above the nominal 1,600 MHz, runs at that. -/
def State.clockOf (s : State) (core : Nat) : Nat :=
  let top := (Map.get 0 s.plat.margin core).toNat % 4096
  max 25 ((if top = 0 ∨ 1600 < top then 1600 else top) - 25 * s.plat.throttle)

/-- A core in the next period of the nominal clock, at a clock of so many MHz: its cycle begins once a whole period of its own
has gathered, in halves of it while the droop response is on (R8, R407); a core counts the cycles in which nothing
issues (R359). -/
def Core.tick (c : Core) (mhz : Nat) : Core :=
  let acc := c.acc + (if c.half then mhz else 2 * mhz)
  if acc < 3200 then { c with acc := acc, phase := true, lost := c.lost + 1 }
  else { c with acc := acc - 3200, phase := false, idle := min (c.idle + 1) 4096 }

/-- Every core in the next period: those at the nominal clock that nothing has touched need no entry. -/
def State.tickCores (s : State) : Cells Core :=
  if s.plat.throttle = 0 ∧ (s.plat.margin.all fun p => s.clockOf p.1 == 1600) = true then
    s.cores.map fun p => (p.1, p.2.tick 1600)
  else (List.range coreCount).foldl (fun m k => Map.set Core.reset m k ((s.core k).tick (s.clockOf k))) s.cores

/-- Periods of the nominal clock between two passes of the scrubber: 10 ms (R372). -/
def scrubPeriod : Nat := 16000000

/-- The scrubber's pass over the cores that hold poisoned entries. -/
def State.scrubs (s : State) : List Event :=
  ((s.groups.filter fun p => p.2.id.resident && !p.2.regs.poison.isEmpty).map fun p => p.2.id.core).eraseDups.map
    Event.registerFileScrub

/-- The correction of TIMENS in this period, in eighths of a ns: 100 ppm is one in 2,000 periods (R401). -/
def State.slewNow (s : State) : Int :=
  if s.ticks % 2000 ≠ 0 then 0 else if 0 < s.plat.slew then 1 else if s.plat.slew < 0 then -1 else 0

/-- The next period of the nominal clock: 0.625 ns (R8). -/
def State.tick (s : State) : State :=
  let k := s.slewNow
  { s with
    time8 := ((s.time8 : Int) + 5 + k).toNat,
    plat := { s.plat with slew := s.plat.slew - k },
    ticks := s.ticks + 1, turn := 0,
    cores := s.tickCores,
    agenda := s.agenda ++ (if (s.ticks + 1) % scrubPeriod = 0 then s.scrubs else []) }

/-! ## What is due -/

/-- What a fragment waits for has come: the end of a pause, the flags of a header, the time of an MWAIT. -/
def State.fragDue (s : State) (age : Nat) (g : Group) (f : Frag) : List Event :=
  match f.wait with
  | .paused => if f.pausedUntil ≤ s.cycleOf g.id.core then [.yieldPauseEnd age f.entry] else []
  | .clause =>
    let clear := match s.fetch g f.pc with
      | .ok (_, w, _) => s.headerClear g age w
      | .error (.trap _) => true
      | .error .wait => false
    if clear then [.clauseWaitSatisfied age f.entry] else []
  | .held => match f.hold with
    | .watch _ (some t) => if t ≤ s.time8 then [.mwaitTimeout age f.entry] else []
    | _ => []
  | _ => []

/-- What comes before anything else: links that have failed go down, the heartbeat, and fragments that need wait no longer. -/
def State.urgent (s : State) : List Event :=
  s.linksFailed.map Event.linkDown ++ (if s.beatDue then [.heartbeatSend] else [])
    ++ s.groups.flatMap fun p =>
      if p.2.id.resident && s.mayIssue p.2 then p.2.bank.flatMap (s.fragDue p.1 p.2) else []

/-- What an instruction in flight can do next: write its results, take data, or park; for a saved group its save agent
acts (R377). -/
def State.pendDue (s : State) (p : Pend) : List Event :=
  match p.kind, Map.find? s.groups p.age with
  | .result _ _ _, _ | .wstat _ _, _ => [.resultWriteback p.id]
  | .load l, some g =>
    let left := l.addrs.filter fun a => l.waits a.1
    if !left.isEmpty && left.all fun a => l.isParked a.1 || l.isSynonym a.1 then []
    else if g.id.resident then .loadDataArrive p.id :: if (s.failing g p l).isEmpty then [] else [.loadFaultPark p.id]
    else [.saveAgentApply p.id]
  | _, _ => []

/-- The probes of landing records that can be answered. -/
def State.probesDue (s : State) : List Event :=
  (s.landing.flatMap fun r => (r.lanes.filter fun l => !l.landed && !l.faulted && !l.confirmed).map fun l =>
    Event.landingProbeAnswer r.core r.ctx (BitVec.ofNat 64 (l.addr.toNat / 65536 * 65536))).eraseDups

/-- An access of another core or agent asks for a line that a core has marked (R230). -/
def State.wantsLine (s : State) (core line : Nat) : Bool :=
  (s.pend.any fun p => match p.kind, Map.find? s.groups p.age with
    | .load l, some g => g.id.core != core && l.addrs.any fun a => l.waits a.1 && lineOf (vkey g.id.ctx a.2) == line
    | _, _ => false)
    || (s.landing.any fun r => r.core != core && r.lanes.any fun l => !l.landed && lineOf (r.key l) == line)
    || (s.wherry.any fun w => w.active && (w.left_ ++ w.sources).any fun r => overlap (vkey w.ctx r.1) r.2 (line * 128) 128)
    || !s.ferry.isEmpty || !s.inbox.isEmpty || s.remote.any fun r => r.peer == s.pkg

/-- Recalls that a slice sends, and their answers. -/
def State.recallsDue (s : State) : List Event :=
  ((s.mem.marks.filter fun m => s.wantsLine m.2.1 m.1).map fun m =>
    if (relStamp? (s.core m.2.1).relEntries m.2.2).isSome then Event.releaseRecall m.2.1 m.2.2
    else Event.recallAnswer m.2.1 m.2.2).eraseDups

/-- What the memory system and the engines can do next. -/
def State.memoryDue (s : State) : List Event :=
  s.pend.flatMap s.pendDue ++ s.probesDue ++ s.recallsDue
    ++ (if s.shootdownNext.isSome then [.shootdownStart] else [])
    ++ (if s.shootdownDrained.isSome then [.shootdownDrainDone] else [])
    ++ (if s.faultWait.isEmpty then [] else [.faultRecordRetry])
    ++ s.remoteDue
    ++ (s.remoteRequests.filter fun q => q.2.2.waiting && decide (q.2.2.retryAt ≤ s.time8)).map
        (fun q => Event.remoteRetryTimer (q.1.name q.2.2))
    ++ ((s.wherry.map (·.core)).eraseDups.filter fun c => !(s.startable c).isEmpty).map Event.wherryCommandStart
    ++ s.wherry.flatMap s.wherryDue
    ++ s.ferry.flatMap s.ferryDue

/-- What a workgroup can do next: a transfer at a rendezvous slot, or its retirement. -/
def State.wgDue (s : State) (id : Nat) (w : Workgroup) : List Event :=
  (w.slots.filter fun p => match p.2.send, p.2.recv with
    | some x, some r => sidesMatch x r && s.bothRun x.age r.age
    | _, _ => false).map (fun p => Event.rendezvousTransfer id p.1)
    ++ if s.retires id then [.workgroupRetire id] else []

/-- What a group can do next, but for its fragments. -/
def State.groupDue (s : State) (age : Nat) (g : Group) : List Event :=
  ((g.flow.frags ++ g.flow.trapFrags).flatMap fun f => match f.wait, f.hold with
    | .held, .deposits _ _ => [Event.edgeLatchDeposit age f.entry]
    | _, _ => [])
    ++ (match g.work.batches with
      | b :: _ => if b.ops.isEmpty then [Event.batchComplete age] else []
      | [] => [])
    ++ s.claimsDue age g ++ s.saveDue age g
    ++ if g.id.resident && s.starved g && !(s.splitVictims g.id.core (subOf g.id.slot)).isEmpty then
      [.splitEntryHoldEvict g.id.core (subOf g.id.slot)]
    else []

/-- What a core can do next. -/
def State.coreDue (s : State) (core : Nat) : List Event :=
  s.objectsDue core ++ (if s.growReady core then [.rgrowGrant core] else [])
    ++ if (s.growVictims core).isEmpty then [] else [.rgrowStallEvict core]

/-- What the management core does next by itself. -/
def State.rackDue (s : State) : List Event :=
  (s.livePackages.filter s.unheard).map Event.peerSuspect
    ++ (if s.cutOff then [.packageIsolated] else [])
    ++ (if s.fabric.rebuilding.isEmpty || !s.rebuilt then [] else [.lossRebuildComplete])
    ++ if s.plat.hmBusy && !s.hallmarkWaits then [.hallmarkComplete] else []

/-- The steps of the machine's own units that can happen now, in any order. -/
def State.due (s : State) : List Event :=
  s.memoryDue ++ s.wgs.flatMap (fun p => s.wgDue p.1 p.2) ++ s.groups.flatMap (fun p => s.groupDue p.1 p.2)
    ++ s.cores.flatMap (fun p => s.coreDue p.1) ++ s.queues.flatMap (fun p => s.queueDue p.1 p.2)
    ++ s.placeDue ++ s.restoreDue ++ s.rackDue

/-! ## What the caches and pipelines do of themselves -/

/-- A step that may be taken at any time, and that nothing asks for. -/
inductive Quiet where
  /-- A line leaves a core's L1 (R195, R223). -/
  | evictL1 (core line : Nat)
  /-- An entry leaves a core's permission cache (R193). -/
  | dropPerm (core : Nat) (e : PermEntry)
  /-- A translation unit drops a translation (R426). -/
  | dropXlate (u : Nat) (r : PageRun)
  /-- A line leaves its LLC slice or the control cache (R427). -/
  | evictLlc (line : Nat)
  /-- The lanes of a landing record land that wait for no probe and that nothing holds back any more (R207). -/
  | land (id : Nat)
  /-- One lane of a load or atomic gets its data before the others (R85). -/
  | lane (op lane : Nat)
  /-- One lane of a result in flight is written before the others (R41). -/
  | cell (op index : Nat)
  /-- A line falls out of the tracking of a group's watch, which is lost (R246; log 125). -/
  | loseWatch (age : Nat)
  /-- A count that was kept is made on its object (R266, R275; log 91). -/
  | count
  deriving DecidableEq, Repr

/-- A line that is not pinned leaves a core's L1, its dirty bytes written back. -/
def State.evictL1 (s : State) (core line : Nat) : State := if s.pinned core line then s else s.expel core line

/-- A line leaves its LLC slice, once a mark on it is recalled and its dirty bytes are written; one that cannot be written
stays (R427). -/
def State.evictLlc (s : State) (line : Nat) : State :=
  let t := (s.recallLine line).llcWriteback line
  if (t.mem.dirtyOf line).isEmpty then { t with mem := t.mem.llcDrop line } else t

/-- Write one lane of a result in flight. -/
def State.writeCell (s : State) (op index : Nat) : State :=
  match s.pend.find? fun p => p.id == op with
  | none => s
  | some p => match p.kind with
    | .result vw sw fp => match vw[index]? with
      | none => s
      | some c => (s.onGroup p.age fun g => g.setCells [c]).onPend op (.result (vw.eraseIdx index) sw fp)
    | _ => s

/-- Take such a step. -/
def State.quiet (s : State) : Quiet → State
  | .evictL1 core line => s.evictL1 core line
  | .dropPerm core e => s.onCore core fun c => { c with perms := c.perms.erase e }
  | .dropXlate u r => { s with mem := { s.mem with xlate := s.mem.xlate.erase (u, r) } }
  | .evictLlc line => s.evictLlc line
  | .land id => (s.landLanes id).settleRecords
  | .lane op lane => s.arriveLanes op fun a => a.1 == lane
  | .cell op index => s.writeCell op index
  | .loseWatch age => s.onGroup age fun g => { g with work := { g.work with watch := g.work.watch.map fun w => { w with lost := true } } }
  | .count => match s.countDue with
    | none => s
    | some (x, rest) => State.makeCount { s with counts := rest } x

/-- The lines that a core's L1 holds. -/
def Core.l1Lines (c : Core) : List Nat := (c.l1.map fun p => lineOf p.1).eraseDups

/-- The lines of the LLC slices and of the control cache. -/
def State.cachedLines (s : State) : List Nat := (s.mem.llc.map fun p => lineOf p.1).eraseDups

/-- The steps that may be taken now. -/
def State.quietSteps (s : State) : List Quiet :=
  (s.cores.flatMap fun p => (p.2.l1Lines.filter fun l => !s.pinned p.1 l).map (Quiet.evictL1 p.1) ++ p.2.perms.map (Quiet.dropPerm p.1))
    ++ s.mem.xlate.map (fun p => Quiet.dropXlate p.1 p.2) ++ s.cachedLines.map Quiet.evictLlc
    ++ (s.landing.filter s.canLand).map (fun r => Quiet.land r.id)
    ++ s.pend.flatMap (fun p => match p.kind with
      | .load l => (l.addrs.filter fun a => l.waits a.1).map fun a => Quiet.lane p.id a.1
      | .result vw _ _ => (List.range vw.length).map (Quiet.cell p.id)
      | _ => [])
    ++ (s.groups.filter fun p => p.2.work.watch.any fun w => !w.fired && !w.lost).map (fun p => Quiet.loseWatch p.1)
    ++ if s.countDue.isSome then [.count] else []

/-! ## Capacity (R15, R193, R195, R196, R427) -/

/-- The things of which more than `ways` lie in one set. -/
def crowded (ways : Nat) (set : Nat → Nat) (l : List Nat) : List Nat :=
  l.filter fun x => decide (ways < (l.filter fun y => set y == set x).length)

/-- The set of a line in its LLC slice, or in the control cache. -/
noncomputable def llcSet (line : Nat) : Nat :=
  if keySpace (line * 128) = .control then Config.llcIndex line % 2 ^ (22 - Config.controlWaysLog.val)
  else Config.llcIndex line % 2 ^ (23 - Config.llcWaysLog.val) * 16 + sliceOf (line * 128 % 2 ^ 48)

/-- What leaves a cache that holds more than it has room for: any line that can, so that the line which was allocated last may be
the one that is not (R195, R427). -/
noncomputable def State.evictions (s : State) : List Quiet :=
  let control := fun (line : Nat) => decide (keySpace (line * 128) = .control)
  let lines := s.cachedLines
  let stored := s.landing.flatMap fun r => r.lanes.map fun l => lineOf (r.key l)
  (s.cores.flatMap fun p =>
      let held := (p.2.l1Lines ++ stored.filter (s.pinned p.1)).eraseDups
      ((crowded 16 l1Set held).filter fun l => !s.pinned p.1 l).map (Quiet.evictL1 p.1)
      ++ (p.2.perms.filter fun e => (crowded 8 (· % 64) (p.2.perms.map (·.page))).contains e.page).map (Quiet.dropPerm p.1))
    ++ ((crowded (2 ^ Config.controlWaysLog.val) llcSet (lines.filter control)
        ++ crowded (2 ^ Config.llcWaysLog.val) llcSet (lines.filter fun l => !control l)).filter fun l =>
          !(s.evictLlc l).cachedLines.contains l).map Quiet.evictLlc

/-! ## The machine's own step -/

/-- What the machine can do of its own. -/
inductive Choice where
  | request (place : Nat)
  | event (e : Event)
  | arrival (a : Arrival)
  | quiet (q : Quiet)
  deriving DecidableEq, Repr

/-- All of that: a request that waits, a step that is due, what arrives, or a step that may be taken at any time. -/
def State.choices (s : State) : List Choice :=
  (List.range s.inbox.length).map Choice.request ++ s.due.map Choice.event ++ s.arrivalsNext.map Choice.arrival
    ++ s.quietSteps.map Choice.quiet

/-- Do it. -/
noncomputable def State.choose (s : State) : Choice → Todo
  | .request i => match s.inbox[i]? with
    | some p => .exec (eventInstr p.2) (s.serve i)
    | none => .next s
  | .event e => .exec (eventInstr e) s
  | .arrival a => .next (s.arrive a)
  | .quiet q => .next (s.quiet q)

/-- The schedule's pick of n, and the state after it. -/
noncomputable def State.pick (s : State) (n : Nat) : Nat × State :=
  (Config.schedule s.freeCtr % n, { s with freeCtr := s.freeCtr + 1 })

/-- The next sub-core's cycle of this period, or the clock. -/
noncomputable def State.cycle (s : State) : Todo :=
  match s.nextTurn with
  | some k => .exec (.subcoreIssueCycle (k / 4) (k % 4)) { s with turn := k + 1 }
  | none => .next s.tick

/-- The next step of the machine's own: nothing but the clock before boot, when what arrives is lost (R403); the end of a debugger's
step, or a stop that waited; what is urgent; what leaves a cache that is too full; else, as the schedule of the implementation
picks, one of its choices or the cycle. -/
noncomputable def State.own (s : State) : Todo :=
  if !s.boot.verified then .next { s.tick with arrivals := [], inbox := [] }
  else if s.stepOver then .next s.endStep
  else if s.haltDue.isSome then .next (s.haltNow (s.haltDue.getD 0))
  else match s.urgent with
    | e :: _ => .exec (eventInstr e) s
    | [] => match s.evictions with
      | q :: l =>
        let (i, s1) := s.pick (l.length + 1)
        .next (s1.quiet ((l[i]?).getD q))
      | [] =>
        let (i, s1) := s.pick (s.choices.length + 1)
        match s.choices[i]? with
        | some c => s1.choose c
        | none => s1.cycle

end Sys2Proof.Machine
end

