-- ==== Sys2Proof/Machine/Step.lean ====
section
/-! DEFINITION. One step of the machine, and the placing of one instruction for it to fetch. -/

namespace Sys2Proof.Machine

/-- What the next step does: the event at the head of the agenda, which is lost where its agent is held in reset (R403), else the
fragment that was selected, else the machine's own next step (log 2). -/
noncomputable def State.todo (s : State) : Todo :=
  match s.agenda with
  | e :: rest => if s.admits e then .exec (eventInstr e) { s with agenda := rest } else .next { s with agenda := rest }
  | [] => match s.issuing with
    | (age, entry, packed) :: rest => State.issueOne { s with issuing := rest } age entry packed
    | [] => s.own

/-- One step. -/
noncomputable def step (s : State) : Host.Outcome State Fault Refusal :=
  match s.todo with
  | .next s' => .next s'
  | .exec i s' => exec i s'

/-! ## Placing an instruction (log 9) -/

/-- Tensor offset at which `withFetchWord` places an instruction. -/
def fetchOffset : Nat := 0x800000

/-- The clause header in force for a placed instruction: no wait, FA = 0, FB = 1, no guard. -/
def fetchHeader : BitVec 32 := 0x00800001#32

/-- The group that runs a placed instruction: age 0, in slot 0 of core 0, alone in its workgroup, with 512 registers. -/
def fetchGroup (s : State) : Group :=
  let id : Ident := { age := 0, launch := 0, wg := 0, wgIndex := 0, num := 0, ctx := 0, queue := 0, core := 0, slot := 0,
                      cls := 0, resident := true, saving := 0, halted := false, dbl := false }
  let start : GroupStart := { entry := s.tensorAddr fetchOffset, args := 0, coords := 0, alloc := 512,
                              privHwm := 0, rsBase := 0x8000000000000000, trapVec := 0 }
  (Group.create id start 0 s.issueClock).onFrag 0 fun f => { f with header := some fetchHeader, needHeader := false }

/-- The workgroup of that group. -/
def fetchWorkgroup : Workgroup :=
  { id := 0, launch := 0, queue := 0, ctx := 0, index := 0, core := 0, groups := 1, shSize := 1048576, cls := 0, prio := 0,
    ten := false, tq := 0, session := 0, cohorts := [], hasTable := false, shared := [], barriers := [], latches := [],
    slots := [], exited := 0, sent := false, saved := false }

/-- The state with an instruction placed at the address of a group of its own, which was selected to issue: the group and
its workgroup, the execute right of the page in the core's permission cache, and the bytes, zero-extended to 32 bits, in
the LLC. -/
def State.withFetchWord (s : State) (nbits w : Nat) : State :=
  let vk := (s.tensorAddr fetchOffset).toNat
  let bytes := valBytes 4 (w % 2 ^ nbits)
  let llc := ((List.range 4).zip bytes).foldl (fun m p => Map.insert m (vk + p.1) { val := p.2, dirty := true }) s.mem.llc
  let code : PermEntry := { ctx := 0, page := pageOf vk, rights := { rd := true, wr := true, at_ := true, ex := true, cls := 0 } }
  { s with
    mem := { s.mem with llc := llc, poison := s.mem.poison.filter fun p => p != poisonLlc vk, past := [] },
    cores := Map.set Core.reset s.cores 0 { s.core 0 with perms := code :: (s.core 0).perms },
    groups := Map.insert s.groups 0 (fetchGroup s),
    wgs := Map.insert s.wgs 0 fetchWorkgroup,
    parks := s.parks.filter fun p => p.age != 0,
    remote := s.remote.filter fun r => r.age != 0,
    shootdowns := s.shootdowns.filter fun d => !d.started,
    boot := { s.boot with verified := true },
    nextAge := max s.nextAge 1,
    agenda := [],
    issuing := [(0, 0, false)] }

end Sys2Proof.Machine
end

