-- ==== Sys2Proof/Safety.lean ====
section
/-! DEFINITION. What counts as a safe run, and the words in which the statements say what an instruction leaves. -/

namespace Sys2Proof.Machine

/-! ## Runs -/

/-- The step answers a next state: neither a fault nor a refusal. -/
def State.Goes (s : State) : Prop := ∃ t, step s = .next t

/-- A state that n steps lead to. -/
inductive Reaches : State → Nat → State → Prop where
  | refl (s : State) : Reaches s 0 s
  | step {s t u : State} {n : Nat} (h : Machine.step s = .next t) (r : Reaches t n u) : Reaches s (n + 1) u

/-- A run of n steps from a state is safe: every state on the way goes on. -/
def SafeFor (n : Nat) (s : State) : Prop := ∀ m t, m < n → Reaches s m t → t.Goes

/-! ## What a register instruction leaves -/

/-- `g'` is `g` with scalar register `d` written: s63 reads zero and discards the write; every other scalar register,
the bank that is not in use, and all else of the group are unchanged. -/
structure Group.ScalarFrom (g' g : Group) (d : BitVec 6) (w : Word) : Prop where
  value : g'.s d = if d = 63#6 then 0 else w
  others : ∀ n, n ≠ d → g'.s n = g.s n
  hidden : if g.flow.trapMode then ∀ i, 48 ≤ i → i ≤ 55 → Map.get 0 g'.regs.s i = Map.get 0 g.regs.s i
    else g'.regs.ts = g.regs.ts
  discarded : d = 63#6 → g' = g
  rest : g' = { g with regs := { g.regs with s := g'.regs.s, ts := g'.regs.ts } }

/-- `g'` is `g` with the lanes of a mask written in `n` vector registers from the key `k`; a cell written is clean; every
other cell and its poison, and all else of the group, are unchanged. -/
structure Group.VectorFrom (g' g : Group) (k n : Nat) (lanes : Lane) (f : Nat → Nat → Lane) : Prop where
  value : ∀ l j, lanes.getLsbD l = true → j < n → g'.cell (k + j) l = f l j
  others : ∀ i l, l < 32 → ¬ (lanes.getLsbD l = true ∧ k ≤ i ∧ i < k + n) → g'.cell i l = g.cell i l
  poison : ∀ i l, l < 32 → (32 * i + l ∈ g'.regs.poison ↔
    32 * i + l ∈ g.regs.poison ∧ ¬ (lanes.getLsbD l = true ∧ k ≤ i ∧ i < k + n))
  rest : g' = { g with regs := { g.regs with v := g'.regs.v, tv := g'.regs.tv, poison := g'.regs.poison } }

/-- `g'` is `g` with the bits of a mask written in mask register `n`; the other bits, the other mask registers and all
else of the group are unchanged. -/
structure Group.MaskFrom (g' g : Group) (n : Nat) (lanes : Lane) (p : Nat → Bool) : Prop where
  value : ∀ l, lanes.getLsbD l = true → (g'.m n).getLsbD l = p l
  kept : ∀ l, lanes.getLsbD l = false → (g'.m n).getLsbD l = (g.m n).getLsbD l
  others : ∀ j, j ≠ n → g'.m j = g.m j
  rest : g' = { g with regs := { g.regs with m := g'.regs.m } }

/-- `g'` is `g` with condition bit `n` written. -/
structure Group.CondFrom (g' g : Group) (n : BitVec 2) (b : Bool) : Prop where
  value : g'.c n = b
  others : ∀ k, k ≠ n → g'.c k = g.c k
  rest : g' = { g with regs := { g.regs with c := g'.regs.c } }

/-! ## What else an instruction leaves of its group -/

/-- In `t` the group of the fragment is `g'`, and the fragment stands at the next instruction with its lanes and header. -/
def Ctx.GoesOn (c : Ctx) (t : State) (g' : Group) : Prop :=
  Map.find? t.groups c.age = some g' ∧ ∃ f, g'.frag? c.entry = some f ∧ f.pc = c.npc ∧ f.lanes = c.f.lanes ∧ f.header = c.f.header

/-- The group's registers, special registers and identity are as they were. -/
def Group.SameRegisters (g' g : Group) : Prop := g'.regs = g.regs ∧ g'.sys = g.sys ∧ g'.id = g.id

/-! ## When a vector instruction can run -/

/-- Every run of registers lies within the allocation (R51, R52). -/
def Ctx.Fits (c : Ctx) (rs : List (Nat × Nat)) : Prop := ∀ r ∈ rs, c.g.runOk r = true

/-- No entry that the lanes read in the runs of registers is poisoned (R372). -/
def Ctx.Clean (c : Ctx) (lanes : Lane) (rs : List (Nat × Nat)) : Prop :=
  ∀ l, lanes.getLsbD l = true → ∀ r ∈ rs, ∀ j < r.2, 32 * (c.g.vKey r.1 + j) + l ∉ c.g.regs.poison

/-! ## Completion -/

/-- The instruction completes with one scalar register written. -/
def ScalarResult (s : State) (c : Ctx) (i : Instr) (d : BitVec 6) (w : Word) : Prop :=
  ∃ g', exec i s = .next (c.done s g') ∧ g'.ScalarFrom c.g d w

/-- The instruction completes with one condition bit written. -/
def CondResult (s : State) (c : Ctx) (i : Instr) (n : BitVec 2) (b : Bool) : Prop :=
  ∃ g', exec i s = .next (c.done s g') ∧ g'.CondFrom c.g n b

/-- The instruction completes with the active lanes' bits of a mask register written. -/
def MaskResult (s : State) (c : Ctx) (i : Instr) (n : Nat) (lanes : Lane) (p : Nat → Bool) : Prop :=
  ∃ g', exec i s = .next (c.done s g') ∧ g'.MaskFrom c.g n lanes p

/-- The instruction completes with the active lanes of `n` registers from vector register `d` written, and with flags
joined to FPSTAT (R68). -/
def VectorResult (s : State) (c : Ctx) (i : Instr) (d n : Nat) (f : Nat → Nat → Lane) (fl : Flags) : Prop :=
  ∃ g' : Group, exec i s = .next (c.done s (g'.orFp fl)) ∧ g'.VectorFrom c.g (c.g.vKey d) n c.active f

/-- What the results of an instruction in flight make of its group: its vector entries, then its scalar registers, then its
flags (R39, R140). -/
def Pend.Writes (p : Pend) (g' g : Group) : Prop :=
  ∃ vw sw fp, p.kind = .result vw sw fp ∧ g' = (sw.foldl (fun h w => h.setSKey w.1 w.2) (g.setCells vw)).orFp fp

/-- The instruction goes on with no register written, in flight under a flag, in a state that is `s1` but for that; and what
it will write, in a group whose trap mode is as it was at issue, is as `Q` says of the group after and before. -/
def LaterFrom (s s1 : State) (c : Ctx) (i : Instr) (flag : Option Nat) (Q : Group → Group → Prop) : Prop :=
  ∃ p : Pend, exec i s = .next { c.done s1 c.g with pend := s1.pend ++ [p], nextOp := s1.nextOp + 1 } ∧
    p.id = s1.nextOp ∧ p.age = c.age ∧ p.flag = flag ∧ p.trapBank = c.g.flow.trapMode ∧ p.path = none ∧
    ∀ g : Group, g.flow.trapMode = c.g.flow.trapMode → ∃ h, p.Writes h g ∧ Q h g

/-- The kind-B instruction goes on in flight under its flag B (R39, R40). -/
def LaterResult (s : State) (c : Ctx) (i : Instr) (Q : Group → Group → Prop) : Prop := LaterFrom s s c i c.flagB Q

/-- What a kind-B instruction will write: the lanes active at issue of `n` registers from vector register `d`, and flags. -/
def LaterVector (s : State) (c : Ctx) (i : Instr) (d n : Nat) (f : Nat → Nat → Lane) (fl : Flags) : Prop :=
  LaterResult s c i fun h g => ∃ g' : Group, h = g'.orFp fl ∧ g'.VectorFrom g (c.g.vKey d) n c.active f

/-- What a kind-B instruction will write: one scalar register. -/
def LaterScalar (s : State) (c : Ctx) (i : Instr) (d : BitVec 6) (w : Word) : Prop :=
  LaterResult s c i fun h g => h.ScalarFrom g d w

/-! ## When a memory instruction can run -/

/-- The state in which a memory instruction that passes its checks takes its effect: the rights of its pages are in the
permission cache (R192), and it does not count any more under a number that it held while a shootdown covered it (R216). -/
def Ctx.reached (c : Ctx) (s : State) (accs : List Access) : State := s.uncount.cacheRights c.core c.ctx accs

/-- Nothing stops the accesses of a memory instruction: the checks of R19 and R54 pass for each, no shootdown covers one
(R216), no enabled watchpoint that sees the instruction as a load (`rd`) or a store (`wr`) is touched (R382), and PRIVHWM
bounds none (R204). -/
structure Ctx.MayAccess (c : Ctx) (s : State) (r : AccessRule) (rd wr : Bool) (accs : List Access) : Prop where
  current : s.uncount.ctx? = some c
  space : ∀ a ∈ accs, s.uncount.spaceBad c.g r a = false
  priv : ∀ a ∈ accs, a.inWindow = true → c.g.flow.trapMode = true
  here : r.direct = true → ∀ a ∈ accs, s.uncount.isRemote a.addr = false
  aligned : ∀ a ∈ accs, a.misaligned r = false
  calm : ∀ a ∈ accs, s.uncount.underShootdown (vkey c.ctx a.addr) = false
  rights : ∀ a ∈ accs, a.hasRights = true → ((c.reached s accs).rights c.core c.ctx a.addr).1.has r.right = true
  scope : ∀ a ∈ accs, a.hasRights = true → r.scope ≤ widestScope ((c.reached s accs).rights c.core c.ctx a.addr).1.cls
  unwatched : ∀ a ∈ accs, ∀ w, w < 4 → (c.reached s accs).watched c.ctx rd wr a w = false
  inside : r.limit = true → ∀ a ∈ accs, c.beyondHwm a = false

/-- No byte that the accesses read of shared memory or of the core's dirty L1 bytes is poisoned (R410). -/
def Ctx.Sound (c : Ctx) (s : State) (accs : List Access) : Prop :=
  ∀ a ∈ accs, ∀ i, i < a.size →
    (a.addr.toNat / 2 ^ 61 = 6 → poisonShared c.g.id.wg (a.addr.toNat % 2 ^ 20 + i) ∉ s.mem.poison) ∧
    (a.addr.toNat / 2 ^ 61 ≠ 6 → poisonL1 c.core (vkey c.ctx a.addr + i) ∈ s.mem.poison →
      ∀ b, Map.find? (s.core c.core).l1 (vkey c.ctx a.addr + i) = some b → b.dirty = false)

/-- A group with an acquiring load in flight makes no access of a system window or of shared memory (R221, R237). -/
def Ctx.InOrder (c : Ctx) (s : State) (accs : List Access) : Prop :=
  s.acquiring c.age = true → ∀ a ∈ accs, a.addr.toNat / 2 ^ 61 < 6

/-! ## When an ordering point goes on -/

/-- An ordering point finds no earlier landing record pending and none faulted, among those it considers, and no deferred
record: in trap mode it considers those of operations issued in trap mode (R233, R264, R265, R274, R370). -/
structure Ctx.Orderly (c : Ctx) (s : State) : Prop where
  settled : ∀ r ∈ s.ownRecords c.g c.age, r.isPending = true → c.opLimit s ≤ r.id
  landed : ∀ r ∈ s.ownRecords c.g c.age, r.isFaulted = false
  remote : ∀ r ∈ c.g.work.failedRemote, c.g.flow.trapMode = true ∧ r.inTrap = false
  engine : ∀ r ∈ c.g.work.failedEngine, c.g.flow.trapMode = true ∧ r.inTrap = false

/-- A release has nothing to wait for either: every earlier access of the group is complete (R229, R232). -/
structure Ctx.Released (c : Ctx) (s : State) : Prop extends c.Orderly s where
  complete : s.accessesBefore c.g c.age (c.opLimit s) = false

/-! ## Stores -/

/-- The state after the lanes of a store to tensor, control or private space, as they are placed: counted, and landed at once
where nothing stands in the way, else recorded in the landing queue (R205, R206). -/
def Ctx.recorded (c : Ctx) (s : State) (r : Landing) : State :=
  let s1 : State := { s.onGroup c.age fun g => { g with work := { g.work with seq := g.work.seq + 1 } } with nextOp := s.nextOp + 1 }
  if r.lanes.isEmpty then s
  else if s.landsNow r then r.lanes.foldl (fun t l => t.applyLane r l) s1
  else (s1.startOp c.age .st r.id).enqueue r

/-- The stores of a group's lanes to shared memory come after the earlier loads of the same lane there (R221). -/
def Ctx.SharedInOrder (c : Ctx) (s : State) (accs : List Access) : Prop :=
  ∀ a ∈ accs, a.addr.toNat / 2 ^ 61 = 6 → s.sharedEarlier c.age s.nextOp a.lane = false

/-- A store of lanes goes on from `s1` as R186, R194 and R205 say: the lanes below shared memory by the record `q`, for which
there must be room unless they land at once; then the lanes in shared memory; then, in lane order, those in system windows,
unless a launch queue holds one up.  Held up, it leaves `s0`.  `f` is what else it does to its group. -/
def StoreResult (s s0 s1 : State) (c : Ctx) (i : Instr) (q : Landing) (ls : List (Nat × Word × List Byte)) (f : Group → Group) : Prop :=
  let r := s1.placed q
  let s2 := (ls.filter fun p => decide (p.2.1.toNat / 2 ^ 61 = 6)).foldl
    (fun t p => t.sharedWrite c.g.id.wg (p.2.1.toNat % 2 ^ 20) p.2.2) (c.recorded s1 r)
  (r.lanes = [] ∨ s1.landsNow r = true ∨ s1.landingRoom c.core c.age = true →
    (∀ t, s2.storeWindows (ls.filter fun p => decide (p.2.1.toNat / 2 ^ 61 = 7)) = .ok t → exec i s = .next (c.finish t f)) ∧
    ∀ q, s2.storeWindows (ls.filter fun p => decide (p.2.1.toNat / 2 ^ 61 = 7)) = .error q →
      exec i s = .next (c.stopped s0 (.hold (.queueRoom q)))) ∧
  (r.lanes ≠ [] → s1.landsNow r = false → s1.landingRoom c.core c.age = false →
    exec i s = .next (c.stopped s0 (.hold .landingRoom)))

/-- The lanes that a landing record takes. -/
def belowShared (ls : List (Nat × Word × List Byte)) : List (Nat × Word × List Byte) :=
  ls.filter fun p => decide (p.2.1.toNat / 2 ^ 61 < 6)

/-! ## Engine commands -/

/-- A Wherry command passes the five checks of R272: its shape records, its sides, of which at most one of `ends_` is
remote, their alignment, and its barrier object with its count. -/
structure Ctx.WherryOk (c : Ctx) (s : State) (recs : List (Shape × Bool)) (sides ends_ : List Side) (bar : BitVec 6) (count : Nat) :
    Prop where
  records : ∀ r ∈ recs, r.1.bad r.2 = false
  spaces : ∀ d ∈ sides, s.sideBad c.g d = false
  remote : (ends_.filter fun d => s.isRemote d.addr).length ≤ 1
  aligned : ∀ d ∈ sides, d.misaligned = false
  object : ∀ a, c.barOf bar = some a →
    space? a = some .shared ∧ a.toNat % 2 ^ 20 < s.sharedSize c.g ∧ a.toNat % 8 = 0 ∧ count < 2 ^ 27
  room : s.wherryRoom c.core c.age = true

/-- The byte that a command meets at an address: of its workgroup's shared memory, or at the LLC. -/
def State.byteFor (s : State) (w : Wherry) (a : Word) : Option Byte :=
  if a.toNat / 2 ^ 61 = 6 then (Map.find? s.wgs w.wg).map fun g => Map.get 0 g.shared (a.toNat % 2 ^ 20)
  else (Map.find? s.mem.llc (vkey w.ctx a)).map (·.val)

end Sys2Proof.Machine
end

