-- ==== Sys2Proof/Certificates/Slice0/Obligations.lean ====
section
/-! DEFINITION. The statements for the provers. -/

open Sys2Proof Sys2Proof.Machine

/-- R98, R97: what the scalar operations of three registers leave: the result, its discard in s63, and that nothing else
of the group changes.  A and B are the operands as the rule reads them. R98: the high halves of exact products, bit
counts, and bit fields with pos = b[5:0] and w = min(b[14:8], 64 - pos), each said bit by bit. -/
def Obligations.ScalarRegisterAndBitResults : Prop :=
  (∀ (s : State) (c : Ctx) (b a d : BitVec 6), s.ctx? = some c →
    let A := c.g.s a
    let B := c.g.s b
    ScalarResult s c (.sadd b a d) d (.ofInt 64 (A.toInt + B.toInt)) ∧
    ScalarResult s c (.ssub b a d) d (.ofInt 64 (A.toInt - B.toInt)) ∧
    ScalarResult s c (.smul b a d) d (.ofInt 64 (A.toInt * B.toInt)) ∧
    ScalarResult s c (.sdivn b a d) d (if B.toNat = 0 then BitVec.allOnes 64 else .ofNat 64 (A.toNat / B.toNat)) ∧
    ScalarResult s c (.sand b a d) d (A &&& B) ∧
    ScalarResult s c (.sor b a d) d (A ||| B) ∧
    ScalarResult s c (.sxor b a d) d (A ^^^ B) ∧
    ScalarResult s c (.sshl b a d) d (.ofNat 64 (A.toNat * 2 ^ (B.toNat % 64))) ∧
    ScalarResult s c (.sshr b a d) d (.ofNat 64 (A.toNat / 2 ^ (B.toNat % 64))) ∧
    ScalarResult s c (.ssra b a d) d (.ofInt 64 (A.toInt / 2 ^ (B.toNat % 64))) ∧
    ScalarResult s c (.sminI64 b a d) d (if A.toInt ≤ B.toInt then A else B) ∧
    ScalarResult s c (.smaxI64 b a d) d (if A.toInt ≤ B.toInt then B else A) ∧
    ScalarResult s c (.sminN64 b a d) d (if A.toNat ≤ B.toNat then A else B) ∧
    ScalarResult s c (.smaxN64 b a d) d (if A.toNat ≤ B.toNat then B else A) ∧
    ScalarResult s c (.smov a d) d A)
  ∧
  (∀ (s : State) (c : Ctx) (b a d : BitVec 6), s.ctx? = some c →
    let A := c.g.s a
    let B := c.g.s b
    let D := c.g.s d
    let pos := B.toNat % 64
    let w := min (B.toNat / 256 % 128) (64 - pos)
    ScalarResult s c (.smulhI64 b a d) d ((A.signExtend 128 * B.signExtend 128).extractLsb' 64 64) ∧
    ScalarResult s c (.smulhN64 b a d) d ((A.setWidth 128 * B.setWidth 128).extractLsb' 64 64) ∧
    (∃ n, n ≤ 64 ∧ ScalarResult s c (.sclz a d) d (BitVec.ofNat 64 n) ∧ (∀ i, 64 - n ≤ i → A.getLsbD i = false) ∧
      (n < 64 → A.getLsbD (63 - n) = true)) ∧
    ScalarResult s c (.spopc a d) d (BitVec.ofNat 64 ((List.range 64).countP fun i => A.getLsbD i)) ∧
    (∃ r : Word, ScalarResult s c (.sbfxN64 b a d) d r ∧ ∀ i, i < 64 →
      r.getLsbD i = (decide (i < w) && A.getLsbD (pos + i))) ∧
    (∃ r : Word, ScalarResult s c (.sbfxI64 b a d) d r ∧ ∀ i, i < 64 →
      r.getLsbD i = (decide (0 < w) && A.getLsbD (pos + min i (w - 1)))) ∧
    (∃ r : Word, ScalarResult s c (.sbfi b a d) d r ∧ ∀ i, i < 64 →
      r.getLsbD i = if pos ≤ i ∧ i < pos + w then A.getLsbD (i - pos) else D.getLsbD i))

/-- R100, R101: the forms of majors 0x02 and 0x03: the operand b is the immediate as a signed number, a shift count is
six bits, SLI sign-extends, and SLIH replaces one halfword. -/
def Obligations.ScalarImmediateResults : Prop :=
  ∀ (s : State) (c : Ctx) (imm : BitVec 9) (sh a d : BitVec 6) (imm18 : BitVec 18) (h : BitVec 2) (imm16 : BitVec 16),
    s.ctx? = some c →
    let A := c.g.s a
    let I := imm.toInt
    ScalarResult s c (.saddImm imm a d) d (.ofInt 64 (A.toInt + I)) ∧
    ScalarResult s c (.smulImm imm a d) d (.ofInt 64 (A.toInt * I)) ∧
    ScalarResult s c (.sandImm imm a d) d (A &&& .ofInt 64 I) ∧
    ScalarResult s c (.sorImm imm a d) d (A ||| .ofInt 64 I) ∧
    ScalarResult s c (.sxorImm imm a d) d (A ^^^ .ofInt 64 I) ∧
    ScalarResult s c (.sminImm imm a d) d (if A.toInt ≤ I then A else .ofInt 64 I) ∧
    ScalarResult s c (.smaxImm imm a d) d (if A.toInt ≤ I then .ofInt 64 I else A) ∧
    ScalarResult s c (.sshlImm sh a d) d (.ofNat 64 (A.toNat * 2 ^ sh.toNat)) ∧
    ScalarResult s c (.sshrImm sh a d) d (.ofNat 64 (A.toNat / 2 ^ sh.toNat)) ∧
    ScalarResult s c (.ssraImm sh a d) d (.ofInt 64 (A.toInt / 2 ^ sh.toNat)) ∧
    ScalarResult s c (.sli imm18 d) d (.ofInt 64 imm18.toInt) ∧
    (∃ r : Word, ScalarResult s c (.slih h imm16 d) d r ∧ ∀ i, i < 64 →
      r.getLsbD i = if i / 16 = h.toNat then imm16.getLsbD (i % 16) else (c.g.s d).getLsbD i)

/-- R99, R100 and Table 4.5: SCMP and its immediate form write one condition bit and leave the other three; SSEL selects
by one.  The condition codes 12 to 15 do not decode. -/
def Obligations.ScalarConditions : Prop :=
  ∀ (s : State) (c : Ctx) (imm : BitVec 9) (b a d : BitVec 6) (k : BitVec 4) (n : BitVec 2), s.ctx? = some c → k.toNat < 12 →
    let A := c.g.s a
    let holds := fun (B : Word) => [A = B, A ≠ B, A.toInt < B.toInt, A.toInt ≥ B.toInt, A.toNat < B.toNat, A.toNat ≥ B.toNat,
      A.toInt > B.toInt, A.toInt ≤ B.toInt, A.toNat > B.toNat, A.toNat ≤ B.toNat, A &&& B = 0, A &&& B ≠ 0].getD k.toNat False
    (∃ r, CondResult s c (.scmp b a k n) n r ∧ (r = true ↔ holds (c.g.s b))) ∧
    (∃ r, CondResult s c (.scmpImm imm a k n) n r ∧ (r = true ↔ holds (.ofInt 64 imm.toInt))) ∧
    ScalarResult s c (.ssel n b a d) d (if c.g.c n then A else c.g.s b)

/-- R46: the 16-bit VMOV of a register to itself reads and writes nothing, whatever the register, its poison or the
allocation; the halfword 0x0000 is this instruction. -/
def Obligations.ShortMoveToItself : Prop :=
  (∀ (s : State) (c : Ctx) (d : BitVec 5), s.ctx? = some c → exec (.vmov16 false d d) s = .next (c.done s c.g)) ∧
  decodeTableWord 16 0x0000 = some (.vmov16 false 0 0)

/-- R134, R135: the mask instructions act on whole mask registers, once per issue; MPOP counts one bits, MFIND finds the
lowest one bit or answers 32. -/
def Obligations.MaskInstructions : Prop :=
  ∀ (s : State) (c : Ctx) (k b a : BitVec 3) (src d : BitVec 6), s.ctx? = some c →
    let B := c.g.m b.toNat
    let whole := fun (i : Instr) (v : Lane) => MaskResult s c i a.toNat (BitVec.allOnes 32) fun l => v.getLsbD l
    whole (.mand k b a) (B &&& c.g.m k.toNat) ∧ whole (.mor k b a) (B ||| c.g.m k.toNat) ∧
    whole (.mxor k b a) (B ^^^ c.g.m k.toNat) ∧ whole (.mnot b a) (~~~B) ∧
    whole (.mset src a) ((c.g.s src).setWidth 32) ∧
    ScalarResult s c (.mpop b d) d (.ofNat 64 ((List.range 32).countP fun i => B.getLsbD i)) ∧
    (∃ n, ScalarResult s c (.mfind b d) d (.ofNat 64 n) ∧ n ≤ 32 ∧ (∀ i, i < n → B.getLsbD i = false) ∧
      (n < 32 → B.getLsbD n = true)) ∧
    ScalarResult s c (.mget b d) d (B.setWidth 64) ∧
    ScalarResult s c (.mgetLanes d) d (c.f.lanes.setWidth 64)

/-- R120, R123, R124: the two-operand integer and logic forms in every active lane.  B is the vb operand: a vector
register, or with X = 1 bits [31:0] of the scalar register.  VDOT4 reads the destination too. -/
def Obligations.VectorIntegerResults : Prop :=
  ∀ (s : State) (c : Ctx) (x : Bool) (b a d : BitVec 7), s.ctx? = some c →
    c.Fits ((d.toNat, 1) :: (a.toNat, 1) :: runB x b 1) → c.Clean c.active ((a.toNat, 1) :: runB x b 1) →
    let lanes := fun (i : Instr) (f : Lane → Lane → Lane) => VectorResult s c i d.toNat 1
      (fun l _ => f (c.g.v a.toNat l) (if x then (c.g.s (b.setWidth 6)).setWidth 32 else c.g.v b.toNat l)) 0#4
    lanes (.vadd x b a d) (fun A B => .ofInt 32 (A.toInt + B.toInt)) ∧
    lanes (.vsub x b a d) (fun A B => .ofInt 32 (A.toInt - B.toInt)) ∧
    lanes (.vmul x b a d) (fun A B => .ofInt 32 (A.toInt * B.toInt)) ∧
    lanes (.vmulh x b a d) (fun A B => .ofInt 32 (A.toInt * B.toInt / 2 ^ 32)) ∧
    lanes (.vmin x b a d) (fun A B => if A.toInt ≤ B.toInt then A else B) ∧
    lanes (.vmax x b a d) (fun A B => if A.toInt ≤ B.toInt then B else A) ∧
    lanes (.vabsd x b a d) (fun A B => .ofInt 32 (if A.toInt ≤ B.toInt then B.toInt - A.toInt else A.toInt - B.toInt)) ∧
    lanes (.vand x b a d) (fun A B => A &&& B) ∧
    lanes (.vor x b a d) (fun A B => A ||| B) ∧
    lanes (.vxor x b a d) (fun A B => A ^^^ B) ∧
    lanes (.vshl x b a d) (fun A B => .ofNat 32 (A.toNat * 2 ^ (B.toNat % 32))) ∧
    lanes (.vshr x b a d) (fun A B => .ofNat 32 (A.toNat / 2 ^ (B.toNat % 32))) ∧
    lanes (.vsra x b a d) (fun A B => .ofInt 32 (A.toInt / 2 ^ (B.toNat % 32))) ∧
    (c.Clean c.active [(d.toNat, 1)] → VectorResult s c (.vdot4 x b a d) d.toNat 1 (fun l _ =>
      let A := c.g.v a.toNat l
      let B := if x then (c.g.s (b.setWidth 6)).setWidth 32 else c.g.v b.toNat l
      .ofInt 32 ((c.g.v d.toNat l).toInt + ((List.range 4).map fun k =>
        (A.extractLsb' (8 * k) 8).toInt * (B.extractLsb' (8 * k) 8).toInt).sum)) 0#4)

/-- R124 to R126, R128: funnel shifts, bit reversal, counts, bit fields and VLOP3, said bit by bit: pos = b[4:0] and w =
min(b[13:8], 32 - pos). -/
def Obligations.VectorBitResults : Prop :=
  ∀ (s : State) (c : Ctx) (x : Bool) (b a d : BitVec 7) (t : BitVec 8) (b6 a6 d6 : BitVec 6), s.ctx? = some c →
    let src := fun l => if x then (c.g.s (b.setWidth 6)).setWidth 32 else c.g.v b.toNat l
    let bits := fun (i : Instr) (n : Nat) (f : Nat → Nat → Bool) =>
      ∃ r : Nat → Lane, VectorResult s c i n 1 (fun l _ => r l) 0#4 ∧ ∀ l i, i < 32 → (r l).getLsbD i = f l i
    let pos := fun l => (src l).toNat % 32
    let w := fun l => min ((src l).toNat / 256 % 64) (32 - pos l)
    let A := fun l => c.g.v a.toNat l
    let D := fun l => c.g.v d.toNat l
    c.Fits ((d.toNat, 1) :: (a.toNat, 1) :: runB x b 1) → c.Clean c.active ((a.toNat, 1) :: runB x b 1) →
      bits (.vbfxN32 x b a d) d.toNat (fun l i => decide (i < w l) && (A l).getLsbD (pos l + i)) ∧
      bits (.vbfxI32 x b a d) d.toNat (fun l i => decide (0 < w l) && (A l).getLsbD (pos l + min i (w l - 1))) ∧
      bits (.vbrev a d) d.toNat (fun l i => (A l).getLsbD (31 - i)) ∧
      bits (.vnot a d) d.toNat (fun l i => !(A l).getLsbD i) ∧
      VectorResult s c (.vpopc a d) d.toNat 1 (fun l _ => .ofNat 32 ((List.range 32).countP fun i => (A l).getLsbD i)) 0#4 ∧
      (∃ n : Nat → Nat, VectorResult s c (.vclz a d) d.toNat 1 (fun l _ => .ofNat 32 (n l)) 0#4 ∧ ∀ l, n l ≤ 32 ∧
        (∀ i, 32 - n l ≤ i → (A l).getLsbD i = false) ∧ (n l < 32 → (A l).getLsbD (31 - n l) = true)) ∧
      (c.Clean c.active [(d.toNat, 1)] →
        bits (.vfshl x b a d) d.toNat (fun l i => if i < pos l then (A l).getLsbD (32 - pos l + i) else (D l).getLsbD (i - pos l)) ∧
        bits (.vfshr x b a d) d.toNat (fun l i => if i + pos l < 32 then (D l).getLsbD (i + pos l) else (A l).getLsbD (i + pos l - 32)) ∧
        bits (.vbfi x b a d) d.toNat (fun l i =>
          if pos l ≤ i ∧ i < pos l + w l then (A l).getLsbD (i - pos l) else (D l).getLsbD i)) ∧
      (c.Fits [(d6.toNat, 1), (a6.toNat, 1), (b6.toNat, 1)] →
        c.Clean c.active [(d6.toNat, 1), (a6.toNat, 1), (b6.toNat, 1)] →
        bits (.vlop3 t b6 a6 d6) d6.toNat (fun l i => t.getLsbD (4 * ((c.g.v a6.toNat l).getLsbD i).toNat
          + 2 * ((c.g.v b6.toNat l).getLsbD i).toNat + ((c.g.v d6.toNat l).getLsbD i).toNat)))

/-- R127, R45 and Table 2.3: the immediate forms of major 0x0B, and the 16-bit integer forms, whose destination is their
first source; with X = 1 the source is a broadcast scalar s0 to s31. -/
def Obligations.VectorImmediateAndShortResults : Prop :=
  ∀ (s : State) (c : Ctx) (x : Bool) (i8 : BitVec 8) (i5 : BitVec 5) (i15 : BitVec 15) (a d : BitVec 7) (src d5 : BitVec 5),
    s.ctx? = some c →
    let S := fun l => if x then (c.g.s (src.setWidth 6)).setWidth 32 else c.g.v src.toNat l
    let from_ := if x then [] else [(src.toNat, 1)]
    (c.Fits [(d.toNat, 1)] → VectorResult s c (.vli i15 d) d.toNat 1 (fun _ _ => .ofInt 32 i15.toInt) 0#4) ∧
    (c.Fits [(d.toNat, 1), (a.toNat, 1)] → c.Clean c.active [(a.toNat, 1)] →
      let lanes := fun (i : Instr) (f : Lane → Lane) => VectorResult s c i d.toNat 1 (fun l _ => f (c.g.v a.toNat l)) 0#4
      lanes (.vaddi i8 a d) (fun A => .ofInt 32 (A.toInt + i8.toInt)) ∧
      lanes (.vandi i8 a d) (fun A => A &&& .ofInt 32 i8.toInt) ∧
      lanes (.vori i8 a d) (fun A => A ||| .ofInt 32 i8.toInt) ∧
      lanes (.vxori i8 a d) (fun A => A ^^^ .ofInt 32 i8.toInt) ∧
      lanes (.vshli i5 a d) (fun A => .ofNat 32 (A.toNat * 2 ^ i5.toNat)) ∧
      lanes (.vshri i5 a d) (fun A => .ofNat 32 (A.toNat / 2 ^ i5.toNat)) ∧
      lanes (.vsrai i5 a d) (fun A => .ofInt 32 (A.toInt / 2 ^ i5.toNat))) ∧
    (c.Fits ((d5.toNat, 1) :: from_) → c.Clean c.active from_ → (x = true ∨ src ≠ d5) →
      VectorResult s c (.vmov16 x src d5) d5.toNat 1 (fun l _ => S l) 0#4) ∧
    (c.Fits ((d5.toNat, 1) :: from_) → c.Clean c.active ((d5.toNat, 1) :: from_) →
      let lanes := fun (i : Instr) (f : Lane → Lane → Lane) =>
        VectorResult s c i d5.toNat 1 (fun l _ => f (c.g.v d5.toNat l) (S l)) 0#4
      lanes (.vadd16 x src d5) (fun D S => .ofInt 32 (D.toInt + S.toInt)) ∧
      lanes (.vsub16 x src d5) (fun D S => .ofInt 32 (D.toInt - S.toInt)) ∧
      lanes (.vmul16 x src d5) (fun D S => .ofInt 32 (D.toInt * S.toInt)) ∧
      lanes (.vand16 x src d5) (fun D S => D &&& S) ∧
      lanes (.vor16 x src d5) (fun D S => D ||| S) ∧
      lanes (.vxor16 x src d5) (fun D S => D ^^^ S) ∧
      lanes (.vshl16 x src d5) (fun D S => .ofNat 32 (D.toNat * 2 ^ (S.toNat % 32))) ∧
      lanes (.vshr16 x src d5) (fun D S => .ofNat 32 (D.toNat / 2 ^ (S.toNat % 32))) ∧
      lanes (.vsra16 x src d5) (fun D S => .ofInt 32 (D.toInt / 2 ^ (S.toNat % 32)))) ∧
    (c.Fits [(d5.toNat, 1)] → c.Clean c.active [(d5.toNat, 1)] →
      VectorResult s c (.vaddi16 i5 d5) d5.toNat 1 (fun l _ => .ofInt 32 ((c.g.v d5.toNat l).toInt + i5.toInt)) 0#4)

/-- R126: VADDC and VSUBB take the carry or borrow of each active lane from its bit of m7, and give it back there; the
sum of the lane and 2^32 times its carry out is exact. -/
def Obligations.CarryForms : Prop :=
  ∀ (s : State) (c : Ctx) (x : Bool) (b a d : BitVec 7), s.ctx? = some c →
    c.Fits ((d.toNat, 1) :: (a.toNat, 1) :: runB x b 1) → c.Clean c.active ((a.toNat, 1) :: runB x b 1) →
    let B := fun l => if x then (c.g.s (b.setWidth 6)).setWidth 32 else c.g.v b.toNat l
    let A := fun l => c.g.v a.toNat l
    let carry := fun l => ((c.g.m 7).getLsbD l).toNat
    let completes := fun (i : Instr) (r : Nat → Lane) (k : Nat → Bool) => ∃ g1 g2 : Group,
      exec i s = .next (c.done s g2) ∧ g1.VectorFrom c.g (c.g.vKey d.toNat) 1 c.active (fun l _ => r l) ∧
      g2.MaskFrom g1 7 c.active k
    (∃ r k, completes (.vaddc x b a d) r k ∧ ∀ l,
      ((r l).toNat : Int) + 2 ^ 32 * (k l).toNat = (A l).toNat + (B l).toNat + carry l) ∧
    (∃ r k, completes (.vsubb x b a d) r k ∧ ∀ l,
      ((A l).toNat : Int) - (B l).toNat - carry l = (r l).toNat - 2 ^ 32 * (k l).toNat)

/-- R129 to R131, R135: VICMP writes the active lanes' bits of a mask register and leaves those of inactive lanes; VSEL
selects by m6, VMOV and VMOVXL move and number the lanes, VMOVS moves one lane's entry to a scalar register. -/
def Obligations.VectorComparesAndSelects : Prop :=
  ∀ (s : State) (c : Ctx) (x : Bool) (b a d : BitVec 7) (k : BitVec 4) (m : BitVec 3) (sb sd : BitVec 6),
    s.ctx? = some c → k.toNat < 12 →
    let A := fun l => c.g.v a.toNat l
    let B := fun l => if x then (c.g.s (b.setWidth 6)).setWidth 32 else c.g.v b.toNat l
    let holds := fun (A B : Lane) => [A = B, A ≠ B, A.toInt < B.toInt, A.toInt ≥ B.toInt, A.toNat < B.toNat, A.toNat ≥ B.toNat,
      A.toInt > B.toInt, A.toInt ≤ B.toInt, A.toNat > B.toNat, A.toNat ≤ B.toNat, A &&& B = 0, A &&& B ≠ 0].getD k.toNat False
    let n := (c.g.s sb).toNat % 32
    (c.Fits ((a.toNat, 1) :: runB x b 1) → c.Clean c.active ((a.toNat, 1) :: runB x b 1) →
      ∃ p : Nat → Bool, MaskResult s c (.vicmp x b a k m) m.toNat c.active p ∧ ∀ l, p l = true ↔ holds (A l) (B l)) ∧
    (c.Fits ((d.toNat, 1) :: (a.toNat, 1) :: runB x b 1) → c.Clean c.active ((a.toNat, 1) :: runB x b 1) →
      VectorResult s c (.vsel x b a d) d.toNat 1 (fun l _ => if (c.g.m 6).getLsbD l then A l else B l) 0#4) ∧
    (c.Fits ((d.toNat, 1) :: runB x b 1) → c.Clean c.active (runB x b 1) →
      VectorResult s c (.vmov x b d) d.toNat 1 (fun l _ => B l) 0#4 ∧
      VectorResult s c (.vmovxl x b d) d.toNat 1 (fun l _ => .ofNat 32 (l + (B l).toNat)) 0#4) ∧
    (c.Fits [(a.toNat, 1)] → c.Clean (c.active &&& .ofNat 32 (2 ^ n)) [(a.toNat, 1)] →
      ScalarResult s c (.vmovs sb a sd) sd (if c.active.getLsbD n then (A n).setWidth 64 else 0))

/-- R132: VMOVX and VMOVXW reach any register of the allocation by a per-lane index, each lane its own entry; the sum of
base and index is exact. -/
def Obligations.IndexedMoves : Prop :=
  ∀ (s : State) (c : Ctx) (x : Bool) (b a d : BitVec 7), s.ctx? = some c → c.g.regs.alloc ≤ 512 →
    let B := fun l => if x then (c.g.s (b.setWidth 6)).setWidth 32 else c.g.v b.toNat l
    let nr := fun l => a.toNat + (B l).toNat
    let nw := fun l => d.toNat + (B l).toNat
    let refused := fun (i : Instr) (l : Nat) =>
      exec i s = .next (c.stopped s (.trap { cause := .illegal, lane := l, word := BitVec.ofNat 64 c.word }))
    (c.Fits ((d.toNat, 1) :: runB x b 1) → c.Clean c.active (runB x b 1) →
      (∀ l, c.active.getLsbD l = true → 32 * nr l + l ∉ c.g.regs.poison) →
      ((∀ l, c.active.getLsbD l = true → nr l < c.g.regs.alloc) →
        VectorResult s c (.vmovx x b a d) d.toNat 1 (fun l _ => c.g.cell (nr l) l) 0#4) ∧
      (∀ l, c.active.getLsbD l = true → c.g.regs.alloc ≤ nr l →
        (∀ k, k < l → c.active.getLsbD k = true → nr k < c.g.regs.alloc) → refused (.vmovx x b a d) l)) ∧
    (c.Fits ((a.toNat, 1) :: runB x b 1) → c.Clean c.active ((a.toNat, 1) :: runB x b 1) →
      ((∀ l, c.active.getLsbD l = true → nw l < c.g.regs.alloc) → ∃ g', exec (.vmovxw x b a d) s = .next (c.done s g') ∧
        (∀ l, c.active.getLsbD l = true → g'.cell (nw l) l = c.g.v a.toNat l) ∧
        (∀ i l, l < 32 → ¬ (c.active.getLsbD l = true ∧ i = nw l) → g'.cell i l = c.g.cell i l) ∧
        g' = { c.g with regs := { c.g.regs with v := g'.regs.v, tv := g'.regs.tv, poison := g'.regs.poison } }) ∧
      (∀ l, c.active.getLsbD l = true → c.g.regs.alloc ≤ nw l →
        (∀ k, k < l → c.active.getLsbD k = true → nw k < c.g.regs.alloc) → refused (.vmovxw x b a d) l))

/-- R141, R143, R149, R68: the floating forms of one register: each active lane's result under FPCTL.RM, and the flags
of the active lanes joined to FPSTAT, which no other instruction state follows. -/
def Obligations.FloatResults : Prop :=
  ∀ (s : State) (c : Ctx) (x : Bool) (b a d : BitVec 7), s.ctx? = some c →
    c.Fits ((d.toNat, 1) :: (a.toNat, 1) :: runB x b 1) → c.Clean c.active ((a.toNat, 1) :: runB x b 1) →
    let lanes := fun (i : Instr) (f : Lane → Lane → Lane → Lane × Flags) =>
      let r := fun l => f (c.g.v d.toNat l) (c.g.v a.toNat l) (if x then (c.g.s (b.setWidth 6)).setWidth 32 else c.g.v b.toNat l)
      VectorResult s c i d.toNat 1 (fun l _ => (r l).1) (c.lanes.foldl (fun fl l => fl ||| (r l).2) 0#4)
    lanes (.vfadd x b a d) (fun _ A B => laneOf (fadd .fp32 c.g.mode A.toNat B.toNat)) ∧
    lanes (.vfsub x b a d) (fun _ A B => laneOf (fsub .fp32 c.g.mode A.toNat B.toNat)) ∧
    lanes (.vfmul x b a d) (fun _ A B => laneOf (fmul .fp32 c.g.mode A.toNat B.toNat)) ∧
    lanes (.vfmin x b a d) (fun _ A B => laneOf (fminmax .fp32 false A.toNat B.toNat, 0#4)) ∧
    lanes (.vfmax x b a d) (fun _ A B => laneOf (fminmax .fp32 true A.toNat B.toNat, 0#4)) ∧
    lanes (.vfscale x b a d) (fun _ A B => laneOf (laneScale c.g.mode A B)) ∧
    lanes (.vfcpys x b a d) (fun _ A B => (A.setWidth 31 |>.setWidth 32 |> (· ||| (B &&& 0x80000000#32)), 0#4)) ∧
    lanes (.vhaddBf16 x b a d) (fun D A B => halves (fun a b _ => fadd .bf16 c.g.mode a b) D A B) ∧
    lanes (.vhmulBf16 x b a d) (fun D A B => halves (fun a b _ => fmul .bf16 c.g.mode a b) D A B) ∧
    lanes (.vhaddF16 x b a d) (fun D A B => halves (fun a b _ => fadd .fp16 c.g.mode a b) D A B) ∧
    lanes (.vhmulF16 x b a d) (fun D A B => halves (fun a b _ => fmul .fp16 c.g.mode a b) D A B) ∧
    (c.Clean c.active [(d.toNat, 1)] →
      lanes (.vfma x b a d) (fun D A B => laneOf (fma .fp32 c.g.mode false A.toNat B.toNat D.toNat)) ∧
      lanes (.vhfmaBf16 x b a d) (fun D A B => halves (fma .bf16 c.g.mode false) D A B) ∧
      lanes (.vhfmaF16 x b a d) (fun D A B => halves (fma .fp16 c.g.mode false) D A B))

/-- R144 to R147 and Table 2.3: VFMAD with three sources of its own, the one-source forms, which raise nothing, VFCMP
into a mask register, and the 16-bit floating forms. R148, R150, Table 3.8: the forms on register pairs: two FP32
elements, or one FP64 value whose low word is the first register; with X = 1 the second operand is the 64-bit
scalar. -/
def Obligations.FloatUnaryAndPairResults : Prop :=
  (∀ (s : State) (c : Ctx) (n x : Bool) (k6 b6 a6 d6 : BitVec 6) (r : BitVec 2) (b a d : BitVec 7) (k : BitVec 4) (m : BitVec 3)
    (src d5 : BitVec 5), s.ctx? = some c →
    let flags := fun (f : Nat → Lane × Flags) => c.lanes.foldl (fun fl l => fl ||| (f l).2) 0#4
    (c.Fits [(d6.toNat, 1), (a6.toNat, 1), (b6.toNat, 1), (k6.toNat, 1)] →
      c.Clean c.active [(a6.toNat, 1), (b6.toNat, 1), (k6.toNat, 1)] →
      let r := fun l => laneOf (fma .fp32 c.g.mode n (c.g.v a6.toNat l).toNat (c.g.v b6.toNat l).toNat (c.g.v k6.toNat l).toNat)
      VectorResult s c (.vfmad n k6 b6 a6 d6) d6.toNat 1 (fun l _ => (r l).1) (flags r)) ∧
    (c.Fits [(d.toNat, 1), (a.toNat, 1)] → c.Clean c.active [(a.toNat, 1)] →
      let lanes := fun (i : Instr) (f : Lane → Lane) => VectorResult s c i d.toNat 1 (fun l _ => f (c.g.v a.toNat l)) 0#4
      lanes (.vfabs a d) (fun A => A &&& 0x7FFFFFFF#32) ∧ lanes (.vfneg a d) (fun A => A ^^^ 0x80000000#32) ∧
      lanes (.vfrnd r a d) (laneRound (Mode.ofCode r.toNat)) ∧ lanes (.vfclass a d) laneClass ∧
      lanes (.vfexpo a d) laneExponent) ∧
    (c.Fits ((a.toNat, 1) :: runB x b 1) → c.Clean c.active ((a.toNat, 1) :: runB x b 1) →
      MaskResult s c (.vfcmp x b a k m) m.toNat c.active fun l => fcmpHolds k (c.g.v a.toNat l)
        (if x then (c.g.s (b.setWidth 6)).setWidth 32 else c.g.v b.toNat l)) ∧
    (c.Fits ((d5.toNat, 1) :: (if x then [] else [(src.toNat, 1)])) →
      c.Clean c.active ((d5.toNat, 1) :: (if x then [] else [(src.toNat, 1)])) →
      let lanes := fun (i : Instr) (f : Lane → Lane → Lane × Flags) =>
        let r := fun l => f (c.g.v d5.toNat l) (if x then (c.g.s (src.setWidth 6)).setWidth 32 else c.g.v src.toNat l)
        VectorResult s c i d5.toNat 1 (fun l _ => (r l).1) (flags r)
      lanes (.vfadd16 x src d5) (fun A B => laneOf (fadd .fp32 c.g.mode A.toNat B.toNat)) ∧
      lanes (.vfsub16 x src d5) (fun A B => laneOf (fsub .fp32 c.g.mode A.toNat B.toNat)) ∧
      lanes (.vfmul16 x src d5) (fun A B => laneOf (fmul .fp32 c.g.mode A.toNat B.toNat)) ∧
      lanes (.vfmin16 x src d5) (fun A B => laneOf (fminmax .fp32 false A.toNat B.toNat, 0#4)) ∧
      lanes (.vfmax16 x src d5) (fun A B => laneOf (fminmax .fp32 true A.toNat B.toNat, 0#4))))
  ∧
  (∀ (s : State) (c : Ctx) (x : Bool) (b a d : BitVec 7), s.ctx? = some c →
    c.Fits ((d.toNat, 2) :: (a.toNat, 2) :: runB x b 2) → c.Clean c.active ((a.toNat, 2) :: runB x b 2) →
    let S := c.g.s (b.setWidth 6)
    let word := fun (n : BitVec 7) k l => (c.g.cell (c.g.vKey n.toNat + k) l).toNat
    let wordB := fun k l => if x then S.toNat / 2 ^ (32 * k) % 2 ^ 32 else word b k l
    let pairs := fun (i : Instr) (f : Nat → Nat → Nat → Nat × Flags) =>
      let r := fun l k => f (word a k l) (wordB k l) (word d k l)
      VectorResult s c i d.toNat 2 (fun l k => .ofNat 32 (r l k).1) (c.lanes.foldl (fun fl l => fl ||| (r l 0).2 ||| (r l 1).2) 0#4)
    let doubles := fun (i : Instr) (f : Nat → Nat → Nat → Nat × Flags) =>
      let r := fun l => f (word a 1 l * 2 ^ 32 + word a 0 l) (wordB 1 l * 2 ^ 32 + wordB 0 l) (word d 1 l * 2 ^ 32 + word d 0 l)
      VectorResult s c i d.toNat 2 (fun l k => .ofNat 32 ((r l).1 / 2 ^ (32 * k))) (c.lanes.foldl (fun fl l => fl ||| (r l).2) 0#4)
    pairs (.vpfadd x b a d) (fun a b _ => fadd .fp32 c.g.mode a b) ∧
    pairs (.vpfmul x b a d) (fun a b _ => fmul .fp32 c.g.mode a b) ∧
    doubles (.vdadd x b a d) (fun a b _ => fadd .fp64 c.g.mode a b) ∧
    doubles (.vdmul x b a d) (fun a b _ => fmul .fp64 c.g.mode a b) ∧
    doubles (.vdmin x b a d) (fun a b _ => (fminmax .fp64 false a b, 0#4)) ∧
    doubles (.vdmax x b a d) (fun a b _ => (fminmax .fp64 true a b, 0#4)) ∧
    (c.Clean c.active [(d.toNat, 2)] →
      pairs (.vpfma x b a d) (fma .fp32 c.g.mode false) ∧ doubles (.vdfma x b a d) (fma .fp64 c.g.mode false)))

/-- R68 and Table 3.2: a NaN operand gives the canonical NaN and raises nothing; infinity minus infinity and zero times
infinity give it and raise invalid; the smaller and the larger of two numbers return the other operand of a NaN. -/
def Obligations.FloatSpecialOperands : Prop :=
  ∀ (f : Fmt) (m : Mode) (a b : Nat), f ∈ [Fmt.fp16, .bf16, .fp32, .fp64] →
    let nan : Nat × Flags := (f.nanCode, 0#4)
    let invalid : Nat × Flags := (f.nanCode, flagNV)
    ((value f a).isNan = true ∨ (value f b).isNan = true → fadd f m a b = nan ∧ fsub f m a b = nan ∧ fmul f m a b = nan) ∧
    ((value f a).isInf = true → (value f b).isInf = true → (value f a).isNeg ≠ (value f b).isNeg → fadd f m a b = invalid) ∧
    ((value f a).isZero = true → (value f b).isInf = true → fmul f m a b = invalid ∧ fmul f m b a = invalid) ∧
    (∀ larger, (value f a).isNan = true → (value f b).isNan = false →
      fminmax f larger a b = b ∧ fminmax f larger b a = b)

/-- R39, R140: RESULT_WRITEBACK writes what the instruction computed at issue, joins its flags to FPSTAT, and ends its
hold on its flag; WSTAT takes the status word as it stands then (R285). -/
def Obligations.WritebackOfResults : Prop :=
  ∀ (s : State) (op : Nat) (p : Pend) (g : Group), (s.pend.find? fun q => q.id == op) = some p →
    Map.find? s.groups p.age = some g → p.path = none →
    let after := fun (h : Group) => Host.Outcome.next (φ := Fault) (ρ := Refusal)
      { s with pend := s.pend.filter fun q => q.id != op, groups := Map.insert s.groups p.age h }
    (∀ h, p.Writes h g → exec (.resultWriteback op) s = after h) ∧
    (∀ sd cmd, p.kind = .wstat sd cmd → exec (.resultWriteback op) s = after (g.setSKey sd
      (s.statusWord cmd)))

/-- R151 to R153, R39, R40: the kind-B arithmetic goes on at once with its result in flight under flag B; the values
follow the model's function of the operand, whose points the spec leaves open are free values (log 5). -/
def Obligations.SpecialFunctionResults : Prop :=
  ∀ (s : State) (c : Ctx) (x : Bool) (b a d : BitVec 7), s.ctx? = some c →
    (c.Fits [(d.toNat, 1), (a.toNat, 1)] → c.flagB = none → ∀ i ∈ [Instr.vrcp a d, .vrsqrt a d, .vsqrt a d, .vexp2 a d,
      .vlog2 a d, .vsin a d, .vcos a d, .vtanh a d, .vsigm a d], exec i s = .next (c.stopped s c.illegal)) ∧
    (c.Fits [(d.toNat, 1), (a.toNat, 1)] → c.flagB.isSome → c.Clean c.active [(a.toNat, 1)] →
      let lanes := fun (i : Instr) (fn : Config.SpecialFn) => LaterVector s c i d.toNat 1
        (fun l _ => .ofNat 32 (specialFn fn (c.g.v a.toNat l)).1) (c.lanes.foldl (fun fl l => fl ||| (specialFn fn (c.g.v a.toNat l)).2) 0#4)
      lanes (.vrcp a d) .rcp ∧
      lanes (.vrsqrt a d) .rsqrt ∧
      lanes (.vsqrt a d) .sqrt ∧
      lanes (.vexp2 a d) .exp2 ∧
      lanes (.vlog2 a d) .log2 ∧
      lanes (.vsin a d) .sin ∧
      lanes (.vcos a d) .cos ∧
      lanes (.vtanh a d) .tanh ∧
      lanes (.vsigm a d) .sigm) ∧
    (c.Fits ((d.toNat, 1) :: (a.toNat, 1) :: runB x b 1) → c.flagB.isSome → c.Clean c.active ((a.toNat, 1) :: runB x b 1) →
      let B := fun l => if x then (c.g.s (b.setWidth 6)).setWidth 32 else c.g.v b.toNat l
      let lanes := fun (i : Instr) (f : Nat → Nat × Flags) => LaterVector s c i d.toNat 1
        (fun l _ => .ofNat 32 (f l).1) (c.lanes.foldl (fun fl l => fl ||| (f l).2) 0#4)
      lanes (.vfdivs x b a d) (fun l => divEstimate (c.g.v a.toNat l) (B l)) ∧
      (c.Clean c.active [(d.toNat, 1)] →
        lanes (.vfdivx x b a d) (fun l => divExact c.g.mode (c.g.v d.toNat l) (c.g.v a.toNat l) (B l))))

/-- R154 to R163: VCVT, quantisation with its scale word, packing and random numbers, as results in flight under flag B. -/
def Obligations.ConversionResults : Prop :=
  ∀ (s : State) (c : Ctx) (r : BitVec 3) (p a d : BitVec 7) (w : BitVec 2) (sr : BitVec 6), s.ctx? = some c → c.flagB.isSome →
    let flags := fun (f : Nat → Flags) => c.lanes.foldl (fun fl l => fl ||| f l) 0#4
    let word := fun (n : Nat) k l => (c.g.cell (c.g.vKey n + k) l).toNat
    let runs := cvtRuns (cvtPair p).1 (cvtPair p).2
    (let random := if r = 4 then [(d.toNat + runs.2.2, (runs.1 + 1) / 2)] else []
     let bits := fun l i => if r = 4 then word d.toNat (runs.2.2 + i / 2) l / 2 ^ (16 * (i % 2)) % 65536 else 0
     let el := fun l i => codeRound (cvtPair p).2 (Mode.ofCode r.toNat) (bits l i) (codeVal (cvtPair p).1 (c.g.element a.toNat (cvtPair p).1 i l))
     c.Fits [(d.toNat, runs.2.2), (a.toNat, runs.2.1), (d.toNat, runs.2.2 + if r = 4 then (runs.1 + 1) / 2 else 0)] → c.Clean c.active ((a.toNat, runs.2.1) :: random) →
     LaterVector s c (.vcvt r p a d) d.toNat runs.2.2 (fun l j => packRun (cvtPair p).2 (fun i => (el l i).1) j)
      (flags fun l => (List.range runs.1).foldl (fun fl i => fl ||| (el l i).2) 0#4)) ∧
    (c.Fits [(d.toNat, 1), (a.toNat, 1)] → c.Clean c.active [(a.toNat, 1)] →
      (let quantised := fun (i : Instr) (code : Nat) (f : Fmt) =>
        let scale := bs8Scale f (c.lanes.map fun l => value .fp32 (c.g.v a.toNat l).toNat)
        let el := fun l => bs8Element f c.g.mode scale.1 (value .fp32 (c.g.v a.toNat l).toNat)
        LaterResult s c i fun h g => ∃ g1 g2 : Group, h = g2.orFp (scale.2 ||| flags fun l => (el l).2) ∧
          g1.VectorFrom g (c.g.vKey d.toNat) 1 c.active (fun l _ => .ofNat 32 (el l).1) ∧
          g2.ScalarFrom g1 sr (.ofNat 64 (code * 256 + scale.1))
      quantised (.vqntE4m3 sr a d) 0 .e4m3 ∧
      quantised (.vqntE5m2 sr a d) 1 .e5m2 ∧
      quantised (.vqntE2m1 sr a d) 2 .e2m1 ∧
      quantised (.vqntLg6 sr a d) 3 .lg6 ∧
      quantised (.vqntI8 sr a d) 6 .int8) ∧
      (∀ f, (c.g.s sr).toNat < 4096 → scaleFmt ((c.g.s sr).toNat / 256) = some f →
        let el := fun l => dequantise f c.g.mode ((c.g.s sr).toNat % 256) (c.g.v a.toNat l).toNat
        LaterVector s c (.vdqnt sr a d) d.toNat 1 (fun l _ => .ofNat 32 (el l).1) (flags fun l => (el l).2)) ∧
      (let draw := fun (i : Instr) (f : Word → Lane) => LaterVector s c i d.toNat 1 (fun l _ =>
        f (randHash (c.g.s sr) (c.g.s (sr + 1) + (c.g.v a.toNat l).setWidth 64))) 0#4
       draw (.vrandB32 sr a d) (fun h => h.setWidth 32) ∧
       draw (.vrandF32 sr a d) (fun h => .ofNat 32 (roundVal .fp32 .rne 0 (.fin false (h.toNat / 2 ^ 40) (-24))).1))) ∧
    (c.Fits [(d.toNat, 1), (a.toNat, (packWidth w).2)] → c.Clean c.active [(a.toNat, (packWidth w).2)] →
      ∃ v : Nat → Lane, LaterVector s c (.vpack w a d) d.toNat 1 (fun l _ => v l) 0#4 ∧ ∀ l i, i < 32 → (v l).getLsbD i =
        (decide (i / (packWidth w).1 < (packWidth w).2) && (c.g.cell (c.g.vKey a.toNat + i / (packWidth w).1) l).getLsbD (i % (packWidth w).1))) ∧
    (c.Fits [(d.toNat, (packWidth w).2), (a.toNat, 1)] → c.Clean c.active [(a.toNat, 1)] →
      LaterVector s c (.vunpack w a d) d.toNat (packWidth w).2
        (fun l k => .ofNat 32 ((c.g.v a.toNat l).toNat / 2 ^ ((packWidth w).1 * k) % 2 ^ (packWidth w).1)) 0#4)

/-- R164, R167: each active lane takes the entry that va had at issue in the source lane, active or not; the neighbours
of the ring wrap, VSHUF and VBCAST take the lane that five bits name. -/
def Obligations.CrossLaneReads : Prop :=
  ∀ (s : State) (c : Ctx) (x : Bool) (b a d : BitVec 7) (n : BitVec 5) (sr : BitVec 6), s.ctx? = some c → c.flagB.isSome →
    c.Fits ((d.toNat, 1) :: (a.toNat, 1) :: runB x b 1) → c.Clean (BitVec.allOnes 32) [(a.toNat, 1)] → c.Clean c.active (runB x b 1) →
    let A := fun l => c.g.v a.toNat l
    let B := fun l => if x then (c.g.s (b.setWidth 6)).setWidth 32 else c.g.v b.toNat l
    LaterVector s c (.vnblRing a d) d.toNat 1 (fun l _ => A (if l = 0 then 31 else l - 1)) 0#4 ∧
    LaterVector s c (.vnbrRing a d) d.toNat 1 (fun l _ => A (if l = 31 then 0 else l + 1)) 0#4 ∧
    LaterVector s c (.vshuf x b a d) d.toNat 1 (fun l _ => A ((B l).extractLsb' 0 5).toNat) 0#4 ∧
    LaterVector s c (.vbcastImm n a d) d.toNat 1 (fun _ _ => A n.toNat) 0#4 ∧
    LaterVector s c (.vbcastScalar sr a d) d.toNat 1 (fun _ _ => A ((c.g.s sr).extractLsb' 0 5).toNat) 0#4

/-- R174: VVOTE gives a scalar register the mask of the active lanes whose entry is not zero, or equals that of the
lowest active lane; with no active lane it gives 0. -/
def Obligations.Votes : Prop :=
  ∀ (s : State) (c : Ctx) (a : BitVec 7) (d : BitVec 6), s.ctx? = some c → c.flagB.isSome → c.Fits [(a.toNat, 1)] →
    c.Clean c.active [(a.toNat, 1)] →
    (∃ w : Word, LaterScalar s c (.vvoteBallot a d) d w ∧ ∀ l, w.getLsbD l = true ↔ c.active.getLsbD l = true ∧ c.g.v a.toNat l ≠ 0) ∧
    (∃ w : Word, LaterScalar s c (.vvoteEq a d) d w ∧ ∀ l, w.getLsbD l = true ↔ c.active.getLsbD l = true ∧
      ∃ n, c.active.getLsbD n = true ∧ (∀ k, k < n → c.active.getLsbD k = false) ∧ c.g.v a.toNat l = c.g.v a.toNat n)

/-- R172, R173: VRED gives every active lane the root of the fixed tree, VSCAN each lane the prefix that the bits of its
count name; the flags of every node evaluated are joined once, and nothing is written or raised with no active lane.
R172: the integer operations are associative, so the tree of R173 gives the fold over the active lanes, and the
prefixes the folds over the active lanes up to or below a lane; the identity never shows. -/
def Obligations.Reductions : Prop :=
  (∀ (s : State) (c : Ctx) (o a d : BitVec 7), s.ctx? = some c → c.flagB.isSome → c.Fits [(d.toNat, 1), (a.toNat, 1)] →
    c.Clean c.active [(a.toNat, 1)] →
    let t := redTree o.toNat 5 (c.redLeaves o.toNat a.toNat)
    let root := redNode t 5 0
    let raised := fun excl => if c.lanes = [] then 0#4
      else root.2 ||| c.lanes.foldl (fun fl l => fl ||| (scanLane o.toNat t excl l).2) 0#4
    LaterVector s c (.vred o a d) d.toNat 1 (fun _ _ => root.1) (if c.lanes = [] then 0#4 else root.2) ∧
    LaterVector s c (.vscanIncl o a d) d.toNat 1 (fun l _ => (scanLane o.toNat t false l).1) (raised false) ∧
    LaterVector s c (.vscanExcl o a d) d.toNat 1 (fun l _ => (scanLane o.toNat t true l).1) (raised true))
  ∧
  (∀ (c : Ctx) (o a : Nat), o < 8 →
    let op : Lane → Lane → Lane := fun x y => [x + y, if x.toInt ≤ y.toInt then x else y, if x.toInt ≤ y.toInt then y else x,
      if x.toNat ≤ y.toNat then x else y, if x.toNat ≤ y.toNat then y else x, x &&& y, x ||| y, x ^^^ y].getD o 0
    let unit : Lane := [0, 0x7FFFFFFF, 0x80000000, 0xFFFFFFFF, 0, 0xFFFFFFFF, 0, 0].getD o 0
    let folded := fun (ls : List Nat) => (ls.map fun l => c.g.v a l).foldl op unit
    let t := redTree o 5 (c.redLeaves o a)
    (redNode t 5 0).1 = folded c.lanes ∧
    ∀ l, l < 32 → (scanLane o t false l).1 = folded (c.lanes.filter fun k => decide (k ≤ l)) ∧
      (scanLane o t true l).1 = folded (c.lanes.filter fun k => decide (k < l)))

/-- R168, R169: an edge form reads its neighbours and, in the end lane, the value of its edge latch, which it empties;
without wrap the open end of the chain reads 0 and consults no latch. -/
def Obligations.EdgeReads : Prop :=
  ∀ (s : State) (c : Ctx) (w : Workgroup) (wrap left : Bool) (a d : BitVec 7), s.ctx? = some c → c.flagB.isSome →
    c.Fits [(d.toNat, 1), (a.toNat, 1)] → c.Clean (BitVec.allOnes 32) [(a.toNat, 1)] → s.wgOf c.g = some w →
    let i : Instr := if left then .vnblEdge wrap a d else .vnbrEdge wrap a d
    let open_ := wrap = false ∧ if left then c.g.id.num = 0 else c.g.id.num + 1 = w.groups
    let key := 2 * c.g.id.num + if left then 0 else 1
    let writes := fun (end_ : Lane) (h g : Group) => ∃ g' : Group, h = g'.orFp 0#4 ∧ g'.VectorFrom g (c.g.vKey d.toNat) 1 c.active fun l _ =>
      if left then (if l = 0 then end_ else c.g.v a.toNat (l - 1)) else if l = 31 then end_ else c.g.v a.toNat (l + 1)
    (open_ → LaterFrom s s c i c.flagB (writes 0)) ∧
    (∀ v, ¬ open_ → s.latchReady w c.g left = true → Map.find? w.latches key = some v →
      LaterFrom s (s.onWg c.g.id.wg fun w => { w with latches := Map.erase w.latches key }) c i c.flagB (writes v))

/-- R170: XEDGE reads lanes 0 and 31 at issue and is held until both deposits are made; EDGE_LATCH_DEPOSIT fills the
empty latches of the neighbours, and the fragment goes on. -/
def Obligations.EdgeDeposits : Prop :=
  (∀ (s : State) (c : Ctx) (w : Workgroup) (wrap : Bool) (a : BitVec 6), s.ctx? = some c → c.Fits [(a.toNat, 1)] →
    c.Clean 0x80000001#32 [(a.toNat, 1)] → s.wgOf c.g = some w →
    let n := c.g.id.num
    (wrap = false → n = 0 → w.groups = 1 → exec (.xedge wrap a) s = .next (c.done s c.g)) ∧
    (0 < n → n + 1 < w.groups → exec (.xedge wrap a) s = .next (c.put s ((c.advance c.g).onFrag c.entry fun f =>
      { f with wait := .held, hold := .deposits (some (n - 1, c.g.v a.toNat 0)) (some (n + 1, c.g.v a.toNat 31)) })))) ∧
  (∀ (s : State) (age entry l r : Nat) (vl vr : Lane) (g : Group) (gl gr : Nat × Group) (f : Frag) (w : Workgroup), Map.find? s.groups age = some g →
    g.flow.frags.find? (fun f => f.entry == entry) = some f → f.wait = .held → f.hold = .deposits (some (l, vl)) (some (r, vr)) →
    g.flow.trapFrags = [] → Map.find? s.wgs g.id.wg = some w → s.member? g.id.wg l = some gl → s.member? g.id.wg r = some gr →
    gl.2.exited = false → gr.2.exited = false → Map.find? w.latches (2 * l + 1) = none → Map.find? w.latches (2 * r) = none → l ≠ r →
    ∃ t w', exec (.edgeLatchDeposit age entry) s = .next t ∧ Map.find? t.wgs g.id.wg = some w' ∧
      Map.find? w'.latches (2 * l + 1) = some vl ∧ Map.find? w'.latches (2 * r) = some vr ∧
      (∀ k, k ≠ 2 * l + 1 → k ≠ 2 * r → Map.find? w'.latches k = Map.find? w.latches k) ∧
      t = { s with wgs := t.wgs, groups := Map.insert s.groups age (g.onFragIn false entry fun f => { f with wait := .ready, hold := .none }) })

/-- R175 to R177: XSEND occupies the send side of a slot and is held at itself; XRECV occupies the receive side and goes
on with its results in flight under flag A; a transfer hands the registers over, completes both, and empties the
slot. -/
def Obligations.Rendezvous : Prop :=
  (∀ (s : State) (c : Ctx) (w : Workgroup) (p : BitVec 6) (n : BitVec 2) (slot : BitVec 4) (a : BitVec 6), s.ctx? = some c →
    s.wgOf c.g = some w → (p = 32#6 ∨ p.toNat < w.groups ∧ p.toNat ≠ c.g.id.num) → c.Fits [(a.toNat, n.toNat + 1)] →
    s.partnerGone w.id c.g.id.num p.toNat = false →
    (c.Clean c.active [(a.toNat, n.toNat + 1)] → c.checkSide s w true slot.toNat p.toNat = .ok () → ∃ x : SendSide,
      exec (.xsend p n slot a) s = .next ((s.onSlot w.id slot.toNat fun y => { y with send := some x }).onGroup c.age fun g =>
        (g.onFrag c.entry fun f => { f with wait := .held, hold := .transfer slot.toNat, lastIssue := c.clock }).countIssue) ∧
      x.num = c.g.id.num ∧ x.partner = p.toNat ∧ x.lanes = c.active ∧ x.count = n.toNat + 1 ∧ x.age = c.age ∧ x.entry = c.entry ∧ x.pc = c.pc ∧ x.inTrap = c.g.flow.trapMode ∧
      ∀ l j, c.active.getLsbD l = true → j ≤ n.toNat → x.data.find? (fun q => q.1 == 32 * j + l) =
        some (32 * j + l, c.g.cell (c.g.vKey a.toNat + j) l)) ∧
    (c.flagA.isSome → c.checkSide s w false slot.toNat p.toNat = .ok () → ∃ (r : RecvSide) (q : Pend),
      let s1 := s.onSlot w.id slot.toNat fun y => { y with recv := some r }
      exec (.xrecv p n slot a) s = .next { c.done s1 c.g with pend := s.pend ++ [q], nextOp := s.nextOp + 1 } ∧
      r.num = c.g.id.num ∧ r.partner = p.toNat ∧ r.op = s.nextOp ∧ r.age = c.age ∧ q.id = s.nextOp ∧ q.age = c.age ∧ q.flag = c.flagA ∧
      q.kind = .xrecv slot.toNat p.toNat c.active a.toNat (n.toNat + 1))) ∧
  (∀ (s : State) (wg slot : Nat) (w : Workgroup) (x : SendSide) (r : RecvSide) (p : Pend) (gx gr : Group) (sl pt : Nat)
    (lanes : Lane) (reg count : Nat), Map.find? s.wgs wg = some w → Map.find? w.slots slot = some { send := some x, recv := some r } →
    x.num ≠ r.num → (x.partner = 32 ∨ x.partner = r.num) → (r.partner = 32 ∨ r.partner = x.num) →
    Map.find? s.groups x.age = some gx → Map.find? s.groups r.age = some gr → gx.running = true → gr.running = true → x.age ≠ r.age →
    s.pend.find? (fun q => q.id == r.op) = some p → p.age = r.age → p.path = none → p.kind = .xrecv sl pt lanes reg count →
    ∃ t g' w', exec (.rendezvousTransfer wg slot) s = .next t ∧
      t = { s with wgs := Map.insert s.wgs wg w', pend := s.pend.filter (fun q => q.id != r.op),
                   groups := Map.insert (Map.insert s.groups r.age g') x.age (gx.completeHeld x.inTrap x.entry x.pc) } ∧
      w' = { w with slots := Map.erase w.slots slot } ∧
      (∀ f ∈ gx.flow.frags, f.entry = x.entry → f.pc = x.pc → x.inTrap = false →
        { f with pc := f.pc + 4, wait := .ready, hold := .none, age := 0 } ∈ (gx.completeHeld x.inTrap x.entry x.pc).flow.frags) ∧
      g'.VectorFrom gr reg count lanes fun l j =>
        if j < x.count ∧ x.lanes.getLsbD l = true then ((x.data.find? fun q => q.1 == 32 * j + l).map (·.2)).getD 0 else 0)

/-- R103: BRA, BC and BVOTE move the whole fragment to the target, which is the instruction's address plus twice the
signed offset, or to the next halfword; BC reads the condition bit, BVOTE the mask on the fragment's own lanes; no
fragment is made or changed but the issuing one. -/
def Obligations.WholeBranches : Prop :=
  ∀ (s : State) (c : Ctx) (o : BitVec 21) (k m : BitVec 2), s.ctx? = some c →
    let L := c.f.lanes
    let M := c.g.m m.toNat
    let moves := fun (i : Instr) (taken : Prop) => ∃ g', exec i s = .next (c.put s g') ∧
      (∃ f, g'.frag? c.entry = some f ∧ f.lanes = L ∧ f.header = c.f.header ∧
        (taken → f.pc = .ofInt 64 (c.pc.toInt + 2 * o.toInt) ∧ f.needHeader = true) ∧
        (¬ taken → f.pc = c.npc ∧ f.needHeader = c.f.needHeader)) ∧
      (∀ e, e ≠ c.entry → g'.frag? e = c.g.frag? e) ∧ g'.bank.length = c.g.bank.length ∧
      g' = { c.g.setBank g'.bank with work := { c.g.work with issued := c.g.work.issued + 1, packed := g'.work.packed } }
    moves (.bra o) True ∧ moves (.bcT o k) (c.g.c k = true) ∧ moves (.bcF o k) (c.g.c k = false) ∧
    moves (.bvoteAny o m) (∃ l, L.getLsbD l = true ∧ M.getLsbD l = true) ∧
    moves (.bvoteAll o m) (∀ l, L.getLsbD l = true → M.getLsbD l = true) ∧
    moves (.bvoteNone o m) (∀ l, L.getLsbD l = true → M.getLsbD l = false)

/-- R91, R104: BDIV moves the fragment whole if all its lanes agree; otherwise the lanes whose bit is 0 keep the entry
and go on, and the others take a new entry at the target under the same header; if no entry is to be had the
fragment waits for one (log 17: the model marks it in its own entry). -/
def Obligations.DivergentBranch : Prop :=
  ∀ (s : State) (c : Ctx) (o : BitVec 21) (m : BitVec 2), s.ctx? = some c →
    let M := c.g.m m.toNat
    let T := c.f.lanes &&& M
    let N := c.f.lanes &&& ~~~M
    let target : Word := .ofInt 64 (c.pc.toInt + 2 * o.toInt)
    (N = 0 → exec (.bdiv o m) s = .next (c.put s (c.jump c.g target))) ∧
    (N ≠ 0 → T = 0 → exec (.bdiv o m) s = .next (c.done s c.g)) ∧
    (N ≠ 0 → T ≠ 0 →
      let g1 := (c.advance c.g).onFrag c.entry fun f => { f with lanes := N }
      let new := s.newEntry g1
      (s.splitRoom g1 = true → (∀ f ∈ g1.bank, f.entry ≠ new) → ∃ g' fn ft, exec (.bdiv o m) s = .next (c.put s g') ∧
        g'.frag? c.entry = some fn ∧ fn.lanes = N ∧ fn.pc = c.npc ∧ fn.header = c.f.header ∧
        g'.frag? new = some ft ∧ ft.lanes = T ∧ ft.pc = target ∧ ft.header = c.f.header ∧ ft.wait = .ready ∧ ft.age = 0 ∧
        (∀ e, e ≠ c.entry → e ≠ new → g'.frag? e = c.g.frag? e) ∧ g'.work.divergent = c.g.work.divergent + 1 ∧
        g'.regs = c.g.regs ∧ g'.sys = c.g.sys) ∧
      (s.splitRoom g1 = false → c.g.flow.trapMode = false → exec (.bdiv o m) s = .next (c.stopped s (.hold (.entries 1)))))

/-- R105 to R108: CALL pushes the address after it with the fragment's lanes and goes to its target; RET pops each lane
from its topmost entry; JMPI goes to a register's address.  A register's address must be even (R32).  With 16
entries on chip CALL spills the bottom one; RET refills the entry spilled last while a lane has none, and splits
where its lanes return to several addresses.  That a RET whose refill finds the area misaligned or outside private
space takes the traps of a spill is the model's choice (log 85). -/
def Obligations.CallsAndReturns : Prop :=
  (∀ (s : State) (c : Ctx) (o : BitVec 18) (a : BitVec 6), s.ctx? = some c →
    let pushed : Group := { c.g with flow := { c.g.flow with ret := { addr := c.npc, lanes := c.f.lanes } :: c.g.flow.ret } }
    (c.g.flow.ret.length < 16 →
      exec (.call o) s = .next (c.put s (c.jump pushed (.ofInt 64 (c.pc.toInt + 2 * o.toInt)))) ∧
      ((c.g.s a).toNat % 2 = 0 → exec (.callR a) s = .next (c.put s (c.jump pushed (c.g.s a))))) ∧
    ((c.g.s a).toNat % 2 = 0 → exec (.jmpi a) s = .next (c.put s (c.jump c.g (c.g.s a)))) ∧
    ((c.g.s a).toNat % 2 = 1 → ∀ i ∈ [Instr.callR a, .jmpi a],
      exec i s = .next (c.stopped s (.trap { cause := .misalign, lane := 32, addr := c.g.s a })))) ∧
  (∀ (s : State) (c : Ctx) (a : Word), s.ctx? = some c →
    let entries := fun (st : List RetEntry) l => (st.filter fun e => e.lanes.getLsbD l).map (·.addr)
    (c.f.lanes ≠ 0 → a.toNat % 2 = 0 → (∀ l, c.f.lanes.getLsbD l = true → (entries c.g.flow.ret l).head? = some a) →
      ∃ st, exec .ret s = .next (c.put s ((c.jump { c.g with flow := { c.g.flow with ret := st } } a).onFrag c.entry fun f =>
          { f with lanes := c.f.lanes })) ∧
        (∀ l, c.f.lanes.getLsbD l = true → entries st l = (entries c.g.flow.ret l).tail) ∧
        (∀ l, c.f.lanes.getLsbD l = false → entries st l = entries c.g.flow.ret l)) ∧
    (∀ l, c.f.lanes.getLsbD l = true → entries c.g.flow.ret l = [] → c.g.sys.rsDepth = 0 →
      exec .ret s = .next (c.stopped s c.illegal))) ∧
  (∀ (s : State) (c : Ctx) (o : BitVec 18) (a : BitVec 6), s.ctx? = some c → c.g.flow.ret.length = 16 →
    let base := c.g.sys.rsBase
    let depth := c.g.sys.rsDepth
    let place : Word := base + .ofNat 64 (16 * depth)
    let both := fun (t : State) => exec (.call o) s = .next t ∧ ((c.g.s a).toNat % 2 = 0 → exec (.callR a) s = .next t)
    let limit := fun (x : Word) => c.stopped s (.trap { cause := .privLimit, pc := c.pc, addr := x })
    (256 ≤ depth → both (limit (base + 4096))) ∧
    (depth < 256 → base = 0 → both (limit 0)) ∧
    (depth < 256 → base ≠ 0 → base.toNat % 16 ≠ 0 → both (c.stopped s (.trap { cause := .misalign, lane := 32, addr := base }))) ∧
    (depth < 256 → base ≠ 0 → base.toNat % 16 = 0 → space? base ≠ some .priv →
      both (c.stopped s (.trap { cause := .space, lane := 32, addr := base }))) ∧
    (depth < 256 → base ≠ 0 → base.toNat % 16 = 0 → space? base = some .priv →
      (c.beyondHwm { lane := 32, addr := place, size := 16 } = true → both (c.parkState s 2 4 0 place)) ∧
      (∀ e, c.spillAccess s place = .error e → both (c.stopped s e)) ∧
      (∀ s1 e, c.spillAccess s place = .ok s1 → c.g.flow.ret.getLast? = some e →
        let spilled := valBytes 8 e.addr.toNat ++ valBytes 4 e.lanes.toNat ++ [0#8, 0#8, 0#8, 0#8]
        let goes := fun (i : Instr) (target : Word) => ∃ t g', exec i s = .next t ∧ Map.find? t.groups c.age = some g' ∧
          g'.flow.ret = { addr := c.npc, lanes := c.f.lanes } :: c.g.flow.ret.dropLast ∧
          g'.sys = { c.g.sys with rsDepth := depth + 1 } ∧ g'.regs = c.g.regs ∧
          (∃ f, g'.frag? c.entry = some f ∧ f.pc = target ∧ f.lanes = c.f.lanes ∧ f.needHeader = true) ∧
          ∀ k, vkey c.ctx place ≤ k → k < vkey c.ctx place + 16 →
            ((Map.find? (t.core c.core).l1 k).map (·.val)).or ((Map.find? t.mem.llc k).map (·.val)) = spilled[k - vkey c.ctx place]?
        goes (.call o) (.ofInt 64 (c.pc.toInt + 2 * o.toInt)) ∧ ((c.g.s a).toNat % 2 = 0 → goes (.callR a) (c.g.s a))))) ∧
  (∀ (s s1 : State) (c : Ctx) (st : List RetEntry) (depth : Nat), s.ctx? = some c →
    c.refill 512 c.g.flow.ret c.g.sys.rsDepth s = .ok (st, depth, s1) →
    let entries := fun (st : List RetEntry) l => (st.filter fun e => e.lanes.getLsbD l).map (·.addr)
    let L := fun (l : Nat) => c.f.lanes.getLsbD l = true
    let addrs := ((lanesOf c.f.lanes).filterMap fun l => (entries st l).head?).eraseDups
    ((∃ l, L l ∧ entries st l = []) → exec .ret s = .next (c.stopped s c.illegal)) ∧
    ((∀ l, L l → ∃ a, (entries st l).head? = some a ∧ a.toNat % 2 = 0) → addrs ≠ [] →
      (1 < addrs.length → s1.splitRoomFor c.g (addrs.length - 1) = false → c.g.flow.trapMode = false →
        exec .ret s = .next (c.stopped s (.hold (.entries (addrs.length - 1))))) ∧
      (addrs.length = 1 ∨ s1.splitRoomFor c.g (addrs.length - 1) = true → ∃ t g' low, exec .ret s = .next t ∧ Map.find? t.groups c.age = some g' ∧
        g'.sys = { c.g.sys with rsDepth := depth } ∧ g'.regs = c.g.regs ∧ low ∈ addrs ∧ (∀ b ∈ addrs, low.toNat ≤ b.toNat) ∧
        (∀ l, entries g'.flow.ret l = if L l then (entries st l).tail else entries st l) ∧
        g'.bank.length = c.g.bank.length + (addrs.length - 1) ∧
        (∀ f ∈ c.g.bank, f.entry ≠ c.entry → f ∈ g'.bank) ∧
        ∀ b ∈ addrs, ∃ f ∈ g'.bank, f.pc = b ∧ (b = low → f.entry = c.entry) ∧ f.needHeader = true ∧ f.header = c.f.header ∧ f.age = 0 ∧
          (b ≠ low → f.wait = .ready) ∧
          ∀ l, f.lanes.getLsbD l = true ↔ L l ∧ (entries st l).head? = some b))) ∧
  (∀ (s : State) (c : Ctx) (n depth : Nat) (st : List RetEntry),
    let covered := ∀ l, c.f.lanes.getLsbD l = true → ∃ e ∈ st, e.lanes.getLsbD l = true
    let place : Word := c.g.sys.rsBase + .ofNat 64 (16 * (depth - 1))
    (covered ∨ depth = 0 ∨ 16 ≤ st.length → c.refill n st depth s = .ok (st, depth, s)) ∧
    (¬ covered → depth ≠ 0 → st.length < 16 → c.spillBase = .ok () → ∀ s1 s2 bytes, c.spillAccess s place = .ok s1 →
      s1.l1Load c.core (vkey c.ctx place) false (s1.mayAllocate c.core (lineOf (vkey c.ctx place))) 16 = .ok (bytes, s2) →
      let own := ((keyRun (vkey c.ctx place) 16).zip bytes).map fun p => (s2.ownByte c.age c.g.work.seq p.1).getD p.2
      let e : RetEntry := { addr := .ofNat 64 (bytesVal (own.take 8)),
                            lanes := .ofNat 32 (bytesVal ((own.drop 8).take 4)) &&& c.g.flow.live }
      c.refill (n + 1) st depth s = c.refill n (if e.lanes = 0 then st else st ++ [e]) (depth - 1) s2))

/-- R110: JOIN adds the fragment's lanes to the enrolled lanes of its rejoin mask and has no other effect. -/
def Obligations.Enrolment : Prop :=
  ∀ (s : State) (c : Ctx) (j : BitVec 3), s.ctx? = some c → ∃ g', exec (.join j) s = .next (c.done s g') ∧
    g'.rejoinE j.toNat = c.g.rejoinE j.toNat ||| c.f.lanes ∧ (∀ k, g'.rejoinA k = c.g.rejoinA k) ∧
    (∀ k, k ≠ j.toNat → g'.rejoinE k = c.g.rejoinE k) ∧ g'.bank = c.g.bank ∧
    g' = { c.g with flow := { c.g.flow with rejoinE := g'.flow.rejoinE, rejoinA := g'.flow.rejoinA,
                                            trapE := g'.flow.trapE, trapA := g'.flow.trapA } }

/-- R112: STRIKE takes the fragment's lanes out of both parts of a rejoin mask, and releases it if every lane still
enrolled has arrived: the fragments that were parked there with one resume address are one fragment, ready at that
address, in the lowest of their entries and with an ageing counter of 0 (R111), and the mask is empty. -/
def Obligations.Strikes : Prop :=
  ∀ (s : State) (c : Ctx) (j : BitVec 3), s.ctx? = some c →
    let n := j.toNat
    let released := fun (fs : List Frag) (g' : Group) (e a : Lane) =>
      if e = a ∧ a ≠ 0 then g'.rejoinE n = 0 ∧ g'.rejoinA n = 0 ∧ (∀ f ∈ g'.bank, f.parkedAt n = false) ∧
        (∀ f ∈ fs, f.parkedAt n = false → f ∈ g'.bank) ∧
        (∀ f ∈ fs, f.parkedAt n = true → ∃ f' ∈ g'.bank, f'.wait = .ready ∧ f'.pc = f.pc ∧ f'.lanes &&& f.lanes = f.lanes) ∧
        (∀ f ∈ fs, f.parkedAt n = true → (∀ h ∈ fs, h.parkedAt n = true → h.pc = f.pc → f.entry ≤ h.entry) →
          ∃ f' ∈ g'.bank, f'.entry = f.entry ∧ f'.wait = .ready ∧ f'.pc = f.pc ∧ f'.header = f.header ∧ f'.needHeader = f.needHeader ∧
            (∀ l, f'.lanes.getLsbD l = true ↔ ∃ h ∈ fs, h.parkedAt n = true ∧ h.pc = f.pc ∧ h.lanes.getLsbD l = true) ∧
            ((∃ h ∈ fs, h ≠ f ∧ h.parkedAt n = true ∧ h.pc = f.pc) → f'.age = 0)) ∧
        ∀ f' ∈ g'.bank, f' ∈ fs ∧ f'.parkedAt n = false ∨ f'.wait = .ready ∧ ∃ f ∈ fs, f.parkedAt n = true ∧ f.entry = f'.entry ∧
          f.pc = f'.pc ∧ ∀ h ∈ fs, h.parkedAt n = true → h.pc = f.pc → f.entry ≤ h.entry
      else g'.rejoinE n = e ∧ g'.rejoinA n = a ∧ g'.bank = fs
    ∃ g', exec (.strike j) s = .next (c.put s g') ∧
      released (c.advance c.g).bank g' (c.g.rejoinE n &&& ~~~c.f.lanes) (c.g.rejoinA n &&& ~~~c.f.lanes) ∧
      (∀ k, k ≠ n → g'.rejoinE k = c.g.rejoinE k ∧ g'.rejoinA k = c.g.rejoinA k) ∧
      g'.regs = c.g.regs ∧ g'.sys = c.g.sys ∧ g'.id = c.g.id ∧ g'.work = (c.advance c.g).work

/-- R91, R111, R116: PARK leaves the lanes that are not enrolled at the next halfword and parks the enrolled ones there,
counted as arrived; with the last arrival the mask is released, as in R111: one ready fragment in the lowest entry
for each resume address. Model's choice: that the enrolled lanes keep the entry and the others take the new one (log
66; R111 does not say which). -/
def Obligations.ParkedLanes : Prop :=
  ∀ (s : State) (c : Ctx) (j : BitVec 3), s.ctx? = some c →
    let n := j.toNat
    let released := fun (fs : List Frag) (g' : Group) (e a : Lane) =>
      if e = a ∧ a ≠ 0 then g'.rejoinE n = 0 ∧ g'.rejoinA n = 0 ∧ (∀ f ∈ g'.bank, f.parkedAt n = false) ∧
        (∀ f ∈ fs, f.parkedAt n = false → f ∈ g'.bank) ∧
        (∀ f ∈ fs, f.parkedAt n = true → ∃ f' ∈ g'.bank, f'.wait = .ready ∧ f'.pc = f.pc ∧ f'.lanes &&& f.lanes = f.lanes) ∧
        (∀ f ∈ fs, f.parkedAt n = true → (∀ h ∈ fs, h.parkedAt n = true → h.pc = f.pc → f.entry ≤ h.entry) →
          ∃ f' ∈ g'.bank, f'.entry = f.entry ∧ f'.wait = .ready ∧ f'.pc = f.pc ∧ f'.header = f.header ∧ f'.needHeader = f.needHeader ∧
            (∀ l, f'.lanes.getLsbD l = true ↔ ∃ h ∈ fs, h.parkedAt n = true ∧ h.pc = f.pc ∧ h.lanes.getLsbD l = true) ∧
            ((∃ h ∈ fs, h ≠ f ∧ h.parkedAt n = true ∧ h.pc = f.pc) → f'.age = 0)) ∧
        ∀ f' ∈ g'.bank, f' ∈ fs ∧ f'.parkedAt n = false ∨ f'.wait = .ready ∧ ∃ f ∈ fs, f.parkedAt n = true ∧ f.entry = f'.entry ∧
          f.pc = f'.pc ∧ ∀ h ∈ fs, h.parkedAt n = true → h.pc = f.pc → f.entry ≤ h.entry
      else g'.rejoinE n = e ∧ g'.rejoinA n = a ∧ g'.bank = fs
    let P := c.f.lanes &&& c.g.rejoinE n
    let on := c.f.lanes &&& ~~~c.g.rejoinE n
    let g1 := (c.advance c.g).onFrag c.entry fun f => { f with needHeader := true }
    let parked := g1.onFrag c.entry fun f => { f with lanes := P, wait := .parked, rejoin := n }
    let outside := fun (g' : Group) => (∀ k, k ≠ n → g'.rejoinE k = c.g.rejoinE k ∧ g'.rejoinA k = c.g.rejoinA k) ∧
      g'.regs = c.g.regs ∧ g'.sys = c.g.sys ∧ g'.id = c.g.id
    (P = 0 → exec (.park j) s = .next (c.put s g1)) ∧
    (P ≠ 0 → on = 0 → ∃ g', exec (.park j) s = .next (c.put s g') ∧
      released parked.bank g' (c.g.rejoinE n) (c.g.rejoinA n ||| P) ∧ outside g') ∧
    (P ≠ 0 → on ≠ 0 → s.splitRoom parked = true → ∃ g' f, exec (.park j) s = .next (c.put s g') ∧
      f.entry = s.newEntry parked ∧ f.lanes = on ∧ f.pc = c.npc ∧ f.wait = .ready ∧ f.needHeader = true ∧ f.header = c.f.header ∧
      released (insertFrag parked.bank f) g' (c.g.rejoinE n) (c.g.rejoinA n ||| P) ∧ outside g') ∧
    (P ≠ 0 → on ≠ 0 → s.splitRoom parked = false → c.g.flow.trapMode = false →
      exec (.park j) s = .next (c.stopped s (.hold (.entries 1))))

/-- R105, R113, R115: REGANG fuses into the fragment every other ready one at its address; NOP only goes on; YIELD goes
on and is paused for the next 32 cycles, and its pause ends then. -/
def Obligations.FusionAndPauses : Prop :=
  (∀ (s : State) (c : Ctx), s.ctx? = some c →
    let joins := fun (f : Frag) => f.entry ≠ c.entry ∧ f.wait = .ready ∧ f.pc = c.pc
    (∃ g' f, exec .regang s = .next (c.put s g') ∧ g'.frag? c.entry = some f ∧ f.pc = c.npc ∧ f.needHeader = true ∧
      (∀ l, f.lanes.getLsbD l = true ↔ c.f.lanes.getLsbD l = true ∨ ∃ h ∈ c.g.bank, joins h ∧ h.lanes.getLsbD l = true) ∧
      (∀ h, h.entry ≠ c.entry → (h ∈ g'.bank ↔ h ∈ c.g.bank ∧ ¬ joins h)) ∧ g'.regs = c.g.regs ∧ g'.sys = c.g.sys) ∧
    exec .nop s = .next (c.done s c.g) ∧
    exec .yield s = .next (c.put s ((c.advance c.g).onFrag c.entry fun f =>
      { f with wait := .paused, pausedUntil := s.cycleOf c.core + 33 }))) ∧
  (∀ (s : State) (age entry : Nat) (g : Group), Map.find? s.groups age = some g →
    let ends := fun (f : Frag) => if f.entry = entry ∧ f.wait = .paused ∧ f.pausedUntil ≤ s.cycleOf g.id.core then
      { f with wait := .ready } else f
    exec (.yieldPauseEnd age entry) s = .next { s with groups := Map.insert s.groups age { g with flow := { g.flow with
      frags := g.flow.frags.map ends, trapFrags := g.flow.trapFrags.map ends } } })

/-- R36 to R39: a clause header waits until no instruction in flight keeps a flag of its mask set; then it is in force
from the next halfword on.  No instruction is counted as issued.  That a header takes the trap of an abandoned
receive only once its other flags are clear is the model's choice (log 119). -/
def Obligations.Headers : Prop :=
  (∀ (s : State) (c : Ctx) (g e : Bool) (m : BitVec 3) (b a : BitVec 4) (w : BitVec 12), s.ctx? = some c →
    c.word < 2 ^ 32 → w = .ofNat 12 (c.word / 2 ^ 7) → c.checkHeader w = .ok () →
    let pending := ∃ i, w.getLsbD i = true ∧ ∃ p ∈ s.pend, p.age = c.age ∧ p.trapBank = c.g.flow.trapMode ∧ p.flag = some i
    (¬ pending → exec (.clauseHeader g e m b a w) s = .next (c.put s (c.g.onFrag c.entry fun f =>
      { f with header := some (.ofNat 32 c.word), clauseStart := c.npc, needHeader := false, pc := c.npc }))) ∧
    (pending → exec (.clauseHeader g e m b a w) s = .next (c.put s (c.g.onFrag c.entry fun f =>
      { f with wait := .clause, hold := .flags c.word })))) ∧
  (∀ (s s1 : State) (age entry n w : Nat) (g : Group) (f : Frag), Map.find? s.groups age = some g → g.frag? entry = some f →
    f.wait = .clause → s.fetch g f.pc = .ok (n, w, s1) →
    let pending := ∃ i, i < 12 ∧ w / 2 ^ (7 + i) % 2 = 1 ∧ ∃ p ∈ s.pend, p.age = age ∧ p.trapBank = g.flow.trapMode ∧ p.flag = some i
    (pending → exec (.clauseWaitSatisfied age entry) s = .next s) ∧
    (¬ pending → exec (.clauseWaitSatisfied age entry) s =
      .next { s with groups := Map.insert s.groups age (g.onFrag entry fun f => { f with wait := .ready, hold := .none }) }))

/-- R37: a header whose flags are reserved, equal but for none, or whose guard fields are set without a guard, takes
ILLEGAL at itself. -/
def Obligations.IllegalHeaders : Prop :=
  ∀ (s : State) (c : Ctx) (w : Nat), s.ctx? = some c → c.word = w → w < 2 ^ 32 → w % 128 = 1 →
    let fa := w / 2 ^ 19 % 16
    let fb := w / 2 ^ 23 % 16
    (12 ≤ fa ∧ fa ≤ 14 ∨ 12 ≤ fb ∧ fb ≤ 14 ∨ fa = fb ∧ fa ≠ 15 ∨ w / 2 ^ 30 % 2 = 0 ∧ (w / 2 ^ 31 % 2 = 1 ∨ w / 2 ^ 27 % 8 ≠ 0)) →
    decodeTableWord 32 w = none ∧
      s.decoded w = .next (s.takeTrap c.age c.stopPoint { cause := .illegal, word := BitVec.ofNat 64 w })

/-- R118 and Table 15.2: what SRD reads under each number, and that a number of no special register is ILLEGAL for SRD
and SWR. PRIO holds the base priority and the effective one (R349), LANDST the counts of R210. Model's choice: that
TRAPVEC, TRAPCAUSE, TRAPPC and the group's own s48 to s55 read in every mode (log 29; Table 0.1 says 'as RW, in trap
mode or from a control core'). -/
def Obligations.SpecialRegisterReads : Prop :=
  ∀ (s : State) (c : Ctx) (a : BitVec 6), s.ctx? = some c →
    let g := c.g
    let reads := fun (n : Nat) (v : Nat) => ScalarResult s c (.srd (.ofNat 12 n) a) a (.ofNat 64 v)
    (∀ p ∈ [(0x000, lowestLane c.f.lanes), (0x001, lowestLane c.f.lanes / 4), (0x002, g.id.num), (0x003, g.id.wgIndex),
        (0x004, g.id.launch.toNat), (0x005, g.id.core), (0x006, s.pkg), (0x007, s.basePrio g % 16 + s.effPrio g.id.age % 16 * 16), (0x008, g.id.cls), (0x009, g.sys.gang.word),
        (0x00A, g.id.ctx % 4096), (0x00B, g.id.age), (0x010, g.sys.fpctl.toNat), (0x011, g.sys.fpstat.toNat),
        (0x012, g.sys.lossScale.toNat), (0x013, g.sys.guideW.toNat), (0x014, g.sys.ackbar.toNat), (0x015, g.sys.privHwm.toNat),
        (0x016, g.sys.rsBase.toNat), (0x017, g.sys.rsDepth), (0x018, s.landSt g), (0x019, s.timeNs), (0x01A, s.cycleOf g.id.core),
        (0x020, g.sys.trapVec.toNat), (0x021, g.sys.trapCause.toNat), (0x022, g.sys.trapPc.toNat), (0x023, g.sys.trapNpc.toNat),
        (0x024, g.sys.trapFrag.toNat)], reads p.1 p.2) ∧
    (∀ k, k < 8 → reads (0x028 + k) (g.sys.trapRec.getD k 0).toNat ∧ reads (0x030 + k) (Map.get 0 g.regs.s (48 + k)).toNat ∧
      reads (0x040 + 2 * k) ((Map.get 0 g.regs.k k).toNat % 2 ^ 64) ∧ reads (0x041 + 2 * k) ((Map.get 0 g.regs.k k).toNat / 2 ^ 64)) ∧
    (∀ n : Nat, n < 4096 → n = 0x01B ∨ n = 0x00C ∨ n = 0x025 ∨ n = 0x038 ∨ 0x050 ≤ n →
      ∀ i ∈ [Instr.srd (.ofNat 12 n) a, .swr (.ofNat 12 n) a], exec i s = .next (c.stopped s c.illegal))

/-- R118, R137, R140, R52, R54 and Table 15.2: what SWR writes: FPCTL, FPSTAT by ones that clear, LOSSSCALE, ACKBAR,
RSBASE, the shape records, and in trap mode only TRAPVEC, TRAPCAUSE, TRAPPC and the group's own s48 to s55. -/
def Obligations.SpecialRegisterWrites : Prop :=
  ∀ (s : State) (c : Ctx) (a : BitVec 6), s.ctx? = some c →
    let g := c.g
    let v := c.g.s a
    let writes := fun (n : Nat) (h : Group) => exec (.swr (.ofNat 12 n) a) s = .next (c.done s h)
    let sys := fun (x : Special) => ({ g with sys := x } : Group)
    let k := fun (n : Nat) => (Map.get 0 g.regs.k n).toNat
    let record := fun (n x : Nat) => ({ g with regs := { g.regs with k := Map.set 0 g.regs.k n (.ofNat 128 x) } } : Group)
    writes 0x010 (sys { g.sys with fpctl := v.setWidth 2 }) ∧
    writes 0x011 (sys { g.sys with fpstat := g.sys.fpstat &&& ~~~(v.setWidth 4) }) ∧
    writes 0x012 (sys { g.sys with lossScale := v.setWidth 32 }) ∧ writes 0x014 (sys { g.sys with ackbar := v }) ∧
    writes 0x016 (sys { g.sys with rsBase := v }) ∧
    (∀ n, n < 8 → writes (0x040 + 2 * n) (record n (k n / 2 ^ 64 * 2 ^ 64 + v.toNat % 2 ^ 59)) ∧
      writes (0x041 + 2 * n) (record n (k n % 2 ^ 64 + v.toNat * 2 ^ 64))) ∧
    (∀ n, n ≤ 0x00B ∨ n ∈ [0x013, 0x015, 0x017, 0x018, 0x019, 0x01A, 0x023, 0x024] ∨ 0x028 ≤ n ∧ n ≤ 0x02F → writes n g) ∧
    (g.flow.trapMode = true →
      writes 0x020 (sys { g.sys with trapVec := v }) ∧ writes 0x021 (sys { g.sys with trapCause := v.setWidth 8 }) ∧
      writes 0x022 (sys { g.sys with trapPc := v }) ∧
      ∀ i, i < 8 → writes (0x030 + i) { g with regs := { g.regs with s := Map.set 0 g.regs.s (48 + i) v } }) ∧
    (g.flow.trapMode = false → ∀ n, 0x020 ≤ n ∧ n ≤ 0x022 ∨ 0x030 ≤ n ∧ n ≤ 0x037 →
      exec (.swr (.ofNat 12 n) a) s = .next (c.stopped s c.priv)) ∧
    (∀ n : BitVec 12, n.toNat ≤ 0x00B ∨ 0x010 ≤ n.toNat ∧ n.toNat ≤ 0x01A ∨ 0x020 ≤ n.toNat ∧ n.toNat ≤ 0x024 ∨
        0x028 ≤ n.toNat ∧ n.toNat ≤ 0x037 ∨ 0x040 ≤ n.toNat ∧ n.toNat ≤ 0x04F →
      (0x020 ≤ n.toNat ∧ n.toNat ≤ 0x022 ∨ 0x030 ≤ n.toNat ∧ n.toNat ≤ 0x037 → g.flow.trapMode = true) →
      ∃ h : Group, exec (.swr n a) s = .next (c.done s h) ∧ h.id = g.id ∧ h.flow = g.flow ∧ h.work = g.work)

/-- R367, R368: a trap taken outside trap mode with a handler (that bit 0 of TRAPVEC reads as zero is the model's
choice: log 82): the cause, the record, the addresses and the stopped fragment are saved, and the group is in trap
mode with one trap fragment of every lane that has not exited, at TRAPVEC. R370: a trap in trap mode, or one without
a handler, halts the group for good as DOUBLE, with the record of the inner fault; neither of its banks issues
again, and the fragment that met the fault waits for nothing any more, so that it keeps no place at a rendezvous
(R176). -/
def Obligations.TrapsTaken : Prop :=
  (∀ (s : State) (age : Nat) (p : StopPoint) (x : Trap) (g : Group), Map.find? s.groups age = some g →
    g.flow.trapMode = false → g.sys.trapVec ≠ 0 →
    let t := s.takeTrap age p x
    ∃ g' f, Map.find? t.groups age = some g' ∧ g'.flow.trapMode = true ∧ g'.regs = g.regs ∧ g'.id = g.id ∧
      g'.sys = { g.sys with trapCause := .ofNat 8 x.cause.code, trapPc := p.pc, trapNpc := p.npc, trapRec := x.record,
                            trapFrag := .ofNat 64 (p.entry % 128 + p.lanes.toNat * 2 ^ 32) } ∧
      g'.flow.trapFrags = [f] ∧ f.pc = g.sys.trapVec &&& ~~~1 ∧ f.lanes = g.flow.live ∧ f.header = none ∧ f.needHeader = true ∧ f.age = 0 ∧
      f.wait = .ready ∧ g'.flow.live = g.flow.live ∧ g'.flow.ret = g.flow.ret ∧
      g'.flow.rejoinE = g.flow.rejoinE ∧ g'.flow.rejoinA = g.flow.rejoinA ∧
      (g'.flow.frags.map fun f => (f.entry, f.pc, f.lanes, f.header)) = g.flow.frags.map (fun f => (f.entry, f.pc, f.lanes, f.header)) ∧
      g'.work.traps = g.work.traps + 1 ∧ (∀ e ∈ t.issuing, e.1 ≠ age))
  ∧
  (∀ (s : State) (age : Nat) (p : StopPoint) (x : Trap) (g : Group), Map.find? s.groups age = some g →
    (g.flow.trapMode = true ∨ g.sys.trapVec = 0) →
    let t := s.takeTrap age p x
    ∃ g', Map.find? t.groups age = some g' ∧ g'.id = { g.id with halted := true, dbl := true } ∧ g'.regs = g.regs ∧
      g'.flow = (g.setBank (g.bank.map fun f =>
        if p.kept = false ∧ f.entry = p.entry ∧ f.pc = p.pc then { f with hold := .none } else f)).flow ∧
      g'.sys = { g.sys with trapCause := 0x16, trapRec := x.record } ∧
      x.record.head?.map (fun w => w.toNat % 2 ^ 8) = some x.cause.code ∧ (∀ e ∈ t.issuing, e.1 ≠ age) ∧ t.mayIssue g' = false)

/-- R364, R367, R381, R54: TRAP takes SOFTWARE with its number, BKPT outside trap mode BREAKPOINT; RTE and its forms
outside trap mode take PRIV, and in trap mode ILLEGAL where another trap fragment is left. -/
def Obligations.TrapInstructions : Prop :=
  ∀ (s : State) (c : Ctx) (n : BitVec 12) (a : BitVec 6), s.ctx? = some c →
    let traps := fun (i : Instr) (x : Trap) => exec i s = .next (s.takeTrap c.age c.stopPoint x)
    traps (.trap n) { cause := .software, aux := n.toNat } ∧
    (c.g.flow.trapMode = false → traps (.bkpt n) { cause := .breakpoint, aux := n.toNat } ∧
      ∀ i ∈ [Instr.rte, .rteSkip, .rteR a], traps i { cause := .priv, word := .ofNat 64 c.word }) ∧
    (c.g.flow.trapMode = true → c.g.flow.trapFrags.length ≠ 1 → ∀ i ∈ [Instr.rte, .rteSkip, .rteR a],
      traps i { cause := .illegal, word := .ofNat 64 c.word }) ∧
    (c.g.flow.trapMode = true → c.g.flow.trapFrags.length = 1 → (∀ p ∈ s.pend, p.age = c.age → p.trapBank = true → p.flag = none) →
      (c.g.s a).toNat % 2 = 1 → traps (.rteR a) { cause := .misalign, lane := 32, addr := c.g.s a })

/-- R371: RTE leaves trap mode with the bank empty (that bit 0 reads as zero, and what a kept fragment or one with a
pending operation does, are the model's choices: log 82); the stopped fragment is ready at TRAPPC, with RTE.skip at
TRAPNPC (under the header if it stopped at one), with RTE.r at the register's address, where a header must stand;
every other fragment is as it was. -/
def Obligations.TrapReturns : Prop :=
  ∀ (s : State) (c : Ctx) (a : BitVec 6), s.ctx? = some c → c.g.flow.trapMode = true → c.g.flow.trapFrags.length = 1 →
    (∀ p ∈ s.pend, p.age = c.age → p.trapBank = true → p.flag = none) → c.g.work.declined = [] → c.g.work.sendAbandon = [] →
    let returns := fun (i : Instr) (h : Frag → Frag) => ∃ t g', exec i s = .next t ∧ Map.find? t.groups c.age = some g' ∧
      g'.flow.trapMode = false ∧ g'.flow.trapFrags = [] ∧ g'.SameRegisters c.g ∧ g'.flow.live = c.g.flow.live ∧
      g'.flow.frags = c.g.flow.frags.map fun f => if f.entry = c.g.flow.stopped then h f else f
    let goes := fun (a : Word) (f : Frag) => match f.hold with
      | .deposits _ _ | .transfer _ | .latched | .rgrow => { f with pc := a }
      | _ => { f with pc := a, wait := .ready, hold := .none }
    let back := fun (a : Word) (f : Frag) => if c.g.flow.stopKept = some a then f else goes (a &&& ~~~1) f
    returns .rte (back c.g.sys.trapPc) ∧
    (c.g.flow.stopHeader = none →
      returns .rteSkip (back c.g.sys.trapNpc)) ∧
    (∀ h, c.g.flow.stopHeader = some h → returns .rteSkip (fun f =>
      { f with pc := c.g.sys.trapNpc &&& ~~~1, wait := .ready, hold := .none, header := some h,
               clauseStart := c.g.sys.trapNpc &&& ~~~1, needHeader := false })) ∧
    ((c.g.s a).toNat % 2 = 0 → s.notHeader c.g (c.g.s a) = false →
      returns (.rteR a) (fun f => { goes (c.g.s a) f with needHeader := true }))

/-- R365, R381, R383, R385, R386, R389: HALT, and BKPT in trap mode, halt the group after themselves; TRACE writes its
record into the ring of its launch's session, or counts it as dropped, and goes on (that nothing is written where
the session's entry does not translate is the model's choice: log 15); TSTAMP and PERF read the time and a counter.
None of a halted group is still to issue, and HALT halts the partner in a pair as well (R335). -/
def Obligations.HaltsAndMarks : Prop :=
  ∀ (s : State) (c : Ctx) (n : BitVec 12) (b a d : BitVec 6), s.ctx? = some c →
    let halts := fun (i : Instr) => ∃ t g', exec i s = .next t ∧ c.GoesOn t g' ∧ g'.regs = c.g.regs ∧ g'.sys = c.g.sys ∧
      g'.id = { c.g.id with halted := true } ∧ ∀ e ∈ t.issuing, e.1 ≠ c.age
    halts .halt ∧ (∀ t, exec .halt s = .next t → ∀ a ∈ s.pairOf c.g, ∃ h, Map.find? t.groups a = some h ∧ h.id.halted = true) ∧
    (c.g.flow.trapMode = true → halts (.bkpt n)) ∧
    (∃ t g', exec (.trace b a) s = .next t ∧ c.GoesOn t g' ∧ g'.SameRegisters c.g) ∧
    (s.dbg.trBase = 0 ∨ s.sessionOf c.g = 0 ∨ s.tensorRead (s.sessionOff (s.sessionOf c.g)) 64 = none →
      exec (.trace b a) s = .next (c.done s c.g)) ∧
    (∀ e s1, s.dbg.trBase ≠ 0 → s.sessionOf c.g ≠ 0 → s.tensorRead (s.sessionOff (s.sessionOf c.g)) 64 = some (e, s1) →
      let field := fun (byte n : Nat) => e / 2 ^ (8 * byte) % 2 ^ (8 * n)
      let ring := 2 ^ (field 8 1 % 32)
      let prod := field 24 8
      let writes := field 16 4 = 1 ∧ (prod + 2 ^ 64 - field 32 8) % 2 ^ 64 < ring - 1
      let record := valBytes 8 s.timeNs ++ valBytes 8 c.pc.toNat ++ valBytes 4 c.f.lanes.toNat ++ valBytes 2 c.g.who ++
        [BitVec.ofNat 8 (128 + (c.g.s a).toNat % 128), 0#8] ++ valBytes 8 (c.g.s b).toNat
      let cells := fun (off : Nat) (l : List Byte) => (List.range l.length).zip l |>.map fun p => ((s.tensorAddr (off + p.1)).toNat, p.2)
      let session := s.sessionOff (s.sessionOf c.g)
      let leaves := fun (l : List (Nat × Byte)) => ∃ t, exec (.trace b a) s = .next t ∧ t.mem.phys = s1.mem.phys ∧ t.cores = s1.cores ∧
        t.wgs = s.wgs ∧ ∀ k, (Map.find? t.mem.llc k).map (·.val) =
          ((l.find? fun p => p.1 == k).map (·.2)).or ((Map.find? s1.mem.llc k).map (·.val))
      (writes → leaves (cells (session + 24) (valBytes 8 (prod + 1)) ++ cells (field 0 8 + 32 * (prod % ring)) record)) ∧
      (¬ writes → leaves (cells (session + 40) (valBytes 8 (field 40 8 + 1))))) ∧
    ScalarResult s c (.tstamp d) d (.ofNat 64 (s.time8 / 8)) ∧
    ((c.g.s b).toNat < 65536 → ScalarResult s c (.perf b d) d (.ofNat 64 (s.perfCounter c.g (c.g.s b).toNat))) ∧
    (65536 ≤ (c.g.s b).toNat → exec (.perf b d) s = .next (c.stopped s c.illegal))

/-- R114, R178, R240, R311, R347: EXIT ends the lanes of the issuing fragment: they leave every rejoin mask and return
entry, and the entry is freed.  With the group's last lane the group ends: its open operations are closed into a
final batch, it has triggered, it counts as arrived at every barrier, and what waits for it at a rendezvous is
abandoned.  In trap mode EXIT is ILLEGAL. -/
def Obligations.Exits : Prop :=
  ∀ (s : State) (c : Ctx), s.ctx? = some c →
    (c.g.flow.trapMode = true → exec .exit s = .next (c.stopped s c.illegal)) ∧
    (c.g.flow.trapMode = false → c.orderingPoint s = .ok () → c.g.work.abandoned = [] → s.partners c.g = [] →
      c.g.flow.live &&& ~~~c.f.lanes ≠ 0 → ∃ t g', exec .exit s = .next t ∧ Map.find? t.groups c.age = some g' ∧
        g'.flow.live = c.g.flow.live &&& ~~~c.f.lanes ∧ (∀ f ∈ g'.flow.frags, f.entry ≠ c.entry) ∧
        (∀ j, j < 8 → g'.rejoinE j &&& c.f.lanes = 0 ∧ g'.rejoinA j &&& c.f.lanes = 0) ∧
        g'.flow.ret = c.g.flow.ret.map (fun e => { e with lanes := e.lanes &&& ~~~c.f.lanes }) ∧ g'.SameRegisters c.g ∧
        t.mem = s.mem) ∧
    (c.g.flow.trapMode = false → c.orderingPoint s = .ok () → c.g.work.abandoned = [] → s.partners c.g = [] →
      c.g.flow.live &&& ~~~c.f.lanes = 0 →
      (c.g.work.triggered = false → ∀ e, c.waitRelease s = .error e → exec .exit s = .next (c.stopped s e)) ∧
      (c.g.work.triggered = true ∨ c.waitRelease s = .ok () →
      ∃ t g', exec .exit s = .next t ∧ Map.find? t.groups c.age = some g' ∧ g'.flow.live = 0 ∧ (∀ f ∈ g'.flow.frags, f.entry ≠ c.entry) ∧
        g'.regs = c.g.regs ∧ g'.work.triggered = true ∧ g'.work.openOps = [] ∧
        g'.work.batchCount = (c.g.work.batchCount + 1) % 2 ^ 64 ∧
        (c.g.work.openOps ≠ [] → ∃ b ∈ g'.work.batches, b.ops = c.g.work.openOps) ∧
        (c.g.work.triggered = false → (t.core c.core).relEntries = [] ∧
          ∀ p ∈ (t.core c.core).l1, isNcByte p.1 p.2 = true → p.2.dirty = false) ∧
        (∀ age h, age ≠ c.age → Map.find? s.groups age = some h → ∃ h', Map.find? t.groups age = some h' ∧ h'.regs = h.regs ∧
          h'.flow.live = h.flow.live) ∧
        (∀ w, s.wgOf c.g = some w → ∃ w', Map.find? t.wgs c.g.id.wg = some w' ∧ w'.shared = w.shared ∧ w'.latches = w.latches ∧
          w'.exited = w.exited ||| laneBit c.g.id.num ∧
          (∀ bar b, Map.find? w.barriers bar = some b → b.arrived ≠ 0 →
            w.barrierMembers bar &&& ~~~(b.arrived ||| w'.exited) = 0 → (w'.barrier bar).phase = b.phase + 1) ∧
          (w.sent = false → (∀ p ∈ s.members c.g.id.wg, p.1 ≠ c.age → p.2.work.triggered = true) → w'.sent = true ∧
            (w.ten = true → (t.queue w.tq).trig = min ((s.queue w.tq).trig + 1) (2 ^ 24 - 1))) ∧
          (∀ slot x, slot < 16 → Map.find? w'.slots slot = some x →
            (∀ r, x.recv = some r → r.age ≠ c.age ∧ t.partnerGone c.g.id.wg r.num r.partner = false) ∧
            ∀ y, x.send = some y → t.partnerGone c.g.id.wg y.num y.partner = false)) ∧
        (∀ w slot x h, s.wgOf c.g = some w → slot < 16 → (Map.find? w.slots slot).bind (·.send) = some x → x.partner ≠ 32 → x.age ≠ c.age →
          s.member? c.g.id.wg x.partner = some (c.age, c.g) → Map.find? s.groups x.age = some h → h.flow.trapMode = false →
          h.sys.trapVec ≠ 0 → s.sending x.age = false →
          (∀ n y, n ≠ slot → (Map.find? w.slots n).bind (·.send) = some y → y.age ≠ x.age) →
          (∀ p ∈ s.pend, p.age = x.age → p.trapBank = false) →
          ∃ h', Map.find? t.groups x.age = some h' ∧ h'.flow.trapMode = true ∧ h'.sys.trapCause = 0x18 ∧ h'.sys.trapPc = x.pc) ∧
        (∀ w slot r p, s.wgOf c.g = some w → slot < 16 → (Map.find? w.slots slot).bind (·.recv) = some r → r.partner ≠ 32 → r.age ≠ c.age →
          s.member? c.g.id.wg r.partner = some (c.age, c.g) → (s.pend.find? fun p => p.id == r.op) = some p → p.age ≠ c.age →
          (Map.find? s.groups p.age).isSome = true → p.trapBank = false →
          (∀ n y, n ≠ slot → (Map.find? w.slots n).bind (·.recv) = some y → y.op ≠ r.op) →
          (∀ q ∈ t.pend, q.id ≠ p.id) ∧ ∃ h', Map.find? t.groups p.age = some h' ∧
            ∃ a ∈ h'.work.abandoned, a.order = p.id ∧ a.pc = p.pc ∧ a.slot = slot ∧ a.partner = r.partner)))

/-- R182 to R188, R196, R237, R253, R40, R221: LD, LDS and LDACQ whose accesses nothing stops go in flight under flag A,
counted on LD; without a flag A they are ILLEGAL.  What a lane gets: shared bytes at once, the bytes of the core's
L1 where it holds them, and how the bytes stand in the registers; when every lane has its data the load writes and
completes, and a lane whose walk fails parks the group (R200), as an access beyond PRIVHWM does (R204). Model's
choices: that LDACQ parks there too (log 124), and which lanes and address the record names (log 81). -/
def Obligations.LoadsAndTheirData : Prop :=
  (∀ (s : State) (c : Ctx) (x m : Bool) (sz : BitVec 3) (o t : BitVec 7) (b : BitVec 6),
    let accs := c.laneAccesses x o b (laneSize sz)
    let s1 := c.reached s accs
    c.MayAccess s { right := .read, window := true } true false accs → c.Fits ((t.toNat, max 1 (laneSize sz / 4)) :: runOff o) →
    c.flagA.isSome = true → c.Clean c.active (runOff o) → c.Sound s.uncount accs → c.InOrder s1 accs →
    exec (.ld x sz m o b t) s = .next (c.startLoad s1 c.flagA .ld
      { c.loadOf s1 0 0 (laneSize sz) (signedSize sz) m (c.g.vKey t.toNat) accs with staged := s1.windowData accs })) ∧
  (∀ (s : State) (c : Ctx) (imm : BitVec 13) (b d : BitVec 6),
    let accs := [({ lane := 32, addr := c.scalarAddr imm b, size := 8 } : Access)]
    let s1 := c.reached s accs
    c.MayAccess s { right := .read, window := true } true false accs → c.flagA.isSome = true → c.Sound s.uncount accs → c.InOrder s1 accs →
    exec (.lds imm b d) s = .next (c.startLoad s1 c.flagA .ld
      { c.loadOf s1 1 0 8 false false (c.g.sKey d) accs with staged := s1.windowData accs })) ∧
  (∀ (s : State) (c : Ctx) (z : Bool) (src : BitVec 3) (o t : BitVec 7) (b : BitVec 6),
    let n := if z then 8 else 4
    let accs := c.laneAccesses false o b n
    let s1 := c.reached s accs
    c.MayAccess s { right := .read, scope := src.toNat } true false accs → c.Fits ((t.toNat, n / 4) :: runOff o) →
    c.flagA.isSome = true → c.Clean c.active (runOff o) → c.Sound s.uncount accs →
    exec (.ldacq z src o b t) s = .next (c.startLoad s1 c.flagA .ld
      (c.loadOf s1 2 src.toNat n false false (c.g.vKey t.toNat) accs))) ∧
  (∀ (s : State) (c : Ctx) (x m z : Bool) (sz src : BitVec 3) (o t : BitVec 7) (b d : BitVec 6) (imm : BitVec 13),
    s.uncount.ctx? = some c → c.flagA = none →
    ∀ i ∈ [Instr.ld x sz m o b t, .lds imm b d, .ldacq z src o b t], exec i s = .next (c.stopped s.uncount c.illegal)) ∧
  (∀ (s : State) (c : Ctx) (x m z : Bool) (sz src : BitVec 3) (o t : BitVec 7) (b d : BitVec 6) (imm : BitVec 13),
    let parks := fun (i : Instr) (r : AccessRule) (accs : List Access) => c.MayAccess s { r with limit := false } true false accs →
      c.Sound s.uncount accs → ∀ a more, accs.filter c.beyondHwm = a :: more →
      exec i s = .next (c.parkState (c.reached s accs) 2 4 (maskOf ((a :: more).map (·.lane))) a.addr)
    c.flagA.isSome = true →
    (c.Fits ((t.toNat, max 1 (laneSize sz / 4)) :: runOff o) → c.Clean c.active (runOff o) →
      parks (.ld x sz m o b t) { right := .read, window := true } (c.laneAccesses x o b (laneSize sz))) ∧
    parks (.lds imm b d) { right := .read, window := true } [{ lane := 32, addr := c.scalarAddr imm b, size := 8 }] ∧
    (c.Fits ((t.toNat, (if z then 8 else 4) / 4) :: runOff o) → c.Clean c.active (runOff o) →
      parks (.ldacq z src o b t) { right := .read, scope := src.toNat } (c.laneAccesses false o b (if z then 8 else 4)))) ∧
  (∀ (s : State) (c : Ctx) (lanes : Lane) (a : Word), s.ctx? = some c →
    let t := c.parkState s 2 4 lanes a
    let k : Park := { token := s.tokens, age := c.age, kind := 2, detail := 4, pc := c.pc, addr := a, lanes := lanes,
                      what := .instruction c.entry c.len }
    t.tokens = (s.tokens + 1) % 2 ^ 32 ∧ (∀ e ∈ t.issuing, e.1 ≠ c.age) ∧
    (s.fqLog ≠ 0 → t.parks = s.parks ++ [k] ∧ (∀ g, t.mayIssue g = true → g.id.age ≠ c.age) ∧
      ∃ g, Map.find? t.groups c.age = some g ∧ g.SameRegisters c.g ∧ g.flow = c.g.flow) ∧
    (s.fqLog = 0 → s.parked c.age = false → s.sending c.age = false → c.g.work.declined = [] → c.g.flow.trapMode = false → c.g.sys.trapVec ≠ 0 →
      t.parks = s.parks ∧ ∃ g, Map.find? t.groups c.age = some g ∧ g.flow.trapMode = true ∧ g.sys.trapCause = 0x13 ∧ g.sys.trapPc = c.pc ∧
        g.sys.trapRec.getD 1 0 = a)) ∧
  (∀ (s : State) (c : Ctx) (flag : Option Nat) (path : Path) (l : Load),
    ∃ p, c.startLoad s flag path l = { (c.finish s id).startOp c.age path s.nextOp with nextOp := s.nextOp + 1, pend := s.pend ++ [p] } ∧
      p.id = s.nextOp ∧ p.age = c.age ∧ p.flag = flag ∧ p.path = some path ∧ p.pc = c.pc ∧ p.kind = .load l) ∧
  (∀ (s : State) (g : Group) (w : Workgroup) (id : Nat) (l : Load) (lane : Nat) (a : Word),
    a.toNat / 2 ^ 61 = 6 → s.wgOf g = some w → l.kind < 3 → (∀ p ∈ s.pend, p.age = g.id.age → id ≤ p.id) →
    s.serveLane g id l lane a = .data (w.sharedBytes (a.toNat % 2 ^ 20) l.size) 0 s) ∧
  (∀ (s : State) (g : Group) (id : Nat) (l : Load) (lane : Nat) (a : Word),
    a.toNat / 2 ^ 61 = 0 → l.kind < 3 → s.landing = [] → (∀ p ∈ s.pend, p.age = g.id.age → id ≤ p.id) →
    s.l1Hit g.id.core a.toNat l = true →
    s.serveLane g id l lane a = .data ((keyRun a.toNat l.size).map fun k =>
      ((Map.find? (s.core g.id.core).l1 k).map (·.val)).getD 0) 0 s) ∧
  (∀ (l : Load) (lane : Nat) (p q u v p' q' u' v' : Byte),
    let cells := fun (n : Nat) (bytes : List Byte) => Load.cells { l with size := n, staged := [(lane, bytes)] }
    let k := 32 * l.reg + lane
    cells 1 [p] = [(k, if l.signed then p.signExtend 32 else p.setWidth 32)] ∧
    cells 2 [p, q] = [(k, if l.signed then (q ++ p : BitVec 16).signExtend 32 else (q ++ p : BitVec 16).setWidth 32)] ∧
    cells 4 [p, q, u, v] = [(k, v ++ u ++ q ++ p)] ∧
    (l.signed = false → cells 8 [p, q, u, v, p', q', u', v'] = [(k, v ++ u ++ q ++ p), (k + 32, v' ++ u' ++ q' ++ p')])) ∧
  (∀ (s s1 : State) (op : Nat) (p : Pend) (l l1 : Load),
    s.pend.find? (fun q => q.id == op) = some p → p.kind = .load l → s.serveLanes p l (fun _ => true) = (l1, s1) →
    (∀ a ∈ l1.addrs, l1.waits a.1 = false) →
    let leaves := fun (vw : List (Nat × Lane)) (sw : List (Nat × Word)) (fp : Flags) =>
      exec (.loadDataArrive op) s = .next (((s1.writeBack p vw sw fp).unpark p.id).deliverDeclined p.age)
    (l1.kind = 0 → leaves l1.cells [] l1.fp) ∧
    (l1.kind = 1 → leaves [] (l1.staged.map fun q => (l1.reg, .ofNat 64 (bytesVal q.2))) 0) ∧
    ∀ vw sw fp, p ∉ (s1.writeBack p vw sw fp).pend) ∧
  (∀ (s : State) (op : Nat) (p : Pend) (l : Load) (g : Group) (f : Nat × Nat) (fs : List (Nat × Nat)),
    s.pend.find? (fun q => q.id == op) = some p → p.kind = .load l → Map.find? s.groups p.age = some g →
    (s.failing g p l).filter (fun e => e.2 != 5) = f :: fs → s.fqLog ≠ 0 →
    ∃ t, exec (.loadFaultPark op) s = .next t ∧ t.parked p.age = true ∧
      ∃ k ∈ t.parks, k.token = s.tokens ∧ k.age = p.age ∧ k.kind = 1 ∧ k.detail = f.2 ∧ k.pc = p.pc ∧ k.what = .load op)

/-- R182 to R188, R194, R205, R206, R208, R223, R229, R237: ST, STS and STREL whose accesses nothing stops, and what a
lane's landing does: a non-coherent byte goes to the core's L1, dirty; a coherent one to the LLC; shared memory is
written at once.  Every byte outside the store reads as before. Model's choices: that the mark of a store to control
space has no effect at the control cache (log 90; R229 says only that the recall comes before the home applies the
store), and that STREL parks beyond PRIVHWM (log 124). -/
def Obligations.Stores : Prop :=
  (∀ (s : State) (c : Ctx) (x m : Bool) (sz : BitVec 3) (o t : BitVec 7) (b : BitVec 6),
    let accs := c.laneAccesses x o b (laneSize sz)
    let s1 := c.reached s accs
    let runs := (t.toNat, max 1 (laneSize sz / 4)) :: runOff o
    let ls := c.storeData accs t.toNat (laneSize sz)
    let mark := if accs.any fun a => decide (a.addr.toNat / 2 ^ 61 = 0 ∨ a.addr.toNat / 2 ^ 61 = 2) then c.g.work.markEntry else none
    c.MayAccess s { right := .write, window := true } false true accs → c.Fits runs → c.Clean c.active runs → c.InOrder s1 accs →
    c.SharedInOrder s1 accs → StoreResult s s1 s1 c (.st x sz m o b t) (c.landingOf s1 0 sz.toNat m mark (belowShared ls)) ls id) ∧
  (∀ (s : State) (c : Ctx) (imm : BitVec 13) (b t : BitVec 6),
    let a := c.scalarAddr imm b
    let accs := [({ lane := 32, addr := a, size := 8 } : Access)]
    let s1 := c.reached s accs
    let ls := [(32, a, valBytes 8 (c.g.s t).toNat)]
    let mark := if a.toNat / 2 ^ 61 = 0 ∨ a.toNat / 2 ^ 61 = 2 then c.g.work.markEntry else none
    c.MayAccess s { right := .write, window := true } false true accs → c.InOrder s1 accs → c.SharedInOrder s1 accs →
    StoreResult s s1 s1 c (.sts imm b t) (c.landingOf s1 1 5 false mark (belowShared ls)) ls id) ∧
  (∀ (s : State) (c : Ctx) (z : Bool) (src : BitVec 3) (o t : BitVec 7) (b : BitVec 6),
    let n := if z then 8 else 4
    let accs := c.laneAccesses false o b n
    let s1 := c.reached s accs
    let runs := (t.toNat, n / 4) :: runOff o
    let ls := c.storeData accs t.toNat n
    let (e, s2) := s1.recordEntry c.core
    let clear := fun (g : Group) => { g with work := { g.work with markEntry := none } }
    let sz := if z then 5 else 4
    c.MayAccess s { right := .write, scope := src.toNat } false true accs → c.Fits runs → c.Clean c.active runs → c.Released s1 →
    (src.toNat < 4 → c.InOrder s1 accs → c.SharedInOrder s1 accs →
      StoreResult s s1 s1 c (.strel z src o b t) (c.landingOf s1 2 sz false none (belowShared ls)) ls clear) ∧
    (4 ≤ src.toNat → c.InOrder s2 accs → c.SharedInOrder s2 accs →
      StoreResult s s1 s2 c (.strel z src o b t) (c.landingOf s2 2 sz false (some e) (belowShared ls)) ls clear)) ∧
  (∀ (s : State) (c : Ctx) (x m z : Bool) (sz src : BitVec 3) (o t : BitVec 7) (b d : BitVec 6) (imm : BitVec 13),
    let parks := fun (i : Instr) (r : AccessRule) (accs : List Access) => c.MayAccess s { r with limit := false } false true accs →
      ∀ a more, accs.filter c.beyondHwm = a :: more →
      exec i s = .next (c.parkState (c.reached s accs) 2 4 (maskOf ((a :: more).map (·.lane))) a.addr)
    let runs := fun (n : Nat) => (t.toNat, n) :: runOff o
    (c.Fits (runs (max 1 (laneSize sz / 4))) → c.Clean c.active (runs (max 1 (laneSize sz / 4))) →
      parks (.st x sz m o b t) { right := .write, window := true } (c.laneAccesses x o b (laneSize sz))) ∧
    parks (.sts imm b d) { right := .write, window := true } [{ lane := 32, addr := c.scalarAddr imm b, size := 8 }] ∧
    (c.Fits (runs ((if z then 8 else 4) / 4)) → c.Clean c.active (runs ((if z then 8 else 4) / 4)) →
      parks (.strel z src o b t) { right := .write, scope := src.toNat } (c.laneAccesses false o b (if z then 8 else 4)))) ∧
  (∀ (s : State) (r : Landing) (l : LaneStore) (data : List Byte),
    l.bytes = data.map some → data ≠ [] →
    let t := s.applyLane r l
    let k := r.key l
    let stamp := fun i => match Map.find? (s.core r.core).l1 i with
      | some b => if b.dirty then b.stamp else s.wstamp
      | none => s.wstamp
    (keySpace k ≠ .control → s.landsAtLlc r l = false → t.mem.phys = s.mem.phys ∧ t.mem.llc = s.mem.llc ∧
      (∀ n, n ≠ r.core → t.core n = s.core n) ∧ ∀ i, Map.find? (t.core r.core).l1 i =
        if k ≤ i ∧ i < k + data.length then some { val := data.getD (i - k) 0, dirty := true, nc := l.nc, stamp := stamp i }
        else Map.find? (s.core r.core).l1 i) ∧
    (keySpace k ≠ .control → s.landsAtLlc r l = true → t.mem.phys = s.mem.phys ∧ (∀ n, n ≠ r.core → t.core n = s.core n) ∧
      (∀ i, Map.find? t.mem.llc i = if k ≤ i ∧ i < k + data.length then some { val := data.getD (i - k) 0, dirty := true }
        else Map.find? s.mem.llc i) ∧
      (∀ n, n ≠ lineOf k ∨ r.markOf l = none → Map.find? t.mem.marks n = Map.find? s.mem.marks n) ∧
      (∀ e, r.markOf l = some e →
        let used := (s.core r.core).relEntries
        Map.find? t.mem.marks (lineOf k) = some (r.core, e) ∨
          ∃ later, Map.find? t.mem.marks (lineOf k) = some (r.core, later) ∧ Map.find? s.mem.marks (lineOf k) = some (r.core, later) ∧
            (relStamp? used later).isSome = true ∧ (relStamp? used e = none ∨ ∃ p ∈ relAfter used e, p.1 = later))) ∧
    (keySpace k = .control → r.markOf l = none → t.mem.phys = s.mem.phys ∧ t.cores = s.cores ∧
      ∀ i, Map.find? t.mem.llc i = if k ≤ i ∧ i < k + data.length then some { val := data.getD (i - k) 0, dirty := true }
        else Map.find? s.mem.llc i)) ∧
  (∀ (s : State) (w : Workgroup) (n off : Nat) (l : List Byte), Map.find? s.wgs n = some w →
    let t := s.sharedWrite n off l
    t.mem.phys = s.mem.phys ∧ t.mem.llc = s.mem.llc ∧ t.cores = s.cores ∧ (∀ m, m ≠ n → Map.find? t.wgs m = Map.find? s.wgs m) ∧
    ∃ w', Map.find? t.wgs n = some w' ∧ w' = { w with shared := w'.shared } ∧
      ∀ i, Map.get 0 w'.shared i = if off ≤ i ∧ i < off + l.length then l.getD (i - off) 0 else Map.get 0 w.shared i)

/-- R195, R207, R210 to R213, R229, R230, R427: prefetch and cache maintenance, the replay of faulted landing records by
LANDR, the answer of a landing probe, and the recall of release entries. -/
def Obligations.LinesAndLandings : Prop :=
  (∀ (s : State) (c : Ctx) (l x : Bool) (o : BitVec 7) (b : BitVec 6),
    let accs := c.laneAccesses x o b 1
    let s1 := c.reached s accs
    let keep := accs.filter fun a =>
      decide (a.addr.toNat / 2 ^ 61 < 6) && !c.beyondHwm a && (!a.hasRights || (s1.rights c.core c.ctx a.addr).1.rd)
    let lines := (keep.map fun a => (lineOf (vkey c.ctx a.addr), c.isNc s1 a.addr)).eraseDups
    c.MayAccess s { right := .none, align := false, window := true, limit := false } false false accs → c.Fits (runOff o) →
    c.Clean c.active (runOff o) →
    ((∀ p ∈ lines, s1.wherryOwns s1.nextOp p.1 = false) →
      exec (.pref l x o b) s = .next (c.finish (lines.foldl (fun t p => t.prefetch c.core (!l) p.2 p.1) s1) id)) ∧
    (∀ p, (lines.find? fun p => s1.wherryOwns s1.nextOp p.1) = some p →
      exec (.pref l x o b) s = .next (c.stopped s1 (.hold (.busyLine (p.1 * 128) s1.nextOp))))) ∧
  (∀ (s : State) (core line : Nat) (l1 nc : Bool),
    let t := s.prefetch core l1 nc line
    t.mem.phys = s.mem.phys ∧ t.wgs = s.wgs ∧ ∀ n, (t.core n).counters = (s.core n).counters ∨ s.markHolds core line = true) ∧
  (∀ (s : State) (c : Ctx) (l x inv : Bool) (o : BitVec 7) (b : BitVec 6),
    let accs := c.laneAccesses x o b 1
    let s1 := c.reached s accs
    let mine := accs.filter fun a => decide (a.addr.toNat / 2 ^ 61 = 0) || decide (a.addr.toNat / 2 ^ 61 = 4)
    let lines := (mine.map fun a => lineOf (vkey c.ctx a.addr)).eraseDups
    let records := (lines.flatMap (s1.pinning c.core)).eraseDups
    let i := if inv then Instr.cinv l x o b else .cflush l x o b
    c.MayAccess s { right := .read, align := false, window := true } false false accs → c.Fits (runOff o) → c.Clean c.active (runOff o) →
    (records = [] → exec i s = .next (c.finish (s1.flushLines c.core inv l lines) id)) ∧
    (records ≠ [] → exec i s = .next (c.launch (c.finish s1 id) none (some .st) (.flush inv l lines records)))) ∧
  (∀ (s : State) (c : Ctx) (l x : Bool) (o : BitVec 7) (b : BitVec 6),
    let accs := c.laneAccesses x o b 1
    c.MayAccess s { right := .read, align := false, window := true, limit := false } false false accs → c.Fits (runOff o) →
    c.Clean c.active (runOff o) → ∀ a more, accs.filter c.beyondHwm = a :: more → ∀ i ∈ [Instr.cflush l x o b, .cinv l x o b],
      exec i s = .next (c.parkState (c.reached s accs) 2 4 (maskOf ((a :: more).map (·.lane))) a.addr)) ∧
  (∀ (s : State) (core line : Nat) (inv llc : Bool),
    let t := s.flushLine core inv llc line
    (s.pinnedByFault core line = true → t = s) ∧ (s.pinnedByFault core line = false → ((t.core core).dirty fun k _ => lineOf k == line) = [] ∧ (inv = true → ∀ p ∈ (t.core core).l1, lineOf p.1 ≠ line))) ∧
  (∀ (s : State) (c : Ctx) (d : BitVec 6), s.ctx? = some c →
    let bad := s.landing.filter fun r => r.age == c.age && r.isFaulted
    (c.g.flow.trapMode = false → exec (.landr d) s = .next (c.stopped s c.priv)) ∧
    (c.g.flow.trapMode = true → (∀ r ∈ bad, ∀ l ∈ r.lanes, l.faulted = true → s.underShootdown (r.key l) = false) →
      let s1 := (bad.foldl (fun t r => t.replayRecord c.core r.id) s).settleRecords
      exec (.landr d) s = .next (c.finish s1 fun g =>
        g.setS d (.ofNat 64 (s1.landing.filter fun r => r.age == c.age && r.isFaulted).length))) ∧
    (c.g.flow.trapMode = true → s.landing = [] → (∀ p ∈ s.pend, ∀ a b m n, p.kind ≠ .flush a b m n) →
      ScalarResult s c (.landr d) d 0)) ∧
  (∀ (s : State) (core ctx : Nat) (page : BitVec 64),
    let pg := pageOf (vkey ctx page)
    let answer := exec (.landingProbeAnswer core ctx page) s
    (s.probing core pg = false → answer = .next s) ∧
    (∀ k s1, s.probing core pg = true → s.translate (s.probeKey core pg) = .ok (k, s1) → answer = .next (s1.probeGood core pg).settleRecords) ∧
    (∀ d, s.probing core pg = true → s.translate (s.probeKey core pg) = .error d →
      answer = .next (s.probeBad core pg d).settleFlushes ∧ (s.probeBad core pg d).probing core pg = false)) ∧
  (∀ (s : State) (core entry stamp : Nat), relStamp? (s.core core).relEntries entry = some stamp →
    (∃ p ∈ s.mem.marks, p.2 = (core, entry)) →
    ∃ t, exec (.releaseRecall core entry) s = .next t ∧ (t.core core).relEntries = relAfter (s.core core).relEntries entry ∧
      t.mem.phys = s.mem.phys ∧ ∀ p ∈ (t.core core).l1, isNcByte p.1 p.2 = true → p.2.dirty = true → stamp ≤ p.2.stamp) ∧
  (∀ (s : State) (core entry : Nat), relStamp? (s.core core).relEntries entry = none → (∃ p ∈ s.mem.marks, p.2 = (core, entry)) →
    ∃ t, exec (.recallAnswer core entry) s = .next t ∧ t.mem.marks = s.mem.marks.filter (fun p => p.2 != (core, entry)) ∧
      t.mem.phys = s.mem.phys ∧ t.mem.llc = s.mem.llc ∧ (t.core core).l1 = (s.core core).l1) ∧
  (∀ (s s1 : State) (ctx pk : Nat) (line : BitVec 64) (d : Nat × Byte) (ds : List (Nat × Byte)),
    let n := lineOf (vkey ctx line)
    s.mem.dirtyOf n = d :: ds → s.translate (n * 128) = .ok (pk, s1) →
    ∃ t, exec (.llcHbmWriteback ctx line) s = .next t ∧ t.mem.dirtyOf n = [] ∧
      t.mem.phys = (d :: ds).foldl (fun p e => Map.set 0 p (pk + e.1 % 128) e.2) s.mem.phys) ∧
  (∀ (s : State) (ctx e : Nat) (line : BitVec 64),
    let n := lineOf (vkey ctx line)
    s.mem.dirtyOf n = [] ∨ s.translate (n * 128) = .error e → exec (.llcHbmWriteback ctx line) s = .next s)

/-- R192, R199, R201, R202, R204, R214 to R218, R427: UNMAPV, the steps of a shootdown, SDCTL, the walks, the fault
queue's registers and the driver's responses. That PRIVHWM stays where PHWM cannot be read is the model's choice
(log 123). -/
def Obligations.ShootdownsAndFaultReports : Prop :=
  (∀ (s : State) (c : Ctx) (b a : BitVec 6) (mode : Nat) (i : Instr), s.ctx? = some c →
    (i, mode) ∈ [(.unmapv b a, 0), (.unmapvDiscard b a, 1), (.unmapvRights b a, 2)] →
    let base := c.g.s a
    let len := (c.g.s b).toNat
    (c.g.flow.trapMode = false → exec i s = .next (c.stopped s c.priv)) ∧
    (c.g.flow.trapMode = true → ∀ n, c.f.hold = .shootdown n → exec i s = .next (c.finish s id)) ∧
    (c.g.flow.trapMode = true → (∀ n, c.f.hold ≠ .shootdown n) →
      (s.rangeBad base len = true → exec i s = .next (c.stopped s (addrTrap .space 32 base))) ∧
      (s.rangeBad base len = false → s.isRemote base = true → exec i s = .next (c.stopped s (addrTrap .remoteDirect 32 base))) ∧
      (s.rangeBad base len = false → s.isRemote base = false →
        (rangeMisaligned base len = true → exec i s = .next (c.stopped s (addrTrap .misalign 32 base))) ∧
        (rangeMisaligned base len = false → (len = 0 → exec i s = .next (c.finish s id)) ∧
          (len ≠ 0 → s.shootdownRoom = true → exec i s = .next (c.heldState (s.queueShootdown base len mode c.ctx false none)
            (.shootdown s.nextOp))) ∧
          (len ≠ 0 → s.shootdownRoom = false → exec i s = .next (c.stopped s (.hold .shootdownRoom))))))) ∧
  (∀ (s : State) (d : Shootdown), s.shootdownNext = some d →
    ∃ t, exec .shootdownStart s = .next t ∧ t.mem = s.mem ∧
      ∀ core, ∀ e ∈ (t.core core).perms, d.meets (vkey e.ctx (.ofNat 64 (e.page * 65536))) 65536 = false) ∧
  (∀ (s : State) (d : Shootdown), s.shootdownDrained = some d →
    ∃ t, exec .shootdownDrainDone s = .next t ∧ (∀ p ∈ t.mem.llc, d.covers p.1 = false) ∧
      ∀ unit page, pageOf d.lo ≤ page → page < pageOf d.lo + d.len / 65536 → findPage (t.mem.unit unit) page = none) ∧
  (∀ (s : State) (src mode : Nat) (base len : BitVec 64),
    ∃ t d, exec (.shootdownMgtRequest src base len mode) s = .next t ∧ t.shootdowns = s.shootdowns ++ [d] ∧ d.base = base ∧
      d.len = len.toNat ∧ d.mode = mode ∧ d.remote = some src ∧ d.started = false) ∧
  (∀ (s : State) (pkg : Nat), ∃ t, exec (.shootdownPackageAnswer pkg) s = .next t ∧ ∀ d ∈ t.shootdowns, pkg ∉ d.waiting) ∧
  (∀ (s : State) (v : BitVec 64),
    let w := s.win
    let len := w.sdLen.toNat
    let ctx := v.toNat / 2 ^ 20 % 4096
    let mode := v.toNat / 4 % 4
    let s1 := { s with win := { w with sdCtx := ctx, sdMode := mode, sdOvr := w.sdOvr && !v.getLsbD 6, sdErr := w.sdErr && !v.getLsbD 5 } }
    let bad := mode = 3 ∨ s.rangeBad w.sdBase len = true ∨ s.isRemote w.sdBase = true ∨ rangeMisaligned w.sdBase len = true
    (s.sdBusy = true → exec (.sdctlGo v) s = .next { s with win := { w with sdOvr := true } }) ∧
    (s.sdBusy = false → bad → exec (.sdctlGo v) s = .next { s1 with win := { s1.win with sdErr := true } }) ∧
    (s.sdBusy = false → ¬ bad → len = 0 → exec (.sdctlGo v) s = .next s1) ∧
    (s.sdBusy = false → ¬ bad → len ≠ 0 →
      exec (.sdctlGo v) s = .next (if s.shootdownRoom then s1.queueShootdown w.sdBase len mode ctx true none
        else { s1 with win := { s1.win with sdWait := some (w.sdBase, len, mode, ctx) } }))) ∧
  (∀ (s : State) (core ctx : Nat) (addr : BitVec 64),
    addr.toNat / 2 ^ 61 = 0 ∨ addr.toNat / 2 ^ 61 = 2 → s.underShootdown addr.toNat = false →
    (s.core core).perm? ctx (pageOf addr.toNat) = none → s.walkRights ctx addr ≠ noRights →
    ∃ t, exec (.rightsWalkComplete core ctx addr) s = .next t ∧ t.mem.phys = s.mem.phys ∧ t.groups = s.groups ∧
      (t.core core).perm? ctx (pageOf addr.toNat) = some (s.walkRights ctx addr)) ∧
  (∀ (s s1 : State) (ctx k : Nat) (addr : BitVec 64), space? addr = some .tensor ∨ space? addr = some .control ∨ space? addr = some .priv →
    s.isRemote addr = false → s.underShootdown (vkey ctx addr) = false → s.translate (vkey ctx addr) = .ok (k, s1) →
    exec (.translationWalk ctx addr) s = .next s1) ∧
  (∀ (s t' : State) (r : FaultRec), s.faultWait = [r] → s.fqWrite? r.words = some t' →
    exec .faultRecordRetry s = .next { t' with faultWait := [] }) ∧
  (∀ (s : State) (v : BitVec 64), ∃ t1 t2 t3, exec (.faultQueueRegWrite 0x010 v) s = .next t1 ∧ t1.win.fqBase = v ∧
    exec (.faultQueueRegWrite 0x018 v) s = .next t2 ∧ t2.win.fqSize = v &&& 0x1F ∧
    exec (.faultQueueRegWrite 0x028 v) s = .next t3 ∧ t3.win.fqCons = v) ∧
  (∀ (s : State) (token : Nat) (p : Park), s.parkOf token = some p →
    (∀ op q l, p.what = .load op → (s.pend.find? fun q => q.id == op) = some q → q.kind = .load l →
      exec (.faultrespResume token) s = .next ((s.onPark token fun r => { r with what := .resent op }).settleLoad q { l with parked := 0 }) ∧
      exec (.faultrespDecline token) s = .next (s.declineLoad q token p.declineTrap)) ∧
    (∀ entry len, p.what = .instruction entry len → p.kind ≠ 2 →
      exec (.faultrespResume token) s = .next ((s.dropPark token).deliverDeclined p.age)) ∧
    (∀ entry len, p.what = .instruction entry len → p.kind = 2 →
      exec (.faultrespResume token) s = .next (((s.dropPark token).raiseHwm p.age).deliverDeclined p.age)) ∧
    (∀ entry len g, p.what = .instruction entry len → Map.find? s.groups p.age = some g →
      exec (.faultrespDecline token) s = .next ((s.dropPark token).decline p.age token p.declineTrap entry len g.flow.trapMode)) ∧
    (∀ cmd w, p.what = .engine cmd → (s.wherry.find? fun w => w.id == cmd) = some w →
      exec (.faultrespResume token) s = .next ((s.dropPark token).putWherry { w with state := .running }) ∧
      exec (.faultrespDecline token) s = .next ((s.dropPark token).failWherry w p.detail p.addr))) ∧
  (∀ (s : State) (age : Nat) (g : Group), Map.find? s.groups age = some g →
    let old := g.sys.privHwm.toNat
    (∀ h, s.contextWord g.id.ctx 16 = some h → h < 2 ^ 64 → ∃ g', Map.find? (s.raiseHwm age).groups age = some g' ∧
      g' = { g with sys := g'.sys } ∧ g'.sys = { g.sys with privHwm := g'.sys.privHwm } ∧ g'.sys.privHwm.toNat = max old h) ∧
    (s.contextWord g.id.ctx 16 = none → s.raiseHwm age = s) ∧ (s.raiseHwm age).mem = s.mem ∧ (s.raiseHwm age).parks = s.parks)

/-- R229, R231 to R233, R235, R238, R247: the fences, TCFENCE and WAITC, when they go on and when they are held. That
FENCE.acq waits for the earlier loads is the model's choice (log 64: R231 and R233 do not say it), as is that a
counter stays at 1,023 (log 107). -/
def Obligations.FencesAndCounterWaits : Prop :=
  (∀ (s : State) (c : Ctx) (src : BitVec 3), s.ctx? = some c → c.Orderly s →
    let clear := fun (g : Group) => { g with work := { g.work with markEntry := none } }
    (s.loadsBefore c.age (c.opLimit s) = false → exec (.fenceAcq src) s = .next (c.finish (s.acquire c.core src.toNat) id)) ∧
    (s.loadsBefore c.age (c.opLimit s) = true → exec (.fenceAcq src) s = .next (c.stopped s (.hold (.loads (c.opLimit s))))) ∧
    exec .tcfence s = .next (c.finish (s.flushNc c.core) fun g => clear { g with work := { g.work with tcFence := s.nextOp } })) ∧
  (∀ (s : State) (c : Ctx) (src : BitVec 3), s.ctx? = some c → c.Orderly s → s.accessesBefore c.g c.age (c.opLimit s) = true →
    ∀ i ∈ [Instr.fenceRel src, .fenceFull src], exec i s = .next (c.stopped s (.hold (.release (c.opLimit s))))) ∧
  (∀ (s : State) (c : Ctx) (src : BitVec 3), s.ctx? = some c → c.Released s →
    let clear := fun (g : Group) => { g with work := { g.work with markEntry := none } }
    (src.toNat < 4 → exec (.fenceRel src) s = .next (c.finish s clear) ∧
      exec (.fenceFull src) s = .next (c.finish (s.acquire c.core src.toNat) clear)) ∧
    (4 ≤ src.toNat → exec (.fenceRel src) s = .next (c.finish (s.recordEntry c.core).2 fun g =>
        { g with work := { g.work with markEntry := some (s.recordEntry c.core).1 } }) ∧
      (src.toNat < 5 ∨ s.homeStores c.age = false →
        exec (.fenceFull src) s = .next (c.finish ((s.eagerRelease c.core c.age).acquire c.core src.toNat) clear)) ∧
      (5 ≤ src.toNat → s.homeStores c.age = true →
        exec (.fenceFull src) s = .next (c.stopped s (.hold (.release (c.opLimit s))))))) ∧
  (∀ (s : State) (core scope : Nat),
    let t := s.acquire core scope
    t.mem.phys = s.mem.phys ∧ t.mem.llc = s.mem.llc ∧ t.groups = s.groups ∧
    (4 ≤ scope → ∀ p ∈ (t.core core).l1, keySpace p.1 = .tensor → p.2.nc = true ∧ p.2.dirty = true) ∧
    (scope = 3 → ∀ p ∈ (t.core core).l1, keySpace p.1 = .tensor → p.2.nc = true) ∧ (scope < 3 → t = s)) ∧
  (∀ (s : State) (core age : Nat) (g : Group), Map.find? s.groups age = some g →
    let t := s.eagerRelease core age
    t.mem.phys = s.mem.phys ∧ (t.core core).relEntries = [] ∧
    (∀ p ∈ (t.core core).l1, isNcByte p.1 p.2 = true → p.2.dirty = false) ∧
    ∃ g', Map.find? t.groups age = some g' ∧ g'.work.markEntry = none ∧ g'.SameRegisters g) ∧
  (∀ (s : State) (c : Ctx) (b : BitVec 6) (i : Instr) (path : Path), s.ctx? = some c →
    (i, path) ∈ [(.waitcLd b, .ld), (.waitcSt b, .st), (.waitcWh b, .wh), (.waitcAn b, .an), (.waitcRa b, .ra), (.waitcFe b, .fe)] →
    (path = .st → c.Orderly s) →
    let passed := fun (inTrap : Bool) => c.g.flow.trapMode = true ∧ inTrap = false
    (path = .ra → ∀ r ∈ c.g.work.failedRemote, passed r.inTrap) →
    (path ∈ [.wh, .fe] → ∀ r ∈ c.g.work.failedEngine, r.ferry = (path == .fe) → passed r.inTrap) →
    let limit := match c.f.hold with
      | .counter _ n => n
      | _ => (c.g.s b).toNat
    (1023 ≤ limit ∨ c.g.work.counter path ≤ limit → exec i s = .next (c.finish s id)) ∧
    (limit < 1023 → limit < c.g.work.counter path → exec i s = .next (c.stopped s (.hold (.counter path limit)))))

/-- R222, R239 to R246, R350: the barriers of a workgroup and its cohorts, barrier objects in memory, and the watch of
MON and MWAIT. Model's choices: a fragment of which some lanes are counted already and some are not goes on (log
126), and a watch is lost where the schedule takes that step, and by no eviction of itself (log 125). -/
def Obligations.BarriersObjectsAndWatches : Prop :=
  (∀ (s : State) (c : Ctx) (src : BitVec 6) (w : Workgroup) (bar : Nat), s.ctx? = some c → s.wgOf c.g = some w → c.barrierOf w src = .ok bar →
    let b := w.barrier bar
    let counted := Map.get 0 b.lanes c.g.id.num
    (c.Released s → s.partners c.g = [] →
      (c.f.lanes &&& ~~~counted ≠ 0 →
        let s1 := (s.onWg w.id fun w => w.arrive bar c.g.id.num c.f.lanes c.g.flow.live).onGroup c.age fun g =>
          { g with work := { g.work with markEntry := none } }
        exec (.bara src) s = .next (c.finish s1 id) ∧ exec (.bar src) s = .next (c.awaitPhase s1 bar b.phase)) ∧
      (c.f.lanes &&& ~~~counted = 0 → ∀ i ∈ [Instr.bar src, .bara src],
        exec i s = .next (c.stopped s (.hold (.barrierAgain bar b.phase))))) ∧
    (s.partners c.g = [] → Map.get 0 b.last c.g.id.num = 0 → exec (.barw src) s = .next (c.finish s id)) ∧
    (s.partners c.g = [] → ∀ p, Map.get 0 b.last c.g.id.num = p + 1 → exec (.barw src) s = .next (c.awaitPhase s bar p))) ∧
  (∀ (s : State) (c : Ctx) (src : BitVec 6) (w : Workgroup), s.ctx? = some c → s.wgOf c.g = some w → src ≠ 32#6 →
    16 ≤ src.toNat ∨ cohortDefined (w.cohort src.toNat) = false ∨ hasGroup (cohortMembers (w.cohort src.toNat)) c.g.id.num = false →
    ∀ i ∈ [Instr.bar src, .bara src, .barw src], exec i s = .next (c.stopped s c.illegal)) ∧
  (∀ (w : Workgroup) (bar num : Nat) (lanes live : Lane),
    let b := w.barrier bar
    let counted := Map.get 0 b.lanes num ||| lanes
    let arrived := b.arrived ||| laneBit num
    let t := (w.arrive bar num lanes live).barrier bar
    (live &&& ~~~counted ≠ 0 → t.phase = b.phase ∧ t.arrived = b.arrived ∧ Map.get 0 t.lanes num = counted) ∧
    (live &&& ~~~counted = 0 → arrived ≠ 0 → w.barrierMembers bar &&& ~~~(arrived ||| w.exited) = 0 →
      t.phase = b.phase + 1 ∧ t.arrived = 0 ∧ t.lanes = [] ∧ Map.get 0 t.last num = b.phase + 1) ∧
    (live &&& ~~~counted = 0 → w.barrierMembers bar &&& ~~~(arrived ||| w.exited) ≠ 0 →
      t.phase = b.phase ∧ t.arrived = arrived ∧ Map.get 0 t.last num = b.phase + 1)) ∧
  (∀ (s : State) (c : Ctx) (a b : BitVec 6),
    let n := (c.g.s b).toNat
    let accs := [({ lane := 32, addr := c.g.s a, size := 8 } : Access)]
    c.MayAccess s { right := .atomic, priv := false } false false accs → c.Sound s.uncount accs →
    (∀ x u k asked o, c.f.hold ≠ .objectOp x u k asked o) →
    (4096 ≤ n → exec (.mbinit b a) s = .next (c.stopped (c.reached s accs) c.illegal)) ∧
    (2 ^ 27 ≤ n → exec (.mbexp b a) s = .next (c.stopped (c.reached s accs) c.illegal))) ∧
  (∀ (s : State) (c : Ctx) (a b d : BitVec 6) (addr : Word) (u : ObjectUpdate) (i : Instr),
    let accs := [({ lane := 32, addr := addr, size := 8 } : Access)]
    let s1 := c.reached s accs
    let vk := vkey c.ctx addr
    let key := memKey c.ctx c.g.id.wg addr
    let prepare := fun (t : State) => match u with
      | .init _ | .wait _ _ => t
      | .add _ => t.noteArriver key c.age 2
      | .arrive => (t.releaseObject c.core vk (objScope addr)).noteArriver key c.age 1
    let leaves := fun (t : State) => c.finish (t.acquire c.core (objScope addr)) id
    let ends := fun (old : Nat) (t : State) => match u with
      | .init _ | .add _ => c.finish t id
      | .arrive => c.finish t fun g => ({ g with work := { g.work with markEntry := none } } : Group).setS d (.ofNat 64 (objPhase old))
      | .wait _ p => if objPhase old = p ∧ objPhase (objectNew u old) = p then c.heldState t (.object addr p) else leaves t
    let works := fun (t : State) (k : Nat) =>
      (t.updateFree c.g addr k = false → exec i s = .next (c.heldState t (.objectOp addr u k false none))) ∧
      (t.updateFree c.g addr k = true → t.asksHome vk = true → exec i s = .next (c.heldState
        ((prepare t).askHome (offset48 addr) (.object u) (.object c.age c.entry)) (.objectOp addr u k true none))) ∧
      (t.updateFree c.g addr k = true → t.asksHome vk = false → ∀ o old t1 t2, c.objectRead t addr = .ok (o, t1) →
        c.objectRead (prepare t1) addr = .ok (old, t2) → exec i s = .next (ends old (t2.objectUpdate c.g.id.wg c.ctx addr u old)))
    (match u with
      | .init _ => i = .mbinit b a
      | .add _ => i = .mbexp b a
      | .arrive => i = .mbarr a d
      | .wait _ _ => i = .mbwait b a) →
    c.MayAccess s { right := .atomic, priv := false } false false accs → c.Sound s.uncount accs →
    ((∀ x v k asked o, c.f.hold ≠ .objectOp x v k asked o) → addr = c.g.s a →
      let n := (c.g.s b).toNat
      u = .init n ∧ n < 4096 ∨ u = .add n ∧ n < 2 ^ 27 ∨ u = .arrive ∧ c.Released s1 ∧ s1.partners c.g = [] ∨
        u = .wait (s.effPrio c.age) (n % 4) ∧ s1.partners c.g = [] ∧ (∀ x p, c.f.hold ≠ .object x p) →
      works { s1 with nextOp := s1.nextOp + 1 } s1.nextOp) ∧
    (∀ k, (c.f.hold = .objectOp addr u k false none → works s1 k) ∧
      (c.f.hold = .objectOp addr u k true none → exec i s = .next (c.heldState s1 c.f.hold)) ∧
      ∀ asked old, c.f.hold = .objectOp addr u k asked (some old) →
        exec i s = .next (ends old (s1.objectMoved c.g.id.wg c.ctx addr u old))) ∧
    (∀ prio p o t, u = .wait prio p → c.f.hold = .object addr p → s1.objectLoad c.g.id.wg c.ctx c.core addr = .ok (o, t) →
      (objPhase o ≠ p → exec i s = .next (leaves t)) ∧
      (objPhase o = p → s1.effPrio c.age ≤ objPrio o → exec i s = .next (c.heldState t (.object addr p))) ∧
      (objPhase o = p → objPrio o < s1.effPrio c.age → prio = s1.effPrio c.age → works { t with nextOp := t.nextOp + 1 } t.nextOp))) ∧
  (∀ (s : State) (wg ctx old : Nat) (a : Word) (u : ObjectUpdate),
    let t := s.objectUpdate wg ctx a u old
    let new := valBytes 8 (objectNew u old)
    t.mem.phys = s.mem.phys ∧ t.cores = s.cores ∧
    (a.toNat / 2 ^ 61 = 6 → t.mem.llc = s.mem.llc ∧ ∀ w, Map.find? s.wgs wg = some w → ∃ w', Map.find? t.wgs wg = some w' ∧
      ∀ i, Map.get 0 w'.shared i = if a.toNat % 2 ^ 20 ≤ i ∧ i < a.toNat % 2 ^ 20 + 8 then new.getD (i - a.toNat % 2 ^ 20) 0
        else Map.get 0 w.shared i) ∧
    (a.toNat / 2 ^ 61 ≠ 6 → t.wgs = s.wgs ∧ ∀ i, Map.find? t.mem.llc i =
      if vkey ctx a ≤ i ∧ i < vkey ctx a + 8 then some { val := new.getD (i - vkey ctx a) 0, dirty := true }
      else Map.find? s.mem.llc i)) ∧
  (∀ phase prio reload arrivals bytes : Nat, phase < 4 → prio < 16 → reload < 4096 → arrivals < 4096 → bytes < 2 ^ 27 →
    let o := objMake phase prio reload arrivals bytes
    objPhase o = phase ∧ objectNew .arrive o = (if arrivals = 1 ∧ bytes = 0 then objMake (phase + 1) 0 reload reload 0
      else objMake phase prio reload (arrivals + 4095) bytes) ∧
    (∀ n : Nat, n < 4096 → objectNew (.init n) o = objMake 0 0 n n 0) ∧
    (∀ n : Nat, n < 2 ^ 27 → 0 < arrivals → objectNew (.add n) o = objMake phase prio reload arrivals (bytes + n)) ∧
    (∀ q p : Nat, q < 16 → 0 < arrivals ∨ 0 < bytes →
      objectNew (.wait q p) o = if p = phase then objMake phase (max prio q) reload arrivals bytes else o)) ∧
  (∀ (s : State) (c : Ctx) (a : BitVec 6),
    let accs := [({ lane := 32, addr := c.g.s a, size := 1 } : Access)]
    c.MayAccess s { right := .read, align := false, priv := false } false false accs →
    exec (.mon a) s = .next (c.finish (c.reached s accs) fun g => { g with work := { g.work with
      watch := some { line := lineOf (memKey c.ctx c.g.id.wg (c.g.s a)), fired := false, lost := false } } })) ∧
  (∀ (s : State) (c : Ctx) (b d : BitVec 6), s.ctx? = some c →
    let deadline := match c.f.hold with
      | .watch _ t => t
      | _ => if c.g.s b = 0 then none else some (s.time8 + 8 * (c.g.s b).toNat)
    let late := ∃ t, deadline = some t ∧ t ≤ s.time8
    let w := c.g.work.watch
    let leaves := fun (n : Nat) => exec (.mwait b d) s = .next (c.finish s fun g =>
      { g.setS d (.ofNat 64 n) with work := { g.work with watch := none } })
    (∀ x, w = some x → x.fired = true → leaves 0) ∧ (∀ x, w = some x → x.fired = false → late → leaves 1) ∧
    (∀ x, w = some x → x.fired = false → ¬ late → x.lost = true → leaves 2) ∧ (w = none → ¬ late → leaves 3) ∧
    (w = none → late → leaves 1) ∧
    (∀ x, w = some x → x.fired = false → ¬ late → x.lost = false →
      exec (.mwait b d) s = .next (c.stopped s (.hold (.watch d.toNat deadline))))) ∧
  (∀ (s : State) (age entry d t : Nat) (g : Group) (f : Frag), Map.find? s.groups age = some g → g.frag? entry = some f → f.wait = .held →
    f.hold = .watch d (some t) → t ≤ s.time8 →
    ∃ u g' f', exec (.mwaitTimeout age entry) s = .next u ∧ Map.find? u.groups age = some g' ∧ g'.work.watch = none ∧
      g'.regs = (g.setS (.ofNat 6 d) (.ofNat 64 (if (g.work.watch.map (·.fired)).getD false then 0 else 1))).regs ∧
      g'.frag? entry = some f' ∧ f'.pc = f.pc + 4 ∧ f'.wait = .ready) ∧
  (∀ (s : State) (addr : BitVec 64), ∃ t, exec (.watchFire addr) s = .next t ∧ t.mem = s.mem ∧
    ∀ age g w, Map.find? s.groups age = some g → g.work.watch = some w → w.line = lineOf addr.toNat →
      ∃ g', Map.find? t.groups age = some g' ∧ g'.work.watch = some { w with fired := true } ∧ g'.SameRegisters g)

/-- R250 to R267: ATOM and RED, what each operation computes, and XAT and XRED with their line requests: performed at
the owner, refused there, answered, retried and given up. Model's choices in the remote clauses: the counters stay
at 1,023 (log 107: R247 gives only their width), the detail of a failed request where none is stated is a free value
(log 4), one number tells refusals from failures (log 72), and how request tags are chosen and kept (log 93). -/
def Obligations.AtomicsLocalAndRemote : Prop :=
  (∀ (s : State) (c : Ctx) (red : Bool) (o : BitVec 5) (v t : BitVec 7) (b : BitVec 6),
    let code := o.toNat
    let size := atomicSize code
    let runs := (t.toNat, atomicRegs code) :: runOff v
    let accs := c.laneAccesses false v b size
    let s1 := c.reached s accs
    let lines := ((accs.filter fun a => decide (a.addr.toNat / 2 ^ 61 = 0) || decide (a.addr.toNat / 2 ^ 61 = 4)).map
      fun a => lineOf (vkey c.ctx a.addr)).eraseDups
    c.MayAccess s { right := .atomic, limit := false } true true accs → c.Fits runs → c.Clean c.active runs → c.Sound s.uncount accs →
    (∀ r ∈ s1.landing, r.age = c.age → ∀ l ∈ r.lanes, ∀ a ∈ accs, r.touches l (vkey c.ctx a.addr) a.size = false) →
    (red = false → c.flagA.isSome = true) →
    exec (if red then .red o v b t else .atom o v b t) s = .next (c.startLoad (lines.foldl (fun u line => u.expel c.core line) s1)
      (if red then none else c.flagA) (if red then .st else .ld)
      { c.loadOf s1 (if red then 4 else 3) 0 size false false (c.g.vKey t.toNat) accs with
        op := code, operands := c.atomicData code t.toNat c.lanes })) ∧
  (∀ (s : State) (g : Group) (w : Workgroup) (id : Nat) (l : Load) (lane : Nat) (a : Word),
    a.toNat / 2 ^ 61 = 6 → s.wgOf g = some w → 3 ≤ l.kind → (∀ p ∈ s.pend, p.age = g.id.age → id ≤ p.id) → l.lowerFirst lane a = false →
    let old := w.sharedBytes (a.toNat % 2 ^ 20) l.size
    let new := atomicNew l.op (bytesVal old) (l.operand lane).1 (l.operand lane).2
    s.serveLane g id l lane a = .data old new.2 (if atomicWrites l.op (bytesVal old) (l.operand lane).1 new.1
      then s.sharedWrite w.id (a.toNat % 2 ^ 20) (valBytes l.size new.1) else s)) ∧
  (∀ old a sw : BitVec 32,
    let new := fun code => atomicNew code old.toNat a.toNat sw.toNat
    new 0x00 = ((old + a).toNat, 0) ∧ new 0x02 = ((if a.slt old then a else old).toNat, 0) ∧
    new 0x03 = ((if a.ult old then a else old).toNat, 0) ∧ new 0x04 = ((if old.slt a then a else old).toNat, 0) ∧
    new 0x05 = ((if old.ult a then a else old).toNat, 0) ∧ new 0x0A = ((old &&& a).toNat, 0) ∧ new 0x0C = ((old ||| a).toNat, 0) ∧
    new 0x0E = ((old ^^^ a).toNat, 0) ∧ new 0x10 = (a.toNat, 0) ∧ new 0x12 = ((if old = a then sw else old).toNat, 0)) ∧
  (∀ old a sw : BitVec 64,
    let new := fun code => atomicNew code old.toNat a.toNat sw.toNat
    new 0x01 = ((old + a).toNat, 0) ∧ new 0x06 = ((if a.slt old then a else old).toNat, 0) ∧
    new 0x07 = ((if a.ult old then a else old).toNat, 0) ∧ new 0x08 = ((if old.slt a then a else old).toNat, 0) ∧
    new 0x09 = ((if old.ult a then a else old).toNat, 0) ∧ new 0x0B = ((old &&& a).toNat, 0) ∧ new 0x0D = ((old ||| a).toNat, 0) ∧
    new 0x0F = ((old ^^^ a).toNat, 0) ∧ new 0x11 = (a.toNat, 0) ∧ new 0x13 = ((if old = a then sw else old).toNat, 0)) ∧
  (∀ (s : State) (c : Ctx) (red x : Bool) (o : BitVec 3) (b a d : BitVec 7),
    let code := remoteCode red o
    let own := c.remoteAccesses x b a (atomicSize code)
    let accs := own ++ c.ackAccess red
    let s1 := c.reached s accs
    let runs := (d.toNat, atomicRegs code) :: (a.toNat, 1) :: (if x then [] else [(b.toNat, 2)])
    let data := (c.atomicData code d.toNat c.lanes).map fun p => (p.1, c.remoteAddr x b a p.1, p.2)
    let peers := data.foldl (fun ps p => insertNat ps (pkgOf p.2.1)) []
    let ids := (List.range peers.length).map fun i => s1.nextOp + 1 + i
    let subs := (ids.zip peers).map fun p =>
      ({ id := p.1, entered := false, age := c.age, core := c.core, pc := c.pc, isRed := red, op := o, peer := p.2, reg := c.g.vKey d.toNat,
         bank := c.g.flow.trapMode, flag := if red then none else c.flagA, ackbar := if red then c.g.sys.ackbar else 0,
         limit := (s1.queue c.g.id.queue).retry, fp := 0, lines := remoteLines (data.filter fun q => pkgOf q.2.1 == p.2) } : RemoteSub)
    let s2 := if red then { c.finish s1 id with nextOp := s1.nextOp + 1 } else c.launch (c.finish s1 id) c.flagA none (.xat ids)
    let i := if red then Instr.xred x o b a d else .xat x o b a d
    c.MayAccess s { right := .atomic, limit := false, direct := false } false false accs → c.Fits runs → c.Clean c.active runs →
    (red = false → c.flagA.isSome = true) → (∀ l ∈ c.lanes, c.remoteBad x b a l = false) →
    (∀ k ∈ c.ackAccess red, s.ackbarBad k.addr = false) → (∀ k ∈ own, k.addr.toNat / 2 ^ 61 ≠ 2) →
    let s3 := State.pumpRemote { s2 with nextOp := s2.nextOp + subs.length, remote := s2.remote ++ subs }
    (c.lanes = [] → exec i s = .next (c.finish s1 id)) ∧
    (c.lanes ≠ [] → s3.sending c.age = false → exec i s = .next s3) ∧
    (c.lanes ≠ [] → s3.sending c.age = true → exec i s = .next (s3.onGroup c.age fun g => g.onFrag c.entry fun f =>
      { f with wait := .held, hold := .remoteRoom }))) ∧
  (∀ (s : State) (sub : RemoteSub) (tags : List Nat) (count : Nat), s.peerGone sub.peer = false →
    nextTags (s.tagsUsed sub.core) 65536 sub.lines.length (s.core sub.core).tagCount = (tags, count) →
    let t := s.enterSub sub
    let entered := { sub with entered := true, lines := (sub.lines.zip tags).map fun p => { p.1 with tag := p.2 } }
    t.remote = s.remote.map (fun x => if x.id = sub.id then entered else x) ∧ t.outbox = s.outbox ∧
    (t.core sub.core).tagCount = count % 65536 ∧
    ∀ g, Map.find? s.groups sub.age = some g → ∃ g', Map.find? t.groups sub.age = some g' ∧ g'.SameRegisters g ∧
      g'.work.counter .ra = min 1023 (g.work.counter .ra + 1)) ∧
  (∀ (s : State) (req : RemoteRequest) (p : Nat × Word × Word × Word) (ps : List (Nat × Word × Word × Word)),
    req.lanes = p :: ps → pkgOf p.2.1 = s.pkg → req.src ∉ s.fabric.lost →
    (∀ a, s.performedBefore req = some a → exec (.remoteAtomicRequest req) s = .next ((s.served (.remoteAtomicRequest req)).answerRemote req
      (.remoteAtomicAck (requestName req) a.olds a.fp) (.remoteReply req.src req.core req.tag (requestLine req) a.olds a.fp))) ∧
    (s.performedBefore req = none →
    let e := Event.remoteAtomicRequest req
    let s0 := s.served e
    let barred := s.underShootdown p.2.1.toNat = true ∨ (s.walkRights req.ctx p.2.1).at_ = false
    (barred → ∃ t detail, exec (.remoteAtomicRequest req) s = .next t ∧ t.mem = s.mem ∧
      t = State.refuseRemote { s0 with freeCtr := s0.freeCtr + 1 } req detail ∧ 1 ≤ detail ∧ detail ≤ 4) ∧
    (¬ barred → s.remoteWaits req = false → (s.before e).any (sameRemoteLine req.src p.2.1) = false →
      ∀ s1, s0.remoteReady (atomicSize (remoteCode req.isRed req.op)) req.lanes = .ok s1 →
      let r := s1.performRemote (remoteCode req.isRed req.op) req.lanes
      let back := if req.isRed then [] else r.1
      let s2 := if req.src = s.pkg then r.2.2 else r.2.2.notePerformed req back r.2.1
      exec (.remoteAtomicRequest req) s = .next (s2.answerRemote req (.remoteAtomicAck (requestName req) back r.2.1)
        (.remoteReply req.src req.core req.tag (requestLine req) back r.2.1))))) ∧
  (∀ (s : State) (tag detail : Nat) (olds : List (Nat × BitVec 64)) (fp : BitVec 4) (r : RemoteSub) (l : RemoteLine),
    s.remoteOf tag = some (r, l) → l.over = false → l.sent = true →
    let s1 := s.onRemote tag fun l => { l with acked := true, lanes := l.lanes.map fun p =>
      (p.1, p.2.1, ((olds.find? fun o => o.1 == p.1).map (·.2)).getD p.2.2.1, p.2.2.2) }
    exec (.remoteAtomicAck tag olds fp) s = .next (State.settleSub { s1 with remote := s1.remote.map fun (q : RemoteSub) =>
      if q.id == r.id then { q with fp := q.fp ||| fp } else q } r.id) ∧
    (l.retries < r.limit → detail < 256 → exec (.remoteAtomicRnr tag detail) s = .next ((s.onRemote tag fun l => { l with
      sent := false, waiting := true, retries := l.retries + 1, retryAt := s.time8 + 8000 * 2 ^ l.retries,
      detail := detail }).settleSub r.id)) ∧
    (r.limit ≤ l.retries → exec (.remoteAtomicRnr tag detail) s = .next ((s.onRemote tag fun l => { l with
      failed := true, retryAt := s.time8, detail := detail % 256 }).settleSub r.id))) ∧
  (∀ (s : State) (tag : Nat) (r : RemoteSub) (l : RemoteLine), s.remoteOf tag = some (r, l) → l.waiting = true →
    (l.retryAt ≤ s.time8 → exec (.remoteRetryTimer tag) s = .next (s.sendRemote tag)) ∧
    (s.time8 < l.retryAt → exec (.remoteRetryTimer tag) s = .next s))

/-- R268 to R285, R301, R323, R324: the commands of the Wherry engine pass their checks and are queued, counted on WH;
WSTAT reads and WCANCEL cancels one; the engine's events start, count, complete, pause and cancel a command. Model's
choices: the pieces of a command, when they are counted and what travels in one packet (logs 55, 117, 118), a stream
that runs past its space (log 121), and the two copies of an ASTASH (log 128). -/
def Obligations.CopyEngine : Prop :=
  (∀ (s : State) (c : Ctx) (r v a : BitVec 6) (k d x : BitVec 3), s.ctx? = some c →
    let kd := c.shape d
    let ks := c.shape k
    let kx := c.shape x
    let bar := c.barOf r
    let start := fun (i : Instr) (stream : Bool) (body : WherryBody) (count : Nat) (ends_ : List Side) =>
      exec i s = .next (c.startWherry s body stream bar count none ends_)
    (c.WherryOk s [(kd, true), (ks, false)] [kd.side, ks.side] [kd.side, ks.side] r kd.total → kd.width = ks.width → kd.count = ks.count →
      start (.wcopy r k d) false (.copy kd ks) kd.total [kd.side, ks.side] ∧
      start (.wcopyStream r k d) true (.copy kd ks) kd.total [kd.side, ks.side]) ∧
    (kx.fmt = 10 → s.isRemote kx.base = false → kd.planes = 1 → ks.planes = 1 → kd.rowlen = ks.rowlen → kd.width = ks.width →
      (c.WherryOk s [(kd, true), (ks, false), (kx, false)] [kd.side, ks.side, kx.side] [kd.side, ks.side] r kd.total → kx.count = kd.rows →
        start (.wgather r x k d) false (.gather kd ks kx) kd.total [kd.side, ks.side]) ∧
      (c.WherryOk s [(kd, true), (ks, false), (kx, false)] [kd.side, ks.side, kx.side] [kd.side, ks.side] r ks.total → kx.count = ks.rows →
        start (.wscatter r x k d) false (.scatter kd ks kx) ks.total [kd.side, ks.side])) ∧
    (c.WherryOk s [(kd, true)] [kd.side] [kd.side] r kd.total → start (.wfill r v d) false (.fill kd (c.g.s v)) kd.total [kd.side]) ∧
    ((c.g.s a).toNat % 64 = 0 →
      (let sides := [plainSide (c.g.s a) (streamMax ks.total), ks.side]
       c.WherryOk s [(ks, false)] sides sides r ks.total → ks.total % 4096 = 0 →
        start (.wcomp r k a) false (.comp (c.g.s a) ks) ks.total sides) ∧
      (let sides := [kd.side, plainSide (c.g.s a) 64]
       c.WherryOk s [(kd, true)] sides sides r kd.total → start (.wdcomp r a d) false (.decomp kd (c.g.s a)) kd.total sides)) ∧
    (∀ (ro : Bool) (n : BitVec 7), c.WherryOk s [(ks, false)] [ks.side] [ks.side] r ks.total → ks.total ≤ 16384 →
      (c.ownsSlot s n.toNat = true →
        let s1 := s.onOperand c.core n.toNat fun o => { o with tag := 0, ro := if ro then some (ks.base, c.g.kRec k.toNat) else none }
        exec (.wloado ro n r k) s = .next (c.startWherry (s1.reachObject c.core
          { id := s.nextOp, age := c.age, cls := 0, queued := false, op := .engine (some n.toNat) none s.nextOp })
          (.loado n.toNat ro ks (c.g.kRec k.toNat)) false bar ks.total (some s.nextOp) [ks.side])) ∧
      (c.ownsSlot s n.toNat = false → exec (.wloado ro n r k) s = .next (c.stopped s (slotTrap n.toNat))))) ∧
  (∀ (s : State) (c : Ctx) (cp : BitVec 2) (b : Bool) (f : BitVec 4) (r : BitVec 6) (q p : BitVec 3) (n : BitVec 5), s.ctx? = some c →
    let copies := (if cp.getLsbD 0 then [(p, 192, 64)] else []) ++ (if cp.getLsbD 1 then [(q, 64, 192)] else [])
    let shapes := copies.map fun k => c.stashCopy k.1
    let sides := shapes.map (·.1.side) ++ (if b then shapes.map fun k => plainSide k.2 384 else [])
    let count := (shapes.map fun k => k.1.total + (if b then 384 else 0)).sum
    c.WherryOk s (shapes.map fun k => (k.1, true)) sides [] r count → c.ownsTile s n.toNat = true →
    c.stashOk s f.toNat b n.toNat copies = true →
    exec (.astash cp b f r q p n) s = .next (c.startWherry (s.reachObject c.core
      { id := s.nextOp, age := c.age, cls := 0, queued := false, op := .engine none (some n.toNat) s.nextOp })
      (.stash n.toNat f.toNat b c.g.sys.fpctl.toNat (if cp.getLsbD 0 then some (c.stashCopy p) else none)
        (if cp.getLsbD 1 then some (c.stashCopy q) else none)) false (c.barOf r) count (some s.nextOp) sides)) ∧
  (∀ (s : State) (c : Ctx) (body : WherryBody) (stream : Bool) (bar : Option Word) (count : Nat) (aop : Option Nat) (ends_ : List Side) (g : Group),
    s.goneSide ends_ = none → Map.find? s.groups c.age = some g →
    let t := c.startWherry s body stream bar count aop ends_
    (∃ w ∈ t.wherry, w.id = s.nextOp ∧ w.age = c.age ∧ w.body = body ∧ w.stream = stream ∧ w.bar = bar ∧ w.left = count ∧ w.state = .queued) ∧
    ∃ g', Map.find? t.groups c.age = some g' ∧ g'.wherryAt 0 = some s.nextOp ∧
      { path := .wh, op := s.nextOp, done := false } ∈ g'.work.inflight ∧ g'.SameRegisters g) ∧
  (∀ (s : State) (c : Ctx) (b d : BitVec 6), s.ctx? = some c →
    (c.flagA.isSome = true → exec (.wstat b d) s = .next (c.launch (c.done s c.g) c.flagA none
      (.wstat (c.g.sKey d) (c.g.wherryAt (c.g.s b))))) ∧
    (∀ n w, c.g.wherryAt (c.g.s b) = some n → (s.wherry.find? fun w => w.id == n) = some w → w.active = true →
      exec (.wcancel b) s = .next (c.finish (s.cancelWherry w) id)) ∧
    (c.g.wherryAt (c.g.s b) = none → exec (.wcancel b) s = .next (c.finish s id))) ∧
  (∀ (s : State) (op sd : Nat) (p : Pend) (cmd : Option Nat), (s.pend.find? fun p => p.id == op) = some p → p.kind = .wstat sd cmd →
    exec (.resultWriteback op) s = .next (s.writeBack p [] [(sd, s.statusWord cmd)] 0)) ∧
  (∀ (s : State) (core : Nat) (w : Wherry), firstStart (s.startPrio s.priorities) (s.startable core) = some w →
    exec (.wherryCommandStart core) s = .next (s.putWherry { w with state := .running })) ∧
  (∀ (s s1 : State) (id want n : Nat) (w w1 : Wherry) (fin : Bool) (e : Option EngineStop),
    (s.wherry.find? fun w => w.id == id) = some w → w.state = .running →
    (s.wherryRun w want (2 ^ 42) = (s1, w1, n, e, fin) → (∀ d a, e ≠ some (.fail d a)) →
      exec (.wherryCountUpdate id want) s = .next (s1.countWherry w1 (w1.counted n))) ∧
    (s.wherryRun w (2 ^ 42) (2 ^ 42) = (s1, w1, n, e, fin) →
      ((∀ d a, e ≠ some (.fail d a)) → exec (.wherryCommandComplete id) s =
        .next (if fin then s1.endWherry w1 .complete else s1.countWherry w1 (w1.counted n))) ∧
      ∀ d a, e = some (.fail d a) → exec (.wherryCommandComplete id) s = .next ((s1.putWherry w1).failWherry w1 d a)) ∧
    (∀ d a dst, s.wherryPiece w = .error (.fault d a dst) →
      exec (.engineXlateFault id) s = .next (s.pauseWherry w d a dst))) ∧
  (∀ (s : State) (src : Nat) (stream : Bool) (runs : List (BitVec 64 × List (BitVec 8))),
    let e := Event.wherryRemotePacket src stream runs
    let i := Instr.wherryRemotePacket src stream runs
    let addr := (runs.headD (0, [])).1
    (src ∈ s.fabric.lost ∨ runs = [] → exec i s = .next (s.served e)) ∧
    (src ∉ s.fabric.lost → runs ≠ [] → s.isRemote addr = true → ∀ w,
      (s.wherry.find? fun w => w.state == .running && w.askedAddr == some addr) = some w →
      let w1 := { w with buf := w.buf ++ runs.flatMap (·.2), asked := false, waiting := false, retries := 0 }
      exec i s = .next ((s.served e).putWherry w1)) ∧
    (src ∉ s.fabric.lost → runs ≠ [] → s.packetHere runs = true →
      ((∃ r ∈ runs, s.underShootdown r.1.toNat = true) →
        ∃ d, exec i s = .next (State.send { s.served e with freeCtr := s.freeCtr + 1 } (.bulkRefusal src addr d))) ∧
      ((∀ r ∈ runs, s.underShootdown r.1.toNat = false) →
        ((∃ r ∈ runs, s.packetWaits r.1 r.2.length = true) ∨ (s.before e).any (samePacketPage src addr) = true →
          exec i s = .next (s.keep e)) ∧
        ((∀ r ∈ runs, s.packetWaits r.1 r.2.length = false) → (s.before e).any (samePacketPage src addr) = false →
          (∀ d, (s.served e).runsReady runs = .error d → exec i s = .next ((s.served e).send (.bulkRefusal src addr d))) ∧
          ∀ s1, (s.served e).runsReady runs = .ok s1 →
            exec i s = .next ((runs.foldl (fun t r => t.writeRun stream r) s1).send (.bulkAck src addr)))))) ∧
  (∀ (s : State) (r : Word × List Byte) (j : Nat) (b : Byte), r.2[j]? = some b →
    (Map.find? (s.writeRun false r).mem.llc (r.1.toNat + j)).map (·.val) = some b) ∧
  (∀ (s t : State) (w : Wherry) (addrs : List Word) (l : List Byte), s.engineReads w (addrRuns addrs) = .ok (l, t) →
    l.length = addrs.length ∧ t.mem.phys = s.mem.phys ∧ ∀ (j : Nat) (a : Word), addrs[j]? = some a → t.byteFor w a = l[j]?) ∧
  (∀ (s t : State) (w : Wherry) (lines : List (List (Word × Byte))), s.engineWrites w lines = .ok (t, []) → w.stream = false →
    s.mem.late = [] → (Map.find? s.wgs w.wg).isSome = true → (lines.flatten.map fun p => memKey w.ctx w.wg p.1).Nodup →
    (∀ cells ∈ lines, ∀ p ∈ cells, ∀ q ∈ cells, p.1.toNat / 128 = q.1.toNat / 128) →
    t.mem.phys = s.mem.phys ∧ ∀ p ∈ lines.flatten, t.byteFor w p.1 = some p.2) ∧
  (∀ cells : List (Word × Byte), ((cellRuns cells).flatMap fun (r : Word × List Byte) => (List.range r.2.length).zip r.2 |>.map fun (p : Nat × Byte) =>
    (r.1 + BitVec.ofNat 64 p.1, p.2)) = cells) ∧
  (∀ (s s1 t : State) (w : Wherry) (d k : Shape) (rows : List (Nat × Nat)) (l : List Byte),
    let copies := fun (n : Nat) (src dst : Nat → Word) =>
      let ps := linePositions dst w.done n
      w.done < n → s.engineReads w (addrRuns (ps.map src)) = .ok (l, s1) → s1.engineWrites w [(ps.map dst).zip l] = .ok (t, []) →
      s.wherryPiece w = .ok (some (t, { w with done := w.done + ps.length }, ps.length))
    s.isRemote k.base = false →
    (w.body = .copy d k → copies d.total k.byteAddr d.byteAddr) ∧
    (w.body = .moves d k rows →
      let row := fun p => rows.getD (p / d.rowBytes) (0, 0)
      copies (rows.length * d.rowBytes) (fun p => k.byteAddr ((row p).2 * d.rowBytes + p % d.rowBytes))
        fun p => d.byteAddr ((row p).1 * d.rowBytes + p % d.rowBytes))) ∧
  (∀ (s t : State) (w : Wherry) (d : Shape) (v : Word), w.body = .fill d v → w.done < d.total →
    let ps := linePositions d.byteAddr w.done d.total
    s.engineWrites w [ps.map fun p => (d.byteAddr p, (fillRow d v).getD (p % d.rowBytes) 0)] = .ok (t, []) →
    s.wherryPiece w = .ok (some (t, { w with done := w.done + ps.length }, ps.length))) ∧
  (∀ (d : Shape) (v : Word), d.rowlen * d.width % 8 = 0 → (fillRow d v).length = d.rowBytes ∧
    bytesVal (fillRow d v) = ((List.range d.rowlen).map fun e => v.toNat % 2 ^ d.width * 2 ^ (d.width * e)).sum) ∧
  (∀ (dst : Nat → Word) (p n q : Nat), p < n → q ∈ linePositions dst p n → p ≤ q ∧ q < n ∧ (dst q).toNat / 128 = (dst p).toNat / 128) ∧
  (∀ (s s1 : State) (w : Wherry) (d k i : Shape) (a : Word) (l : List Byte),
    w.body = .comp a i ∨ w.body = .gather d k i ∨ w.body = .scatter d k i →
    (w.buf.length < i.total → s.isRemote (i.byteAddr w.buf.length) = false →
      s.engineRead w (i.byteAddr w.buf.length) (lineRoom (i.byteAddr w.buf.length) (i.rowBytes - w.buf.length % i.rowBytes)) = .ok (l, s1) →
      s.wherryPiece w = .ok (some (s1, { w with buf := w.buf ++ l }, 0))) ∧
    (i.total ≤ w.buf.length →
      (w.body = .comp a i → s.wherryPiece w =
        .ok (some (s, { w with body := .writes [(a, packStream i.width w.buf)], buf := [] }, 0))) ∧
      (w.body = .gather d k i → ∃ rows, s.wherryPiece w = .ok (some (s, { w with body := .moves d k rows, buf := [] }, 0)) ∧
        ∀ j r, (j, r) ∈ rows ↔ j < d.rows ∧ (indexes w.buf)[j]? = some r ∧ r < k.rows) ∧
      (w.body = .scatter d k i → ∃ rows, s.wherryPiece w = .ok (some (s, { w with body := .moves d k rows, buf := [] }, 0)) ∧
        ∀ r j, (r, j) ∈ rows ↔ r < d.rows ∧ j < k.rows ∧ (indexes w.buf)[j]? = some r ∧
          ∀ j', j' < k.rows → (indexes w.buf)[j']? = some r → j' ≤ j))) ∧
  (∀ (s : State) (w : Wherry) (d : Shape) (a : Word) (l : List (List Byte)), w.body = .decomp d a → streamNext d.total w.buf = .blocks l →
    (∀ bytes, unpackStream w.buf l = some bytes →
      s.wherryPiece w = .ok (some (s, { w with body := .blocks (rowsWith d bytes), buf := [] }, 0)) ∧
      (d.bad true = false → bytes.length = d.total → ∀ p n, cellsFrom (rowsWith d bytes) p n =
        (List.range (min n (bytes.length - p))).map fun j => (d.byteAddr (p + j), bytes.getD (p + j) 0))) ∧
    (unpackStream w.buf l = none → s.wherryPiece w = .error (.fail 8 a))) ∧
  (∀ (s : State) (w : Wherry) (d : Shape) (a : Word), w.body = .decomp d a → streamNext d.total w.buf = .bad →
    s.wherryPiece w = .error (.fail 8 a)) ∧
  (∀ (s t : State) (w : Wherry) (l : List (Word × List Byte)) (cells : List (Word × Byte)), w.body = .blocks l →
    cellsFrom l w.done 4096 = cells → cells ≠ [] → (lineGroups cells).flatten = cells ∧ (s.engineWrites w (lineGroups cells) = .ok (t, []) →
      s.wherryPiece w = .ok (some (t, { w with done := w.done + cells.length }, cells.length)))) ∧
  (∀ (w : Nat) (bytes : List Byte), w ≤ 3 → bytes.length = 4096 →
    let b := packBlock w bytes
    b.length ≤ 4104 ∧ b.length % 8 = 0 ∧ bytesVal (b.take 2) = b.length ∧ unpackBlock w b = some bytes) ∧
  (∀ (width : Nat) (bytes : List Byte), bytes.length % 4096 = 0 → bytes ≠ [] → bytes.length ≤ 2 ^ 32 →
    let st := packStream width bytes
    let n := bytes.length / 4096
    let blocks := (pieces 4096 n bytes).map (packBlock (widthCode width))
    let read := st.take (64 + 4 * n) ++ blocks.flatten
    st.length ≤ streamMax bytes.length ∧ bytesVal (st.take 4) = n ∧ bytesVal ((st.drop 4).take 1) = widthCode width ∧
    bytesVal ((st.drop 8).take 8) = st.length ∧
    (∀ b, b < n → ((st.drop (8 * bytesVal ((st.drop (64 + 4 * b)).take 4))).take (blocks.getD b []).length) = blocks.getD b []) ∧
    streamNext bytes.length read = .blocks blocks ∧ unpackStream read blocks = some bytes)

/-- R286 to R293: the commands of the Ferry engines at issue, FSHARD, and the match, the arrival of shards and the
completion. -/
def Obligations.Collectives : Prop :=
  (∀ (s s1 s2 s3 : State) (c : Ctx) (r a b6 : BitVec 6) (d : List Word) (l : FerryList) (u : List Byte) (i : Instr) (kind : Nat)
      (b : Option (BitVec 6)), s.ctx? = some c →
    (i, kind, b) ∈ [(.frs r a, 0, none), (.fag r a, 1, none), (.far r a, 2, none), (.fa2a r a, 3, none), (.fbc r a, 4, none),
      (.fupd r b6 a, 5, some b6)] →
    let desc := c.g.s a
    let block := (b.map c.g.s).getD 0
    let blocks := if b.isSome then [desc, block] else [desc]
    let list := d.getD 0 0
    let places := [d.getD 1 0, d.getD 2 0]
    let w3 := wordAt d 3
    let cmd : Ferry :=
      { id := s.nextOp, age := c.age, wg := c.g.id.wg, ctx := c.ctx, pc := c.pc, kind := kind, list := list,
        src := d.getD 1 0, dst := d.getD 2 0, count := w3 % 2 ^ 40, width := w3 / 2 ^ 40 % 4, op := w3 / 2 ^ 44 % 16,
        tag := wordAt d 4 % 2 ^ 32, members := l.members, order := l.order, runLen := l.h, update := wordsOf u,
        bar := c.barOf r, shard := c.g.work.shard, matched := false, out := [], arrived := [], unacked := [], fp := 0,
        inTrap := c.g.flow.trapMode }
    (∀ k ∈ blocks, k.toNat % 64 = 0 ∧ s.ferryPlace k = true) → c.readDescriptor s desc = .ok (d, s1) → space? list = some .control →
    (∀ k ∈ places, s.isRemote k = false ∧ s.ferryPlace k = true) → c.checkReadable s1 desc 64 = .ok () →
    c.readList s1 list = .ok (l, s2) → (if b.isSome then c.readRight s2 block 64 else .ok ([], s2)) = .ok (u, s3) →
    ferryBad s.pkg kind d l = false →
    (∀ k, cmd.bar = some k → space? k = some .shared ∧ k.toNat % 2 ^ 20 < s.sharedSize c.g ∧ k.toNat % 8 = 0 ∧
      cmd.shards * cmd.per < 2 ^ 27) →
    (∀ k, cmd.shard = some k → cmd.per < 2 ^ 27 ∧ k.toNat % 2 ^ 20 + 8 * cmd.shards ≤ s.sharedSize c.g) →
    (kind = 5 → cmd.field 0 ≤ 1 ∧ ∀ k ∈ cmd.states, k.toNat % 4 = 0 ∧ space? k = some .tensor ∧ s.isRemote k = false) →
    s.ferryRoom = true → (∀ p ∈ cmd.members, s.peerGone p = false) →
    exec i s = .next ((c.finish { s3 with nextOp := s3.nextOp + 1, ferry := s3.ferry ++ [cmd] } fun g =>
      { g with work := { g.work.start .fe cmd.id with shard := none } }).tellFerry cmd 0 [])) ∧
  (∀ (s : State) (c : Ctx) (a : BitVec 6), s.ctx? = some c →
    let k := c.g.s a
    (space? k = some .shared → k.toNat % 2 ^ 20 < s.sharedSize c.g → k.toNat % 8 = 0 →
      exec (.fshard a) s = .next (c.finish s fun g => { g with work := { g.work with shard := some k } })) ∧
    (space? k ≠ some .shared ∨ s.sharedSize c.g ≤ k.toNat % 2 ^ 20 → exec (.fshard a) s = .next (c.stopped s (addrTrap .space 32 k))) ∧
    (space? k = some .shared → k.toNat % 2 ^ 20 < s.sharedSize c.g → k.toNat % 8 ≠ 0 →
      exec (.fshard a) s = .next (c.stopped s (addrTrap .misalign 32 k)))) ∧
  (∀ (s : State) (id : Nat) (ps : List FerryPartner) (c : Ferry),
    let s0 := s.served (.ferryMatch id ps)
    (s.ferry.find? fun (c : Ferry) => c.id == id) = some c → c.matched = false → c.allThere s.pkg ps = true → s0.firstFerry c = true →
    s0.matchWaits c = false →
    ((∃ p ∈ ps, c.disagrees p = true) → exec (.ferryMatch id ps) s = .next (s0.failFerry c 9 c.dst 0)) ∧
    ((∀ p ∈ ps, c.disagrees p = false ∧ p.detail = 0) → exec (.ferryMatch id ps) s = .next (s0.matchFerry c ps))) ∧
  (∀ (s : State) (c : Ferry) (srcs : List (Array Byte)),
    (c.kind = 1 → s.ferryEffect c srcs = .ok (s, srcs.map fun x => bytesAt x 0 c.per, 0)) ∧
    (c.kind = 3 → s.ferryEffect c srcs = .ok (s, srcs.map fun x => bytesAt x (c.position s.pkg * c.per) c.per, 0)) ∧
    (c.kind = 4 → s.ferryEffect c srcs = .ok (s, [bytesAt (srcs.getD 0 #[]) 0 c.per], 0))) ∧
  (∀ (s : State) (c : Ferry) (srcs : List (Array Byte)) (q : Nat),
    let red := fun q j => foldList c.op c.order c.runLen (srcs.map fun x => ferryElem c x q j)
    let half := fun q j => foldList 1 c.order c.runLen (srcs.map fun x => ferryElem c x q j * 65536)
    let shard := fun q (l : List Byte) =>
      (c.op ≠ 1 → ∀ j < c.count, (l.drop (4 * j)).take 4 = valBytes 4 (red q j).1) ∧
      (c.op = 1 → ∀ j < c.count, (l.drop (2 * j)).take 2 = valBytes 2 (roundVal .bf16 .rne 0 (value .fp32 (half q j).1)).1)
    (c.kind = 0 → ∃ l fl, s.ferryEffect c srcs = .ok (s, [l], fl) ∧ shard (c.position s.pkg) l ∧
      (c.op ≠ 1 → fl = (List.range c.count).foldl (fun a j => a ||| (red (c.position s.pkg) j).2) 0)) ∧
    (c.kind = 2 → ∃ ls fl, s.ferryEffect c srcs = .ok (s, ls, fl) ∧ ls.length = c.members.length ∧
      (q < c.members.length → shard q (ls.getD q [])))) ∧
  (∀ (order run x : Nat) (l : List Nat),
    let add := fun a y => (fadd .fp32 .rne a y).1
    let most := fun a y => fminmax .fp32 true a y
    let least := fun a y => fminmax .fp32 false a y
    let ring := fun (op : Nat → Nat → Nat) (xs : List Nat) => xs.tail.foldl op (xs.headD 0)
    let folded := fun (op : Nat → Nat → Nat) (xs : List Nat) =>
      if order = 0 then ring op xs else ring op ((pieces run ((xs.length + run - 1) / run) xs).map (ring op))
    (foldList 0 order run (x :: l)).1 = folded add (x :: l) ∧ (foldList 1 order run (x :: l)).1 = folded add (x :: l) ∧
    (foldList 3 order run (x :: l)).1 = folded most (x :: l) ∧ (foldList 4 order run (x :: l)).1 = folded least (x :: l) ∧
    ((∀ y ∈ x :: l, y < 2 ^ 32) → 0 < run → foldList 2 order run (x :: l) = ((x :: l).sum % 2 ^ 32, 0))) ∧
  (∀ (c : Ferry) (r w m v : Nat),
    let hi := fun i => wordAt c.update i / 2 ^ 32 % 2 ^ 32
    let lo := fun i => wordAt c.update i % 2 ^ 32
    let mul := fun a b => (fmul .fp32 .rne a b).1
    let add := fun a b => (fadd .fp32 .rne a b).1
    let sub := fun a b => (fsub .fp32 .rne a b).1
    let g := mul (hi 7) r
    (lo 0 = 0 →
      let v1 := add (mul (lo 5) m) g
      (c.step r w m v).1 = (sub w (mul (lo 4) (add v1 (mul (hi 4) w))), v1, v)) ∧
    (lo 0 ≠ 0 →
      let m1 := add (mul (lo 5) m) (mul (sub 0x3F800000 (lo 5)) g)
      let v1 := add (mul (hi 5) v) (mul (mul (sub 0x3F800000 (hi 5)) g) g)
      let d := add (fsqrt32 (mul v1 (lo 7))).1 (lo 6)
      let t := add (fdiv32 (mul m1 (hi 6)) d).1 (mul (hi 4) w)
      (c.step r w m v).1 = (sub w (mul (lo 4) t), m1, v1))) ∧
  (∀ (s s1 s2 : State) (c : Ferry) (r : List Nat × Flags) (lw lm : List Byte), c.field 0 = 0 → c.op = 0 →
    let n := 4 * c.count
    let aw := c.update.getD 1 0
    let am := c.update.getD 2 0
    let new := fun k => (c.step (r.1.getD k 0) ((elems32 lw)[k]?.getD 0) ((elems32 lm)[k]?.getD 0) 0).1
    r.1.length = c.count → s.ferryRead aw n = .ok (lw, s1) → s1.ferryRead am n = .ok (lm, s2) →
    overlap aw.toNat n am.toNat n = false →
    ∃ t own fl, s.updateShard c r = .ok (t, own, fl) ∧ own.length = n ∧ t.mem.phys = s2.mem.phys ∧ ∀ k i, k < c.count → i < 4 →
      own[4 * k + i]? = (valBytes 4 (new k).1)[i]? ∧
      (Map.find? t.mem.llc (aw.toNat + 4 * k + i)).map (·.val) = (valBytes 4 (new k).1)[i]? ∧
      (Map.find? t.mem.llc (am.toNat + 4 * k + i)).map (·.val) = (valBytes 4 (new k).2.1)[i]?) ∧
  (∀ (s : State) (c : Ferry) (srcs : List (Array Byte)), c.kind = 5 →
    (∀ t own fl, s.updateShard c (c.reduce srcs (c.position s.pkg)) = .ok (t, own, fl) →
      s.ferryEffect c srcs = .ok (t, ((List.range c.members.length).zip srcs).map fun q =>
        if q.1 = c.position s.pkg then own else bytesAt q.2 c.sourceBytes c.per, fl)) ∧
    (∀ d a, s.updateShard c (c.reduce srcs (c.position s.pkg)) = .error (d, a) →
      s.ferryEffect c srcs = .error (if d = 12 then 12 else 10, a))) ∧
  (∀ (s s1 s2 : State) (c : Ferry) (ps : List FerryPartner) (own : List Byte) (out : List (List Byte)) (fl : Flags), c.kind ≠ 5 →
    s.ferrySource c = .ok (own, s1) → s1.ferryEffect c (c.sources s.pkg own ps) = .ok (s2, out, fl) →
    let c1 := { c with matched := true, out := out, unacked := c.partners s.pkg, fp := fl }
    s.matchFerry c ps = ((s2.putFerry c1).takeShard c1 (c1.ownShard s.pkg)).tellFerry c 0 own) ∧
  (∀ (s : State) (c : Ferry) (q j : Nat) (b : Byte),
    let k := c.dst.toNat + q * c.per + j
    let s0 := s.recallLines (linesOf (c.dst.toNat + q * c.per) (c.out.getD q []).length)
    (∀ a, c.bar = some a → a.toNat / 2 ^ 61 = 6) → (∀ a, c.shard = some a → (a + BitVec.ofNat 64 (8 * q)).toNat / 2 ^ 61 = 6) →
    (c.out.getD q [])[j]? = some b →
    (Map.find? (s.writeShard c q).mem.llc k).map (·.val) =
      if s0.mem.isLate c.id k then (Map.find? s0.mem.llc k).map (·.val) else some b) ∧
  (∀ (s : State) (id q : Nat) (c : Ferry), (s.ferry.find? fun (c : Ferry) => c.id == id) = some c → c.matched = true →
    (q ∈ c.missing → s.shardWaits c q = false →
      exec (.ferryShardArrival id q) s = .next ((s.writeShard c q).ackFerry c (c.served s.pkg q))) ∧
    (q ∉ c.missing ∨ s.shardWaits c q = true → exec (.ferryShardArrival id q) s = .next s) ∧
    (c.missing = [] → c.unacked = [] → exec (.ferryComplete id) s = .next ((s.onGroup c.age (·.orFp c.fp)).endFerry c)) ∧
    (c.unacked ≠ [] ∨ (∃ q ∈ c.missing, s.shardWaits c q = true) → exec (.ferryComplete id) s = .next s))

/-- R295 to R299, R312, R319, R320, R321: claims and releases of slots and tiles, OPUT and OGET, AZERO and the drains. -/
def Obligations.OperandObjects : Prop :=
  (∀ (s : State) (c : Ctx) (n b d : BitVec 6) (tile : Bool), s.ctx? = some c →
    let w := (c.g.s b).toNat
    let count := (c.g.s n).toNat
    let claim := if tile then Instr.aclaim n b d else .oclaim n b d
    let release := if tile then Instr.arel n b else .orel n b
    let objects := releaseRun tile w count
    (runWordBad tile w count = true → exec claim s = .next (c.stopped s c.illegal)) ∧
    (∀ i, (objects.find? fun i => s.ownerOf c.core tile i != some c.age) = some i → exec release s = .next (c.stopped s (slotTrap i))) ∧
    ((∀ i ∈ objects, s.ownerOf c.core tile i = some c.age) → runWordBad tile w count = true ∨ w / 2 ^ 7 % 2 = 1 →
      exec release s = .next (c.stopped s c.illegal)) ∧
    (runWordBad tile w count = false →
      (s.claimFirst c.core tile w count = none → ScalarResult s c claim d (.allOnes 64)) ∧
      (∀ first, s.claimFirst c.core tile w count = some first →
        let s1 := (List.range count).foldl (fun t i => t.claimObject c.core tile (first + i) c.age) s
        exec claim s = .next (c.holdPast (c.finish s1 fun g => g.setS d (.ofNat 64 first)) .claiming)) ∧
      (w / 2 ^ 7 % 2 = 0 →
        (∀ i ∈ objects, s.ownerOf c.core tile i = some c.age) →
        (tile = false → ∀ e ∈ (s.core c.core).aops, ∀ m t k, e.op = .engine (some m) t k → m ∉ objects) →
        exec release s = .next ((objects.foldl (fun t i => t.tryRelease c.core c.age tile i s.nextOp)
          (c.holdPast (c.finish s id) (.releasing tile objects s.nextOp))).endRelease c.core)))) ∧
  (∀ (s : State) (core first count age n : Nat) (tile : Bool),
    let t := (List.range count).foldl (fun t i => t.claimObject core tile (first + i) age) s
    t.ownerOf core tile n = (if first ≤ n ∧ n < first + count then some age else s.ownerOf core tile n) ∧
    (first ≤ n → n < first + count → if tile then (t.tile core n).data = [] ∧ (t.tile core n).rv = 0 else (t.operand core n).data = [])) ∧
  (∀ (s : State) (age entry : Nat) (g : Group) (f : Frag), Map.find? s.groups age = some g → g.frag? entry = some f →
    f.wait = .held → f.hold = .claiming →
    ∃ t g', exec (.claimZeroingDone age entry) s = .next t ∧ Map.find? t.groups age = some g' ∧ g'.SameRegisters g ∧
      g'.frag? entry = some { f with wait := .ready, hold := .none }) ∧
  (∀ (s : State) (core index age before : Nat) (tile : Bool), s.releaseOf core tile index = some (age, before) →
    exec (.objectRelease core tile index) s = .next ((s.tryRelease core age tile index before).endRelease core)) ∧
  (∀ (s : State) (core age before n : Nat) (tile : Bool), s.ownerOf core tile n = some age → s.objectBusy core tile n before = false →
    (s.tryRelease core age tile n before).ownerOf core tile n = none) ∧
  (∀ (s : State) (c : Ctx) (n : BitVec 3) (b a : BitVec 6), s.ctx? = some c →
    let k := n.toNat + 1
    let w := (c.g.s b).toNat
    let slot := w % 128
    let off := w / 2 ^ 7 % 128 * 128
    let used := fun i => decide (off ≤ i) && decide (i < off + 128 * k) && c.f.lanes.getLsbD ((i - off) / 4 % 32)
    c.Fits [(a.toNat, k)] →
    (c.Clean c.f.lanes [(a.toNat, k)] → c.ownsSlot s slot = true → slotWordBad w k = false →
      let data := (List.range k).flatMap fun j => (lanesOf c.f.lanes).map fun l => (off + 128 * j + 4 * l, c.g.vRun a.toNat j l)
      exec (.oput n b a) s = .next (c.finish ((State.onOperand { s with nextOp := s.nextOp + 1 } c.core slot fun o =>
        { o with ro := none, tag := 0 }).reachObject c.core
        { id := s.nextOp, age := c.age, cls := 0, queued := false, op := .oput slot off data }) id)) ∧
    (c.flagA.isSome = true → c.ownsSlot s slot = true → slotWordBad w k = false → c.checkLoading s [slot] = .ok () →
      c.checkSlotEcc s slot used = .ok () →
      exec (.oget n b a) s = .next (State.reachObject (c.launch (c.finish s id) c.flagA none (.object s.nextOp)) c.core
        { id := s.nextOp, age := c.age, cls := 0, queued := false, op := .oget slot off (c.g.vKey a.toNat) k c.f.lanes })) ∧
    (c.Clean c.f.lanes [(a.toNat, k)] → c.flagA.isSome = true → c.checkSlotEcc s slot used = .ok () → c.ownsSlot s slot = false →
      ∀ i ∈ [Instr.oput n b a, .oget n b a], exec i s = .next (c.stopped s (slotTrap slot)))) ∧
  (∀ (s : State) (core slot o id age : Nat) (v : Lane), (s.core core).aops = [] → o + 4 ≤ 16384 →
    let t := s.reachObject core { id := id, age := age, cls := 0, queued := false, op := .oput slot o [(o, v)] }
    (t.core core).aops = [] ∧ ∀ i, Map.get 0 (t.operand core slot).data i =
      if o ≤ i ∧ i < o + 4 then (valBytes 4 v.toNat).getD (i - o) 0 else Map.get 0 (s.operand core slot).data i) ∧
  (∀ (s : State) (c : Ctx) (y : Bool) (t : BitVec 5), s.ctx? = some c →
    (c.ownsTile s t.toNat = true →
      exec (.azero y t) s = .next (c.openObject (s.onTile c.core t.toNat fun k => { k with i32 := y }) (.azero t.toNat))) ∧
    (c.ownsTile s t.toNat = false → exec (.azero y t) s = .next (c.stopped s (slotTrap t.toNat)))) ∧
  (∀ (s : State) (c : Ctx) (t : BitVec 5) (b d : BitVec 6), s.ctx? = some c →
    let w := (c.g.s b).toNat
    let row0 := w % 64
    let rows := w / 2 ^ 8 % 8 + 1
    let used := fun i => decide (768 * row0 ≤ i) && decide (i < 768 * (row0 + rows)) && c.f.lanes.getLsbD (i % 768 / 24)
    c.flagA.isSome = true → w / 2 ^ 6 % 4 = 0 → w / 2 ^ 11 = 0 → row0 + rows ≤ 64 → c.Fits [(d.toNat, 6 * rows)] →
    c.checkTileEcc s t.toNat used = .ok () →
    (c.ownsTile s t.toNat = false → exec (.adrainV t b d) s = .next (c.stopped s (slotTrap t.toNat))) ∧
    (c.ownsTile s t.toNat = true →
      exec (.adrainV t b d) s = .next (State.reachObject (c.launch (c.finish s id) c.flagA none (.object s.nextOp)) c.core
        { id := s.nextOp, age := c.age, cls := 0, queued := false,
          op := .drainV t.toNat row0 rows (c.g.vKey d.toNat) c.f.lanes }))) ∧
  (∀ (s : State) (c : Ctx) (n : BitVec 5) (src : BitVec 6) (f b x : Bool), s.ctx? = some c →
    let w := (c.g.s src).toNat
    c.checkTileEcc s n.toNat (fun _ => true) = .ok () →
    (128 ≤ w → exec (.adrainO n src f b x) s = .next (c.stopped s c.illegal)) ∧
    (w < 128 → c.ownsTile s n.toNat = true → c.ownsSlot s w = true → (s.tile c.core n.toNat).i32 = false →
      exec (.adrainO n src f b x) s = .next (c.openObject (s.onOperand c.core w fun o =>
        { o with ro := none, tag := if b then (if x then 2 else 1) else 0 })
        (.drainO n.toNat w (if f then 1 else 0) b x c.g.sys.fpctl.toNat))))

/-- R302 to R316, R318, R326 to R333: MMA and MMAS, AFENCE, the gang register, AGUIDE and ADRAIN.G, the gang latch, the
array's steps, guided drains and batches. That the operation which the array runs counts among the 32 of its queue
is the model's choice (log 127). -/
def Obligations.ArrayAndGangs : Prop :=
  (∀ (s : State) (c : Ctx) (sparse : Bool) (t : BitVec 5) (f m k : BitVec 6), s.ctx? = some c →
    let i := if sparse then Instr.mmas t f m k else .mma t f m k
    let w := (c.g.s k).toNat
    let a := w % 128
    let side := w / 2 ^ 16 % 128
    let bs := w / 2 ^ 8 % 128
    let mine := if sparse then [a, side] else [a]
    let fmt := c.g.v f.toNat (lowestLane c.f.lanes)
    let n := stepCount w * fwSlots fmt.toNat
    let brun := (List.range n).map (bs + ·)
    let i32 := (s.tile c.core t.toNat).i32
    let part : MmaPart :=
      { age := c.age, num := c.g.id.num, entry := c.entry, pc := c.pc, lanes := c.f.lanes, op := s.nextOp, tile := t.toNat,
        slotA := a, side := side, rows := c.g.s m, batch := c.g.work.batchCount }
    (c.g.flow.trapMode = true → exec i s = .next (c.stopped s c.illegal)) ∧
    (c.g.flow.trapMode = false → c.Fits [(f.toNat, 1)] → c.Clean c.f.lanes [(f.toNat, 1)] → c.f.lanes ≠ 0 →
      stepWordBad w sparse = false → c.ownsTile s t.toNat = true → (∀ x ∈ mine, c.ownsSlot s x = true) →
      (∀ l ∈ lanesOf c.f.lanes, c.g.v f.toNat l = fmt) → formatBad fmt.toNat sparse i32 = false →
      (∀ x ∈ brun, x ≤ 127 ∧ c.gangOwns s x = true) → stepCount w ≤ fwLargest fmt.toNat →
      (fwScale fmt.toNat && scaleAxisBad (s.operand c.core a).tag (!fwAT fmt.toNat)) = false →
      c.checkOperands s (mine ++ brun) t.toNat = .ok () → c.checkLoading s (mine ++ brun) = .ok () →
      (c.g.sys.gang.valid = false → s.badAxisB c.core fmt.toNat bs n = none →
        (s.arrayRoom c.core = true →
          exec i s = .next (c.finish (State.reachObject { s with nextOp := s.nextOp + 1 } c.core
            { id := s.nextOp, age := c.age, cls := c.g.id.cls, queued := true,
              op := .mma sparse fmt bs n (stepCount w) 0 [part] }) fun g => { g with work := { g.work with openOps := g.work.openOps ++ [s.nextOp] } })) ∧
        (s.arrayRoom c.core = false → exec i s = .next (c.stopped s (.hold .arrayRoom)))) ∧
      (c.g.sys.gang.valid = true → s.exitedMember c.g = none → s.latchedOf c.g = none →
        exec i s = .next (c.latch s false sparse t.toNat fmt (c.g.s k) (c.g.s m))))) ∧
  (∀ (s : State) (c : Ctx) (d : BitVec 6), s.ctx? = some c →
    (∀ l ∈ s.partners c.g, c.g.sys.gang.pair = true ∧ c.g.work.batchCount + 1 ≤ l.batch) →
    ∃ g', exec (.afence d) s = .next (c.done { s with nextOp := s.nextOp + 1 } g') ∧ g'.work.openOps = [] ∧
      g'.work.batchCount = (c.g.work.batchCount + 1) % 2 ^ 64 ∧
      g'.s d = (if d = 63#6 then 0 else .ofNat 64 ((c.g.work.batchCount + 1) % 2 ^ 64)) ∧ (∀ n, n ≠ d → g'.s n = c.g.s n) ∧
      (c.g.work.openOps ≠ [] → { num := s.nextOp, ops := c.g.work.openOps } ∈ g'.work.batches)) ∧
  (∀ (s : State) (age : Nat) (g : Group), Map.find? s.groups age = some g →
    ∃ t g', exec (.batchComplete age) s = .next t ∧ Map.find? t.groups age = some g' ∧ g'.SameRegisters g ∧
      g'.work.batches = g.work.batches.dropWhile (·.ops.isEmpty)) ∧
  (∀ (s : State) (c : Ctx) (n : BitVec 6) (a : BitVec 6), s.ctx? = some c →
    let joins := fun (pair : Bool) (m : Lane) => c.finish s fun g =>
      { g with sys := { g.sys with gang := { valid := true, pair := pair, cohort := n.toNat, members := m } } }
    exec (.aguide a) s = .next (c.finish s fun g => { g with sys := { g.sys with guideW := c.g.s32 a } }) ∧
    (c.g.flow.trapMode = true → ∀ i ∈ [Instr.gangset n, .gangsetPair n], exec i s = .next (c.stopped s c.illegal)) ∧
    (c.g.flow.trapMode = false →
      (s.gangCohort c.g n.toNat true = none → exec (.gangsetPair n) s = .next (c.stopped s c.illegal)) ∧
      (n.toNat < 16 → s.gangCohort c.g n.toNat false = none → exec (.gangset n) s = .next (c.stopped s c.illegal)) ∧
      (s.partners c.g = [] →
        (∀ m, s.gangCohort c.g n.toNat true = some m → exec (.gangsetPair n) s = .next (joins true m)) ∧
        (∀ m, n.toNat < 16 → s.gangCohort c.g n.toNat false = some m → exec (.gangset n) s = .next (joins false m)) ∧
        (16 ≤ n.toNat → exec (.gangset n) s = .next (c.finish s fun g => { g with sys := { g.sys with gang := GangReg.none } }))))) ∧
  (∀ (s : State) (c : Ctx) (t : BitVec 5), s.ctx? = some c → c.g.flow.trapMode = false → c.g.sys.gang.valid = true →
    c.g.sys.gang.pair = true → c.ownsTile s t.toNat = true → (s.tile c.core t.toNat).i32 = false → s.exitedMember c.g = none →
    c.checkTileEcc s t.toNat (fun _ => true) = .ok () → s.latchedOf c.g = none →
    exec (.adrainG t) s = .next (c.latch s true false t.toNat 0 0 0)) ∧
  (∀ (s : State) (wg cohort : Nat) (w : Workgroup) (ls : List Latched), Map.find? s.wgs wg = some w →
    s.fullLatch w.core wg cohort = some ls →
    exec (.gangLatchOpen wg cohort) s = .next (s.openLatch w.core ls) ∧
    ∀ t, s.latchTrap w.core ls = some t → s.openLatch w.core ls = ls.foldl (fun u l => u.trapLatched w.core l t) s) ∧
  (∀ (s : State) (core : Nat) (e : ObjectEntry) (sparse : Bool) (fmt : BitVec 32) (bs run steps next : Nat) (parts : List MmaPart),
    s.arrayNext core = some e → e.op = .mma sparse fmt bs run steps next parts →
    let s1 := ((s.traceStop core e.id).runStep core fmt.toNat bs steps next parts).onCore core fun c =>
      { c.count 0x0307 (64 * parts.length) with running := some e.id }
    (next + 1 < steps → exec (.arrayKStep core) s = .next (s1.onCore core fun c => { c with aops := c.aops.map fun d =>
      if d.id == e.id then { d with op := .mma sparse fmt bs run steps (next + 1) parts } else d })) ∧
    (steps ≤ next + 1 → exec (.arrayKStep core) s = .next (((State.onCore (parts.foldl (fun t p =>
      (t.onTile core p.tile fun k => { k with rv := k.rv ||| p.rows }).finishOpen p.age p.op 0) s1) core fun c =>
        { c with running := none }).dropObject core e.id).pumpObjects core))) ∧
  (∀ (s : State) (age entry : Nat) (g : Group) (f : Frag), Map.find? s.groups age = some g → g.frag? entry = some f →
    s.arrayRoom g.id.core = true → s.latchedOf g = none → f.wait = .held → f.hold = .arrayRoom →
    ∃ t g', exec (.arrayQueueEntry age entry) s = .next t ∧ Map.find? t.groups age = some g' ∧ g'.SameRegisters g ∧
      g'.frag? entry = some { f with wait := .ready }) ∧
  (∀ (s : State) (core tc tu ageC ageU opC opU : Nat) (w : Lane) (e : ObjectEntry) (parts : List MmaPart),
    ((s.core core).aops.find? fun e => s.objectReady core e && match e.op with
      | .guided _ _ _ _ _ _ _ _ => true
      | _ => false) = some e → e.op = .guided tc tu w ageC ageU opC opU parts →
    let c := s.tile core tc
    let u := s.tile core tu
    let r := guideTile w c.rv u.rv (cellsArray 0 12288 c.data) (cellsArray 0 12288 u.data)
    exec (.guidedDrain core) s = .next (((((s.onTile core tc fun t => { t with data := arrayCells 0 r.1, rv := c.rv ||| u.rv }).finishOpen
      ageC opC r.2).finishOpen ageU opU 0).dropObject core e.id).pumpObjects core))

/-- R336 to R338, R340 to R349, R351, R352: LNCH, TRIG and PRIO, the ports, the start of a launch, QRES and the reset of
a queue. That LNCH.try runs in trap mode is the model's choice (log 71: R346 makes only LNCH ILLEGAL there). -/
def Obligations.LaunchesAndQueues : Prop :=
  (∀ (s s1 s2 : State) (c : Ctx) (b d : BitVec 6) (l : List Byte) (t : List Word), s.ctx? = some c → c.flagA.isSome = true →
    let a := c.g.s b
    let rule : AccessRule := { right := .read }
    let r := wordsOf l
    let q := s.queue (recQueue r)
    let k := recCohorts r
    s.spaceBad c.g rule { lane := 32, addr := a, size := 64 } = false → s.isRemote a = false → a.toNat % 64 = 0 →
    c.readRight s a 64 = .ok (l, s1) → q.gle = true → q.ctx = c.ctx → recordBad r = false →
    (k = 0 ∧ t = [] ∧ s2 = s1 ∨ k ≠ 0 ∧ s.spaceBad c.g rule { lane := 32, addr := k, size := 128 } = false ∧ s.isRemote k = false ∧
      ∃ l2, c.readRight s1 k 128 = .ok (l2, s2) ∧ t = wordsOf l2 ∧ tableBad (recGroups r) t = false) →
    s2.launchBefore c.age (c.opLimit s2) = false →
    let s3 := s2.flushNc c.core
    let answers := fun (u : State) (v : Word) => Host.Outcome.next
      (c.launch (c.finish u fun g => g) c.flagA none (.result [] [(c.g.sKey d, v)] 0))
    let accepted := s3.acceptLaunch (recQueue r) r t
    (q.pend < 64 → (c.g.flow.trapMode = false → exec (.lnch b d) s = answers accepted.2 accepted.1) ∧
      exec (.lnchTry b d) s = answers accepted.2 accepted.1) ∧
    (64 ≤ q.pend → (c.g.flow.trapMode = false → exec (.lnch b d) s = .next (c.stopped s (.hold (.queueRoom (recQueue r))))) ∧
      exec (.lnchTry b d) s = answers s3 (.allOnes 64))) ∧
  (∀ (s : State) (c : Ctx) (b d : BitVec 6), s.ctx? = some c →
    (c.g.flow.trapMode = true ∨ c.flagA = none → exec (.lnch b d) s = .next (c.stopped s c.illegal)) ∧
    (c.flagA = none → exec (.lnchTry b d) s = .next (c.stopped s c.illegal)) ∧
    (c.g.flow.trapMode = true → exec .trig s = .next (c.stopped s c.illegal)) ∧
    (c.g.flow.trapMode = false → c.Released s →
      exec .trig s = .next ((c.finish (s.eagerRelease c.core c.age) id).triggerGroup c.age c.g.id.wg))) ∧
  (∀ (s : State) (q : Nat) (r t : List Word),
    let k := s.queue q
    let v := s.acceptLaunch q r t
    v.1 = .ofNat 64 (q * 2 ^ 22 + k.accepted % 2 ^ 22) ∧ (v.2.queue q).accepted = k.accepted + 1 ∧
    ∃ x, (v.2.queue q).pending = k.pending ++ [x] ∧ x.id = v.1 ∧ x.words = r ∧ x.cohorts = t ∧ x.ctx = k.ctx) ∧
  (∀ (s : State) (age wg : Nat) (g : Group), Map.find? s.groups age = some g →
    ∃ g', Map.find? (s.triggerGroup age wg).groups age = some g' ∧ g'.work.triggered = true ∧ g'.SameRegisters g) ∧
  (∀ (s : State) (c : Ctx) (b a : BitVec 6), s.ctx? = some c →
    let q := (c.g.s a).toNat
    let level := (c.g.s b).toNat
    (c.g.flow.trapMode = false → exec (.prio b a) s = .next (c.stopped s c.priv)) ∧
    (c.g.flow.trapMode = true → 1024 ≤ q ∨ 15 < level → exec (.prio b a) s = .next (c.stopped s c.illegal)) ∧
    (c.g.flow.trapMode = true → q < 1024 → level ≤ 15 →
      exec (.prio b a) s = .next (c.finish (s.onQueue q fun k => { k with prio := level }) id))) ∧
  (∀ (s : State) (core q off size : Nat) (v : BitVec 64),
    let e := Event.launchPortWrite core q off size v
    let i := Instr.launchPortWrite ⟨core, q⟩ off size v
    let s0 := s.served e
    let k := s0.queue q
    let l := valBytes (min size 8) v.toNat
    let last := off ≤ 63 ∧ 63 < off + l.length
    let staged := s0.onQueue q fun k => { k with stage := Map.setRun 0 k.stage off (l.take (64 - off)) }
    (s.coreBlocked e core = true → exec i s = .next (s.keep e)) ∧
    (s.coreBlocked e core = false →
      (k.rbusy = true → exec i s = .next s0) ∧
      (k.rbusy = false → ¬ last → exec i s = .next staged) ∧
      (k.rbusy = false → last → k.pend < 64 → exec i s = .next (staged.submit q)) ∧
      (k.rbusy = false → last → 64 ≤ k.pend → exec i s = .next (s.keep e)))) ∧
  (∀ (s : State) (q : Nat) (l : Launch) (rest : List Launch), (s.queue q).pending = l :: rest →
    ((s.queue q).mayStart = false → exec (.launchStart q) s = .next s) ∧
    ((s.queue q).mayStart = true → ∃ t, exec (.launchStart q) s = .next t ∧ t.queue q =
      { s.queue q with pending := rest, started := (s.queue q).started ++ [l], trig := (s.queue q).trig - recWait l.words })) ∧
  (∀ (s : State) (q : Nat) (v : BitVec 64),
    let rh := v.toNat % 256
    let rf := v.toNat / 256 % 256
    let others := s.queues.filter fun p => p.1 != q
    let tooMuch := 224 < rh + (others.map fun p => p.2.rh).sum ∨ 224 < rf + (others.map fun p => p.2.rf).sum
    (tooMuch → exec (.qresWrite q v) s = .next (s.onQueue q fun k => { k with rerr := true })) ∧
    (¬ tooMuch → exec (.qresWrite q v) s = .next (s.onQueue q fun k => { k with rh := rh, rf := rf }))) ∧
  (∀ (s : State) (q : Nat), ∃ t, exec (.queueReset q) s = .next t ∧ (t.queue q).rbusy = true ∧ (t.queue q).pending = [] ∧
    (t.queue q).started = [] ∧ (t.queue q).trig = 0 ∧ ∀ p ∈ t.wgs, p.2.queue ≠ q) ∧
  (∀ (s : State) (q : Nat), (s.queue q).rbusy = true →
    ∃ t, exec (.queueResetComplete q) s = .next t ∧ t.queue q = { s.queue q with rbusy := false })

/-- R91, R339, R343, R353 to R362, R374 to R378: RGROW and RSHRINK, COHORT, the placement of a workgroup and the state
of a new group, saving, restoring and retiring. Model's choices: that a group of the sub-core which is being saved
or restored already puts the eviction of R91 off (log 129), and that a save which finds no room waits (log 42). -/
def Obligations.GrowthAndGroups : Prop :=
  (∀ (s : State) (c : Ctx) (a b d : BitVec 6), s.ctx? = some c →
    let k := (c.g.s a).toNat
    let alloc := c.g.regs.alloc
    (c.g.flow.trapMode = true ∨ k % 32 ≠ 0 → ∀ i ∈ [Instr.rgrow a, .rshrink a], exec i s = .next (c.stopped s c.illegal)) ∧
    (c.g.flow.trapMode = false → k = 0 → alloc ≤ 512 → ∀ i ∈ [Instr.rgrow a, .rshrink a], exec i s = .next (c.finish s id)) ∧
    (c.g.flow.trapMode = false → k % 32 = 0 → k ≠ 0 →
      (512 < alloc + k → exec (.rgrow a) s = .next (c.stopped s (.trap { cause := .rgrowExceeds, word := c.g.s a }))) ∧
      (alloc + k ≤ 512 → exec (.rgrow a) s = .next (((c.heldState s .rgrow).onGroup c.age Group.countIssue).onCore c.core fun d =>
        { d with grow := d.grow ++ [{ age := c.age, entry := c.entry, pc := c.pc, count := k }] })) ∧
      (alloc < k + 32 → exec (.rshrink a) s = .next (c.stopped s c.illegal)) ∧
      (k + 32 ≤ alloc → (∀ p ∈ s.pend, p.age = c.age → s.writesAbove (alloc - k) p = false) →
        ∃ g', exec (.rshrink a) s = .next (c.done s g') ∧ g'.regs.alloc = alloc - k ∧ g'.regs.s = c.g.regs.s ∧
          (∀ i, i < 32 * (alloc - k) → Map.get 0 g'.regs.v i = Map.get 0 c.g.regs.v i) ∧
          (∀ i, 32 * (alloc - k) ≤ i → Map.get 0 g'.regs.v i = 0))) ∧
    (16 ≤ (c.g.s b).toNat → ScalarResult s c (.cohort b d) d 0) ∧
    (∀ w, s.wgOf c.g = some w →
      ((c.g.s b).toNat < 16 → ScalarResult s c (.cohort b d) d (w.cohort (c.g.s b).toNat)) ∧
      ∃ m, ScalarResult s c (.cohortSelf d) d m ∧ ∀ i, m.getLsbD i =
        (decide (i < 16) && cohortDefined (w.cohort i) && hasGroup (cohortMembers (w.cohort i)) c.g.id.num))) ∧
  (∀ (s : State) (core : Nat) (r : GrowReq) (rest : List GrowReq) (g : Group), (s.core core).grow = r :: rest →
    Map.find? s.groups r.age = some g →
    (s.growReady core = false → exec (.rgrowGrant core) s = .next s) ∧
    (s.growReady core = true → ∃ t g', exec (.rgrowGrant core) s = .next t ∧ (t.core core).grow = rest ∧
      Map.find? t.groups r.age = some g' ∧ g'.regs.alloc = g.regs.alloc + r.count ∧ g'.regs.s = g.regs.s ∧
      (∀ i, i < 32 * g.regs.alloc → Map.get 0 g'.regs.v i = Map.get 0 g.regs.v i) ∧
      (∀ i, 32 * g.regs.alloc ≤ i → Map.get 0 g'.regs.v i = 0) ∧
      ∀ f ∈ g.flow.frags, f.entry = r.entry → f.pc = r.pc → f.hold = .rgrow →
        { f with pc := f.pc + 4, wait := .ready, hold := .none, age := 0 } ∈ g'.flow.frags)) ∧
  (∀ (s : State) (core : Nat) (r : GrowReq) (rest : List GrowReq) (own : Group) (u : EvictUnit),
    (s.core core).grow = r :: rest → Map.find? s.groups r.age = some own → s.growStalled core = true →
    youngest (((s.coreGroups core).filter fun p => !((s.gangOf own).map (·.1)).contains p.1 && p.2.id.saving == 0).map fun p =>
      s.unitOf [] p.2) = some u → u.ages ≠ [] →
    exec (.rgrowStallEvict core) s = .next (if s.storeRoom u.ages then (s.beginSave u.ages 3).onCore core fun c =>
      { c with grow := { r with pressed := true } :: c.grow.tail } else s)) ∧
  (∀ (l : List EvictUnit) (u : EvictUnit), youngest l = some u → u ∈ l ∧ ∀ v ∈ l, v.age ≤ u.age) ∧
  (∀ (s : State) (core sub : Nat), (∀ p ∈ s.subGroups core sub, s.starved p.2 = false) →
    exec (.splitEntryHoldEvict core sub) s = .next s) ∧
  (∀ (s : State) (core sub : Nat) (p : Nat × Group), ((s.subGroups core sub).find? fun p => s.starved p.2) = some p →
    let others := (s.subGroups core sub).filter fun q => q.1 != p.1
    let many := others.filter fun q => decide (8 < q.2.flow.frags.length)
    let pool := if many.isEmpty then others else many
    let ps := s.priorities
    ((∃ q ∈ s.subGroups core sub, q.2.id.saving ≠ 0) ∨ pool = [] → exec (.splitEntryHoldEvict core sub) s = .next s) ∧
    ((∀ q ∈ s.subGroups core sub, q.2.id.saving = 0) → pool ≠ [] → ∃ q ∈ pool,
      (∀ r ∈ pool, Map.get 0 ps q.1 ≤ Map.get 0 ps r.1 ∧
        (Map.get 0 ps q.1 = Map.get 0 ps r.1 → (s.unitOf ps r.2).age ≤ (s.unitOf ps q.2).age)) ∧
      let ages := (s.gangOf q.2).map (·.1)
      (s.storeRoom ages = true → exec (.splitEntryHoldEvict core sub) s = .next (s.beginSave ages 1)) ∧
      (s.storeRoom ages = false → exec (.splitEntryHoldEvict core sub) s = .next s))) ∧
  (∀ (s : State) (ages : List Nat) (reason age : Nat) (g : Group), Map.find? s.groups age = some g →
    ∃ g', Map.find? (s.beginSave ages reason).groups age = some g' ∧ g'.SameRegisters { g with id := g'.id } ∧
      g'.id.saving = if age ∈ ages then reason else g.id.saving) ∧
  (∀ (id : Ident) (x : GroupStart) (entry clock : Nat),
    let g := Group.create id x entry clock
    g.s 0 = x.args ∧ g.s 1 = x.coords ∧ g.s 2 = .ofNat 64 id.num ∧ (∀ n : BitVec 6, 3 ≤ n.toNat → g.s n = 0) ∧
    (∀ n l, g.v n l = 0) ∧ (∀ n, g.m n = 0) ∧ g.regs.c = 0 ∧ g.flow.live = .allOnes 32 ∧ g.flow.trapMode = false ∧
    (∃ f, g.flow.frags = [f] ∧ f.pc = x.entry ∧ f.lanes = .allOnes 32 ∧ f.needHeader = true ∧ f.wait = .ready) ∧
    g.sys.fpctl = 0 ∧ g.sys.fpstat = 0 ∧ g.sys.lossScale = 0x3F800000 ∧ g.sys.guideW = 0x3F800000 ∧ g.sys.ackbar = 0 ∧
    g.sys.privHwm = x.privHwm ∧ g.sys.rsBase = x.rsBase ∧ g.sys.rsDepth = 0 ∧ g.sys.trapVec = x.trapVec) ∧
  (∀ (s : State) (q : Nat) (l : Launch), (s.queue q).offers = some l →
    (∀ core, s.placeable l = some core → exec (.workgroupPlace q) s = .next (((s.newRound (s.launchPrio l)).placeOn core l).onQueue q fun k =>
      { k with placed := k.placed + 1, started := k.started.map fun m => if m.id = l.id then { m with next := m.next + 1 } else m })) ∧
    (∀ core ages, s.placeable l = none → s.placePlan l = some (core, ages) → exec (.workgroupPlace q) s = .next (s.beginSave ages 1)) ∧
    (s.placeable l = none → s.placePlan l = none → exec (.workgroupPlace q) s = .next s)) ∧
  (∀ (s : State) (age reason : Nat) (g : Group), Map.find? s.groups age = some g → g.id.resident = true → 1 ≤ reason → reason ≤ 4 →
    let e := Event.groupSave age reason
    let s1 := s.served e
    let ages := (s.gangOf g).map (·.1)
    let s2 := s1.beginSave ages reason
    (g.id.saving = 0 → s.storeRoom ages = false → exec (.groupSave age reason) s = .next (s.keep e)) ∧
    (g.id.saving = 0 → s.storeRoom ages = true → (∀ h, Map.find? s2.groups age = some h → s2.saveReady h = false) →
      exec (.groupSave age reason) s = .next s2) ∧
    (g.id.saving ≠ 0 → g.id.saving ≠ 5 → s.saveReady g = true →
      exec (.groupSave age reason) s = .next (ages.foldl (fun t a => t.saveGroup a g.id.saving) s1))) ∧
  (∀ (s : State) (age reason : Nat) (g : Group), Map.find? s.groups age = some g →
    ∃ g' i, Map.find? (s.saveGroup age reason).groups age = some g' ∧ g'.id.resident = false ∧ g'.id.saving = 0 ∧
      g'.saved = some i ∧ i.reason = reason ∧ g'.regs = g.regs ∧ g'.sys = g.sys) ∧
  (∀ (s : State) (age : Nat) (g : Group), Map.find? s.groups age = some g →
    (g.id.resident = true → g.id.saving = 5 → s.reloaded g = true →
      exec (.groupRestore age) s = .next ((s.onGroup age fun g => { g with id := { g.id with saving := 0 } }).back age)) ∧
    (g.id.resident = false → ∀ core, s.restoreCore g = some core →
      let s1 := if ((s.wgOf g).map (·.saved)).getD false then s.bringWorkgroup g.id.wg core (s.restoreNeeds g) else s
      let w := s1.applyWritten ((s.restoreUnit g).map (·.1))
      exec (.groupRestore age) s = .next ((w.2.foldl (fun t a => t.restoreGroup core a) w.1).backAll w.2)) ∧
    (g.id.resident = false → s.restoreCore g = none → ∀ core ages, s.restorePlan g = some (core, ages) →
      exec (.groupRestore age) s = .next (s.beginSave ages 1))) ∧
  (∀ (s : State) (core age : Nat) (g : Group) (i : Saved), Map.find? s.groups age = some g → g.saved = some i →
    (∀ p ∈ i.slots, p.2.ro = none) →
    ∃ g', Map.find? (s.restoreGroup core age).groups age = some g' ∧ g'.id.resident = true ∧ g'.id.core = core ∧ g'.id.saving = 0 ∧
      g'.saved = none ∧ g'.regs = g.regs ∧ g'.flow.live = g.flow.live ∧ g'.flow.frags.length = g.flow.frags.length) ∧
  (∀ (s : State) (op : Nat) (p : Pend) (g : Group), (s.pend.find? fun p => p.id == op) = some p → Map.find? s.groups p.age = some g →
    (g.id.resident = true → exec (.saveAgentApply op) s = .next s) ∧
    (g.id.resident = false → ∀ l l1 s1, p.kind = .load l → s.serveLanes p l (fun _ => true) = (l1, s1) →
      let leaves := fun (vw : List (Nat × Lane)) (sw : List (Nat × Word)) (fp : Flags) =>
        exec (.saveAgentApply op) s = .next (((s1.writeBack p vw sw fp).unpark p.id).deliverDeclined p.age)
      ((∀ a ∈ l1.addrs, l1.waits a.1 = false) → (l1.kind = 0 → leaves l1.cells [] l1.fp) ∧
        (l1.kind = 1 → leaves [] (l1.staged.map fun q => (l1.reg, .ofNat 64 (bytesVal q.2))) 0)) ∧
      ((∃ a ∈ l1.addrs, l1.waits a.1 = true ∧ l1.isSynonym a.1 = false) →
        exec (.saveAgentApply op) s = .next (s1.onPend p.id (.load l1))))) ∧
  (∀ (s : State) (op : Nat) (r : RemoteSub) (g : Group), (s.pend.find? fun p => p.id == op) = none →
    (s.remote.find? fun r => r.id == op) = some r → Map.find? s.groups r.age = some g → g.id.resident = false → r.entered = true →
    (∀ l ∈ r.lines, l.over = true) → exec (.saveAgentApply op) s = .next (s.finishSub r false).pumpRemote) ∧
  (∀ (s : State) (wg : Nat) (w : Workgroup), Map.find? s.wgs wg = some w →
    (s.retires wg = false → exec (.workgroupRetire wg) s = .next s) ∧
    (s.retires wg = true → ∃ t, exec (.workgroupRetire wg) s = .next t ∧ Map.find? t.wgs wg = none))

/-- R92 to R94, R372, R379 to R383, R388: the four debug commands, a write to the image that the debug window shows, the
scrubber, and one cycle of a sub-core: what is selected, what issues with it, and what is counted. Model's choices:
that the selected fragment and its partner issue in the steps that follow, in this order, and the order of the sub-
cores in a period (log 2); that a step is over once the count of issued instructions has changed (log 40); that Save
does nothing, and is not refused, for a group which is not resident, is being saved, or finds no room in the save
store (log 42). -/
def Obligations.DebugAndIssueCycles : Prop :=
  (∀ s : State, Map.find? s.groups s.dbg.sel.toNat = none →
    exec .dbgcmdHalt s = .next (s.refuse true) ∧ exec .dbgcmdResume s = .next (s.refuse true) ∧
    exec .dbgcmdStep s = .next (s.refuse true) ∧ exec .dbgcmdSave s = .next (s.refuse true)) ∧
  (∀ (s : State) (g : Group), Map.find? s.groups s.dbg.sel.toNat = some g → g.id.age = s.dbg.sel.toNat →
    let leaves := fun (i : Instr) (halted : Bool) (more : State → Group → Prop) => ∃ t g', exec i s = .next t ∧
      t.dbg.refused = false ∧ Map.find? t.groups s.dbg.sel.toNat = some g' ∧ g'.id = { g.id with halted := halted } ∧
      g'.regs = g.regs ∧ g'.sys = g.sys ∧ more t g'
    (g.id.halted = true ∨ s.sending g.id.age = false → leaves .dbgcmdHalt true (fun _ g' => g'.saved = g.saved)) ∧
    (g.id.halted = false → s.sending g.id.age = true →
      leaves .dbgcmdHalt false (fun t g' => g'.saved = g.saved ∧ g.id.age ∈ t.dbg.halting)) ∧
    (g.id.dbl = true → exec .dbgcmdResume s = .next (s.refuse true) ∧ exec .dbgcmdStep s = .next (s.refuse true)) ∧
    (g.id.dbl = false → leaves .dbgcmdResume false (fun _ g' => g'.saved = g.wantBack.saved) ∧
      leaves .dbgcmdStep true (fun t g' => g'.saved = g.wantBack.saved ∧ t.dbg.stepping = some (s.dbg.sel.toNat, g.work.issued))) ∧
    (let ages := (s.gangOf g).map (·.1)
     exec .dbgcmdSave s =
       .next ((if g.id.resident = true ∧ g.id.saving = 0 ∧ s.storeRoom ages = true then s.beginSave ages 4 else s).refuse false))) ∧
  (∀ (s : State) (age : Nat) (g : Group), Map.find? s.groups age = some g → g.id.age = age → g.id.halted = false →
    s.sending age = false → ∃ g', Map.find? (s.haltNow age).groups age = some g' ∧ g'.id = { g.id with halted := true } ∧
      g'.regs = g.regs ∧ age ∉ (s.haltNow age).dbg.halting) ∧
  (∀ (s : State) (off : Nat) (b : BitVec 8),
    (s.shownImage = [] → exec (.debugImageWrite off b) s = .next s) ∧
    ((∀ f ∈ s.shownImage, ¬ (f.pos ≤ off ∧ off < f.pos + f.size)) → exec (.debugImageWrite off b) s = .next s) ∧
    ∀ f, fieldAt s.shownImage off = some f → f.pos ≤ off ∧ off < f.pos + f.size ∧ ∃ v, exec (.debugImageWrite off b) s = .next (f.write v s) ∧
      v / 2 ^ (8 * (off - f.pos)) % 256 = b.toNat ∧
      ∀ k, k ≠ off - f.pos → v / 2 ^ (8 * k) % 256 = f.val / 2 ^ (8 * k) % 256) ∧
  (∀ s : State, (∀ g, Map.find? s.groups s.dbg.sel.toNat = some g → g.saved = none ∨ g.id.halted = false) → s.shownImage = []) ∧
  (∀ (s : State) (core : Nat),
    let n := ((s.coreGroups core).map fun p => p.2.regs.poison.length).sum
    ∃ t, exec (.registerFileScrub core) s = .next t ∧ t.groups = s.groups ∧ t.mem = s.mem ∧
      Map.get 0 t.plat.rasCnt 16 = Map.get 0 s.plat.rasCnt 16 + BitVec.ofNat 64 n ∧
      (n = 0 → t = s) ∧
      (n ≠ 0 → Map.get 0 (t.core core).counters 0x0306 = (Map.get 0 (s.core core).counters 0x0306 + n) % 2 ^ 64)) ∧
  (∀ s : State,
    (∀ k, s.nextTurn = some k → s.turn ≤ k ∧ (k / 4, k % 4) ∈ s.turns ∧
      ∀ p ∈ s.turns, s.turn ≤ 4 * p.1 + p.2 → k ≤ 4 * p.1 + p.2) ∧
    (s.nextTurn = none ↔ ∀ p ∈ s.turns, 4 * p.1 + p.2 < s.turn) ∧
    ∀ core sub, (core, sub) ∈ s.turns ↔ ∃ p ∈ s.groups, p.2.id.resident = true ∧ p.2.id.core = core ∧ subOf p.2.id.slot = sub ∧
      (s.core core).phase = false) ∧
  (∀ (s : State) (core sub : Nat),
    let s1 := s.wake core sub
    let groups := s1.subGroups core sub
    let ready := groups.map fun p => s1.readyFrags (s1.subCore core sub) p.2
    let eligible := ready.filterMap candidate?
    ∃ t, exec (.subcoreIssueCycle core sub) s = .next t ∧ t.mem = s.mem ∧ t.pend = s.pend ∧ t.agenda = s.agenda ∧
      (let bucket := min eligible.length 16
       let before := fun (b : Nat) => Map.get 0 (s.subCore core sub).hist b + if b = 0 then s.emptyCycles core sub else 0
       Map.get 0 (t.subCore core sub).hist bucket = (before bucket + 1) % 2 ^ 64 ∧
       (bucket ≠ 0 → Map.get 0 (t.subCore core sub).hist 0 = before 0 % 2 ^ 64)) ∧
      (∀ age g, Map.find? s.groups age = some g → ∃ g', Map.find? t.groups age = some g' ∧ g'.SameRegisters g) ∧
      (eligible = [] → t.issuing = s.issuing ∧ t.groups = s1.groups) ∧
      (eligible ≠ [] → ∃ p extra, p ∈ eligible ∧ t.issuing = s.issuing ++ (p.age, p.f.entry, false) :: extra ∧
        (∀ q ∈ eligible, selectBefore s1.priorities q p = false) ∧
        (extra = [] ∨ ∃ q ∈ ready.flatten, extra = [(q.age, q.f.entry, true)] ∧ q.age = p.age ∧ q.f.entry ≠ p.f.entry ∧
          packable p.len p.word = true ∧ packable q.len q.word = true ∧ slicesOf q.f.lanes &&& slicesOf p.f.lanes = 0)))

/-- R9, R196, R379, R390, R391, R396, R399, R400: what a control core, another package that uses this one as a home, and
a PCIe port do to the registers and the memory of this package. Model's choices: that an access of a control core
that cannot be translated ends in an access fault (log 27), that all accesses of one control core are in order (log
103: R390 orders only its windows, and leaves memory to fences), and which AER bits a PCIe error sets (log 98). -/
def Obligations.AccessesOfOtherAgents : Prop :=
  (∀ (s : State) (core off : Nat) (v : BitVec 64),
    let e := Event.registerWrite core off v
    (s.boot.verified = false → exec (.registerWrite ⟨core, off⟩ v) s = .next (s.served e)) ∧
    (s.boot.verified = true → s.coreBlocked e core = true → exec (.registerWrite ⟨core, off⟩ v) s = .next (s.keep e))) ∧
  (∀ (s : State) (core : Nat) (v : BitVec 64), s.boot.verified = true →
    let at_ := fun (off : Nat) => s.served (.registerWrite core off v)
    let free := fun (off : Nat) => s.coreBlocked (.registerWrite core off v) core = false
    let writes := fun (off : Nat) (f : State → State) => free off → exec (.registerWrite ⟨core, off⟩ v) s = .next (f (at_ off))
    writes 0x400000000 (fun t => { t with win := { t.win with mctBase := v } }) ∧
    writes 0x400000008 (fun t => { t with win := { t.win with xlRoot := v } }) ∧
    writes 0x400000010 (fun t => t.writeFaultReg 0x010 v) ∧
    writes 0x400000020 (fun t => t) ∧
    writes 0x400000030 (fun t => if v.toNat / 2 ^ 62 = 1 then t.resumeToken (v.toNat % 2 ^ 32)
      else if v.toNat / 2 ^ 62 = 2 then t.declineToken (v.toNat % 2 ^ 32) else t) ∧
    writes 0x400000040 (fun t => { t with win := { t.win with sdBase := v } }) ∧
    writes 0x400000048 (fun t => { t with win := { t.win with sdLen := v } }) ∧
    writes 0x400000050 (fun t => t.writeSdctl v) ∧
    writes 0x600000000 (fun t => { t with dbg := { t.dbg with tvtBase := v } }) ∧
    writes 0x600000008 (fun t => { t with dbg := { t.dbg with trBase := v } }) ∧
    writes 0x600000040 (fun t => { t with dbg := { t.dbg with sel := v } }) ∧
    writes 0x600000048 (fun t => if v.toNat % 8 = 1 then t.cmdHalt else if v.toNat % 8 = 2 then t.cmdResume
      else if v.toNat % 8 = 3 then t.cmdStep else if v.toNat % 8 = 4 then t.cmdSave else t) ∧
    writes 0x600000050 (fun t => t) ∧
    writes 0x800000008 (fun t => { t with win := { t.win with cxRoot := v } }) ∧
    writes 0x800000010 (fun t => { t with plat := { t.plat with pwrLim := v.toNat % 4096 } }) ∧
    writes 0x800000018 (fun t => t) ∧
    writes 0x800000120 (fun t => { t with plat := { t.plat with hmDest := v } }) ∧
    (∀ w, w < 4 → writes (0x600000080 + 16 * w) (fun t => { t with dbg := { t.dbg with wpBase := Map.set 0 t.dbg.wpBase w v } }) ∧
      writes (0x600000088 + 16 * w) (fun t => { t with dbg := { t.dbg with
        wpCtl := Map.set 0 t.dbg.wpCtl w (v &&& 0xFFF000001FF#64) } })) ∧
    (∀ i, i < 8 → writes (0x800000080 + 8 * i) (fun t => { t with plat := { t.plat with irqTgt := Map.set 0 t.plat.irqTgt i v } })) ∧
    (∀ i, i < 4 → writes (0x800000140 + 8 * i) (fun t => { t with plat := { t.plat with
      pcieCtl := Map.set 0 t.plat.pcieCtl i (v &&& 0xFFF#64) } })) ∧
    (∀ off, off / 2 ^ 32 < 4 ∨ 8 < off / 2 ^ 32 → writes off fun t => t) ∧
    ∀ off, off / 2 ^ 32 = 5 → free off → ∀ t, ((at_ off).writeWindow (off / 8 * 8) 8 v.toNat = some t → exec (.registerWrite ⟨core, off⟩ v) s = .next t) ∧
      ((at_ off).writeWindow (off / 8 * 8) 8 v.toNat = none → exec (.registerWrite ⟨core, off⟩ v) s = .next (s.keep (.registerWrite core off v)))) ∧
  (∀ (s : State) (core pa size : Nat) (op : AgentOp),
    let e := Event.controlCoreAccess core pa size op
    (s.boot.verified = false → exec (.controlCoreAccess pa size ⟨core, op⟩) s = .next (s.served e)) ∧
    (s.boot.verified = true → s.coreBlocked e core = true →
      exec (.controlCoreAccess pa size ⟨core, op⟩) s = .next (s.keep e)) ∧
    (s.boot.verified = true → s.coreBlocked e core = false → op = .fence →
      exec (.controlCoreAccess pa size ⟨core, op⟩) s = .next (s.served e))) ∧
  (∀ (s : State) (core o size : Nat) (op : AgentOp), s.boot.verified = true → op ≠ .fence →
    let reach := fun (pa vk : Nat) =>
      let e := Event.controlCoreAccess core pa size op
      let s0 := s.served e
      let does := fun (t : State) => exec (.controlCoreAccess pa size ⟨core, op⟩) s = .next t
      s.coreBlocked e core = false →
      (s.agentWaits vk (opSize size op) = true → does (s.keep e)) ∧
      (s.agentWaits vk (opSize size op) = false →
        (∀ h, s0.farOp vk size op = some h → does (s0.askHome (vk % 2 ^ 48) h (.core core))) ∧
        (s0.farOp vk size op = none →
          (∀ l t, s0.agentPerform vk size op = .ok (l, t) →
            (∀ v, op = .write v → does t) ∧ (∀ b, op = .store b → does t) ∧
            (op = .read ∨ (∃ code x y, op = .atomic code x y) ∨ (∃ u, op = .object u) → does (t.send (.read (BitVec.ofNat 64 (bytesVal l)))))) ∧
          ∀ d, s0.agentPerform vk size op = .error d → does (s0.send (.accessFault pa))))
    let stops := fun (pa : Nat) => s.coreBlocked (.controlCoreAccess core pa size op) core = false →
      exec (.controlCoreAccess pa size ⟨core, op⟩) s = .next ((s.served (.controlCoreAccess core pa size op)).send (.accessFault pa))
    (o < 2 ^ 48 → reach o (2 ^ 62 + o) ∧ reach (3 * 2 ^ 52 + o) (s.tensorAddr o).toNat) ∧
    (2 ^ 48 ≤ o → o < 2 ^ 52 → stops o ∧ stops (3 * 2 ^ 52 + o)) ∧
    (2 ^ 40 ≤ o → o < 2 ^ 52 → stops (2 ^ 52 + o)) ∧ (2 ^ 42 ≤ o → o < 2 ^ 52 → stops (2 * 2 ^ 52 + o)) ∧ stops (4 * 2 ^ 52 + o) ∧
    ((∃ code a b, op = .atomic code a b) ∨ (∃ b, op = .store b) ∨ (∃ u, op = .object u) → o < 2 ^ 52 → stops (2 ^ 52 + o) ∧ stops (2 * 2 ^ 52 + o))) ∧
  (∀ (s : State) (core o size : Nat) (v : BitVec 64), s.boot.verified = true →
    let er := fun (pa : Nat) => Event.controlCoreAccess core pa size .read
    let ew := fun (pa : Nat) => Event.controlCoreAccess core pa size (.write v)
    let reads := fun (pa : Nat) (m : Message) => s.coreBlocked (er pa) core = false →
      exec (.controlCoreAccess pa size ⟨core, .read⟩) s = .next ((s.served (er pa)).send m)
    let writes := fun (pa : Nat) (t : State) => s.coreBlocked (ew pa) core = false →
      exec (.controlCoreAccess pa size ⟨core, .write v⟩) s = .next t
    (o < 2 ^ 40 → reads (2 ^ 52 + o) (.read (BitVec.ofNat 64 (s.readWindow o size))) ∧
      (∀ t, (s.served (ew (2 ^ 52 + o))).writeWindow o size v.toNat = some t → writes (2 ^ 52 + o) t) ∧
      ((s.served (ew (2 ^ 52 + o))).writeWindow o size v.toNat = none → writes (2 ^ 52 + o) (s.keep (ew (2 ^ 52 + o))))) ∧
    (o < 2 ^ 42 → reads (2 * 2 ^ 52 + o) (.pcieAccess (o / 2 ^ 40) (o % 2 ^ 40) size none) ∧
      writes (2 * 2 ^ 52 + o)
        ((s.served (ew (2 * 2 ^ 52 + o))).send (.pcieAccess (o / 2 ^ 40) (o % 2 ^ 40) size (some v))))) ∧
  (∀ (s : State) (r : HomeRequest),
    let e := Event.controlHomeRequest r
    let kept := s.fabric.answered.filter fun a => !(a.1 == r.src && r.acks.contains a.2.1)
    let s1 : State := { s with fabric := { s.fabric with answered := kept } }
    let s0 := s1.served e
    let line := lineOf (2 ^ 62 + r.off)
    (∀ a, (kept.find? fun a => a.1 == r.src && a.2.1 == r.tag) = some a →
      exec (.controlHomeRequest r) s = .next (s0.answerHome r.src r.tag line a.2.2)) ∧
    ((∀ a ∈ kept, ¬ (a.1 = r.src ∧ a.2.1 = r.tag)) →
      (r.src ∈ s.fabric.lost ∨ 2 ^ 48 ≤ r.off ∨ s.homedHere r.off = false ∨ (∃ p ∈ s.fabric.replies, p.1 = r.src ∧ p.2.1 = r.tag) →
        exec (.controlHomeRequest r) s = .next s0) ∧
      (r.src ∉ s.fabric.lost → r.off < 2 ^ 48 → s.homedHere r.off = true → (∀ p ∈ s.fabric.replies, ¬ (p.1 = r.src ∧ p.2.1 = r.tag)) →
        let vk := 2 ^ 62 + r.off
        let waits := (if r.src = s.pkg then s.underShootdown vk = true else s.agentWaits vk (opSize r.size r.op) = true) ∨
          line ∈ s.fabric.copies
        let dirty := s.mirrorPkg r.off ≠ s.pkg ∧ line ∈ s.mem.unmirrored
        (waits → exec (.controlHomeRequest r) s = .next (s1.keep e)) ∧
        (¬ waits → dirty → exec (.controlHomeRequest r) s = .next ((s1.keep e).sendCopy line none)) ∧
        (¬ waits → ¬ dirty →
          (∀ d, s0.agentPerform (2 ^ 62 + r.off) r.size r.op = .error d →
            exec (.controlHomeRequest r) s = .next (s0.failHome r.src r.tag line d)) ∧
          ∀ l t, s0.agentPerform (2 ^ 62 + r.off) r.size r.op = .ok (l, t) →
            exec (.controlHomeRequest r) s = .next (t.homeDone r l))))) ∧
  (∀ (t : State) (r : HomeRequest) (l : List Byte) (d : Nat),
    let line := lineOf (2 ^ 62 + r.off)
    let rest := t.fabric.answered.filter fun a => !(a.1 == r.src && a.2.1 == r.tag)
    let u : State := { t with fabric := { t.fabric with answered := (r.src, r.tag, l) :: rest } }
    (r.src ≠ t.pkg → t.answerHome r.src r.tag line l = u.send (.homeReply r.src r.tag line l) ∧
      t.failHome r.src r.tag line d = t.send (.homeFailure r.src r.tag line d)) ∧
    (r.src = t.pkg → t.answerHome r.src r.tag line l = { u with arrivals := t.arrivals ++ [.homeAnswer r.tag l] } ∧
      t.failHome r.src r.tag line d = { t with arrivals := t.arrivals ++ [.homeFailed r.tag d] }) ∧
    (t.mirrorPkg r.off ≠ t.pkg → line ∈ t.mem.unmirrored →
      let c := t.sendCopy line (some (r.src, r.tag, l))
      t.homeDone r l = { c with fabric := { c.fabric with replies := c.fabric.replies ++ [(r.src, r.tag, l, line)] } }) ∧
    (t.mirrorPkg r.off = t.pkg ∨ line ∉ t.mem.unmirrored → t.homeDone r l = t.answerHome r.src r.tag line l)) ∧
  (∀ (s : State) (port size : Nat) (a x y : BitVec 64) (data : List (BitVec 8)) (op : PcieAtomic),
    let er := Event.pcieInboundRead port a size
    let ew := Event.pcieInboundWrite port a data
    let ea := Event.pcieAtomicop port a size op x y
    (s.portUp port = false → exec (.pcieInboundRead port a size) s = .next (s.served er) ∧
      exec (.pcieInboundWrite port a data) s = .next (s.served ew) ∧ exec (.pcieAtomicop port a size op x y) s = .next (s.served ea)) ∧
    (s.portUp port = true →
    (s.portWaits er a.toNat size = true → exec (.pcieInboundRead port a size) s = .next (s.keep er)) ∧
    (s.portWaits er a.toNat size = false →
      (s.pcieKey port a size (·.rd) = none → exec (.pcieInboundRead port a size) s = .next ((s.served er).pcieRefuse port false)) ∧
      ∀ vk, s.pcieKey port a size (·.rd) = some vk →
        (∀ l t, (s.served er).llcReads vk size = .ok (l, t) →
          exec (.pcieInboundRead port a size) s = .next (t.send (.pcieCompletion port l))) ∧
        ∀ d, (s.served er).llcReads vk size = .error d → exec (.pcieInboundRead port a size) s = .next ((s.served er).pcieRefuse port false)) ∧
    (s.portWaits ew a.toNat data.length = true → exec (.pcieInboundWrite port a data) s = .next (s.keep ew)) ∧
    (s.portWaits ew a.toNat data.length = false →
      (s.pcieKey port a data.length (·.wr) = none → exec (.pcieInboundWrite port a data) s = .next ((s.served ew).pcieRefuse port true)) ∧
      ∀ vk, s.pcieKey port a data.length (·.wr) = some vk →
        (s.asksHome vk = true → exec (.pcieInboundWrite port a data) s =
          .next ((linePieces vk data).foldl (fun t p => t.askHome (p.1 % 2 ^ 48) (.write (p.2.map some)) (.port port)) (s.served ew))) ∧
        (s.asksHome vk = false →
          (∀ t, (s.served ew).agentWrite vk data = .ok t → exec (.pcieInboundWrite port a data) s = .next t) ∧
          ∀ d, (s.served ew).agentWrite vk data = .error d →
            exec (.pcieInboundWrite port a data) s = .next ((s.served ew).pcieRefuse port true))) ∧
    (s.portWaits ea a.toNat size = true → exec (.pcieAtomicop port a size op x y) s = .next (s.keep ea)) ∧
    (s.portWaits ea a.toNat size = false →
      (size ≠ 4 ∧ size ≠ 8 ∨ a.toNat % size ≠ 0 ∨ s.pcieKey port a size (·.at_) = none →
        exec (.pcieAtomicop port a size op x y) s = .next ((s.served ea).pcieRefuse port false)) ∧
      (size = 4 ∨ size = 8 → a.toNat % size = 0 → ∀ vk, s.pcieKey port a size (·.at_) = some vk →
        (s.asksHome vk = true → exec (.pcieAtomicop port a size op x y) s =
          .next ((s.served ea).askHome (vk % 2 ^ 48) (.atomic (pcieCode size op) x y) (.port port))) ∧
        (s.asksHome vk = false →
          (∀ l t, (s.served ea).agentPerform vk size (.atomic (pcieCode size op) x y) = .ok (l, t) →
            exec (.pcieAtomicop port a size op x y) s = .next (t.send (.pcieCompletion port l))) ∧
          ∀ d, (s.served ea).agentPerform vk size (.atomic (pcieCode size op) x y) = .error d →
            exec (.pcieAtomicop port a size op x y) s = .next ((s.served ea).pcieRefuse port false)))))) ∧
  (∀ (s : State) (port : Nat) (a : BitVec 64) (n : Nat) (right : Rights → Bool) (vk : Nat),
    s.pcieKey port a n right = some vk ↔ vk = a.toNat ∧ (space? a = some .control ∨ space? a = some .tensor ∧ pkgOf a = s.pkg) ∧
      a.toNat % 2 ^ 48 + n ≤ 2 ^ 48 ∧ ∀ i, i < pageOf (vk + n - 1) + 1 - pageOf vk →
        right (s.walkRights ((Map.get 0 s.plat.pcieCtl port).toNat % 4096) (BitVec.ofNat 64 ((pageOf vk + i) * 65536))) = true) ∧
  (∀ (s : State) (port : Nat), s.pcieRefuse port true = s.ras 15 0 0 0 ∧
    s.pcieRefuse port false = (s.ras 15 0 0 0).send (.pcieUnsupported port) ∧
    (s.portUp port = true ↔ s.boot.verified = true ∧ port < 4) ∧
    (s.portUp port = false → ∀ c, exec (.pcieErrorReported port c) s = .next s) ∧
    (s.portUp port = true →
      let s1 := fun (b : BitVec 2) => ({ s with plat := { s.plat with aer := Map.set 0 s.plat.aer port (Map.get 0 s.plat.aer port ||| b) } } : State)
      exec (.pcieErrorReported port true) s = .next (((s1 1).rasFree 13).signal 7) ∧
      exec (.pcieErrorReported port false) s = .next (((s1 2).rasFree 14).signal 7)))

/-- R372, R393, R397, R398, R401 to R408, R410, R411: links, heartbeats and the loss of packages, time alignment, boot
and joining the rack, the hallmark, margins, droop and power, and ECC events. Model's choices: the time goes out
with each heartbeat (log 104); the slew and the one step forward (log 48); a further rack record changes nothing
once the rack is brought up, and a record before boot is lost (logs 105, 45), as is how the packages of the rack
count as heard; a granule in rebuilding whose home is lost counts as lost in both (log 46); the copies of a rebuild
stream at the notice, and it completes when they are with their mirrors (log 47); what is measured at boot (log 43);
what an undervoltage clears and keeps (log 44); the 4-byte word of the L1 and the granules that are poisoned (log
18); the stack that an HBM granule's unit names (log 79); and the free values for a margin plan and for a die or
unit that nothing states (log 4). -/
def Obligations.RackAndPlatform : Prop :=
  (∀ (s : State) (port pkg : Nat),
    (144 ≤ port → exec (.flitCrcFail port) s = .next s ∧ exec (.linkDown port) s = .next s) ∧
    (port < 144 → exec (.flitCrcFail port) s = .next (State.ras { s with fabric := { s.fabric with
      crcFails := Map.set 0 s.fabric.crcFails port (Map.get 0 s.fabric.crcFails port + 1) } } 11 0 0 0)) ∧
    (Map.get 0 s.fabric.crcFails port < 16 ∨ port ∈ s.fabric.down → exec (.linkDown port) s = .next s) ∧
    (port < 144 → 16 ≤ Map.get 0 s.fabric.crcFails port → port ∉ s.fabric.down →
      exec (.linkDown port) s = .next (State.rasFree { s with fabric := { s.fabric with down := port :: s.fabric.down } } 12) ∧
      port ∉ State.planes { s with fabric := { s.fabric with down := port :: s.fabric.down } }) ∧
    (s.boot.verified = true ∧ s.boot.joined = true ∧ s.fabric.beatAt ≤ s.timeNs →
      let s1 := State.send { s with fabric := { s.fabric with beatAt := s.timeNs + 10000 } } .heartbeat
      (s.livePackages.head? = some s.pkg → exec .heartbeatSend s = .next (s1.send (.timeSync (BitVec.ofNat 64 s.timeNs)))) ∧
      (s.livePackages.head? ≠ some s.pkg → exec .heartbeatSend s = .next s1)) ∧
    (¬ (s.boot.verified = true ∧ s.boot.joined = true ∧ s.fabric.beatAt ≤ s.timeNs) → exec .heartbeatSend s = .next s) ∧
    exec (.heartbeatReceive pkg) s = .next { s with fabric := { s.fabric with
      heard := Map.set 0 s.fabric.heard pkg s.timeNs, suspected := s.fabric.suspected.filter (· != pkg) } } ∧
    (s.live pkg = true → pkg ≠ s.pkg → Map.get 0 s.fabric.heard pkg + 200000 ≤ s.timeNs → pkg ∉ s.fabric.suspected →
      exec (.peerSuspect pkg) s = .next (State.sendNotices { s with fabric := { s.fabric with suspected := pkg :: s.fabric.suspected } })) ∧
    (s.live pkg = false ∨ pkg = s.pkg ∨ s.timeNs < Map.get 0 s.fabric.heard pkg + 200000 ∨ pkg ∈ s.fabric.suspected →
      exec (.peerSuspect pkg) s = .next s) ∧
    (s.lowestLive ≠ some s.pkg → s.sendNotices = s) ∧
    (s.boot.joined = true → s.fabric.isolated = false →
      2 * (s.livePackages.filter s.heardLately).length < s.livePackages.length → exec .packageIsolated s =
        .next ((List.range 1024).foldl (fun (t : State) q => t.resetQueue q 2) { s with fabric := { s.fabric with isolated := true } })) ∧
    (s.boot.joined = false ∨ s.fabric.isolated = true ∨ s.livePackages.length ≤ 2 * (s.livePackages.filter s.heardLately).length →
      exec .packageIsolated s = .next s)) ∧
  (∀ (s : State) (p : Nat),
    let s0 := s.served (.lossNotice p)
    (s.live p = false ∨ p = s.pkg → exec (.lossNotice p) s = .next s0) ∧
    (s.live p = true → p ≠ s.pkg →
      let w := Map.get 0 s.plat.live (p / 64)
      let s1 : State := { s0 with
        plat := { s.plat with live := Map.set 0 s.plat.live (p / 64) (w &&& ~~~(1#64 <<< (p % 64))) },
        fabric := { s.fabric with lost := insertNat s.fabric.lost p, suspected := s.fabric.suspected.filter (· != p),
                                  answered := s.fabric.answered.filter fun a => a.1 != p } }
      s1.live p = false ∧ (∀ q, q ≠ p → s1.live q = s.live q) ∧
      let s2 := s1.plat.home.foldl (fun t c => t.rehome p c) s1
      let s2 := s.plat.home.foldl (fun t c => t.streamGranule p c) s2
      let s3 := (s.fabric.asks.filter fun a => s.homePkg a.off == p).foldl (fun t a => t.resendAsk a) s2
      exec (.lossNotice p) s = .next (((((s3.signal 1).losePeer p).loseWherry p).loseFerry p).shootdownAnswer p).sendNotices) ∧
    (let pending := fun (line : Nat) => line ∈ s.fabric.copies ∧ line * 128 % 2 ^ 48 / 2 ^ 30 ∈ s.fabric.rebuilding
     ((∃ line, pending line) → exec .lossRebuildComplete s = .next s) ∧
     ((∀ line, ¬ pending line) → exec .lossRebuildComplete s = .next { s with fabric := { s.fabric with rebuilding := [] } })) ∧
    ∀ a : HomeAsk,
      (s.homeValid a.off = false → s.resendAsk a = { s with arrivals := s.arrivals ++ [.homeFailed a.tag 1] }) ∧
      (s.homeValid a.off = true → s.homedHere a.off = false →
        s.resendAsk a = s.send (.homeRequest (s.homePkg a.off) a.tag a.off a.op [])) ∧
      (s.homeValid a.off = true → s.homedHere a.off = true →
        s.resendAsk a = { s with inbox := s.inbox ++ [(false, .controlHomeRequest (a.request s.pkg))] })) ∧
  (∀ (s : State) (p g : Nat) (e : BitVec 32),
    let home := e.toNat % 512
    let mirror := e.toNat / 512 % 512
    (e.toNat < 2 ^ 31 → s.rehome p (g, e) = s) ∧
    (2 ^ 31 ≤ e.toNat → home ≠ p → mirror ≠ p → s.rehome p (g, e) = s) ∧
    (2 ^ 31 ≤ e.toNat → home = p → g ∈ s.fabric.rebuilding ∨ s.live mirror = false →
      let t := State.dropGranule { s with plat := { s.plat with home := Map.set 0 s.plat.home g 0 } } g
      s.rehome p (g, e) = t.rasFree 10 ∧
      (∀ off, off < 2 ^ 48 → off / 2 ^ 30 = g → Map.find? t.mem.llc (2 ^ 62 + off) = none) ∧
      ∀ off, off < 2 ^ 48 → off / 2 ^ 30 ≠ g → Map.find? t.mem.llc (2 ^ 62 + off) = Map.find? s.mem.llc (2 ^ 62 + off)) ∧
    (2 ^ 31 ≤ e.toNat → home = p → g ∉ s.fabric.rebuilding → s.live mirror = true →
      s.rehome p (g, e) = { s with
        plat := { s.plat with home := Map.set 0 s.plat.home g (homeWord mirror (s.nextLive mirror)) },
        fabric := { s.fabric with rebuilding := insertNat s.fabric.rebuilding g,
                                  taken := if mirror = s.pkg then insertNat s.fabric.taken g else s.fabric.taken } }) ∧
    (2 ^ 31 ≤ e.toNat → home ≠ p → mirror = p →
      s.rehome p (g, e) = { s with
        plat := { s.plat with home := Map.set 0 s.plat.home g (homeWord home (s.nextLive home)) },
        fabric := { s.fabric with rebuilding := insertNat s.fabric.rebuilding g } })) ∧
  (∀ (s : State) (p g : Nat) (e : BitVec 32),
    let moved := 2 ^ 31 ≤ e.toNat ∧ (e.toNat % 512 = p ∨ e.toNat / 512 % 512 = p) ∧ s.homedHere (g * 2 ^ 30) = true ∧
      s.mirrorPkg (g * 2 ^ 30) ≠ s.pkg
    let t := s.streamGranule p (g, e)
    (¬ moved → t = s) ∧
    (moved → t.groups = s.groups ∧ t.plat = s.plat ∧ t.mem.llc = s.mem.llc ∧ t.mem.phys = s.mem.phys ∧
      ∀ line ∈ s.granuleLines g, line ∈ t.fabric.copies ∧ line ∉ t.mem.unmirrored)) ∧
  (∀ (s : State) (port : Nat),
    (Map.get 0 s.fabric.crcFails port < 16 → Map.get 0 (s.flitGood port).fabric.crcFails port = 0) ∧
    (16 ≤ Map.get 0 s.fabric.crcFails port → s.flitGood port = s) ∧
    (s.agenda = [] → s.issuing = [] → s.boot.verified = true → s.stepOver = false → s.haltDue = none → port < 144 →
      16 ≤ Map.get 0 s.fabric.crcFails port → port ∉ s.fabric.down →
      ∃ q, q < 144 ∧ q ∉ s.fabric.down ∧ (∃ n, (q, n) ∈ s.fabric.crcFails ∧ 16 ≤ n) ∧ step s = exec (.linkDown q) s)) ∧
  (∀ (s : State) (d : Int),
    let s1 : State := { s with plat := { s.plat with timeOfs := BitVec.ofInt 64 d } }
    let s2 := if 100 < d.natAbs then s1.rasFree 18 else s1
    (s.livePackages.head? = some s.pkg → exec (.timeSyncMessage d) s = .next s) ∧
    (s.livePackages.head? ≠ some s.pkg → s.boot.stepped = false → s.boot.queued = false → d < 0 → exec (.timeSyncMessage d) s =
      .next { s2 with time8 := s2.time8 + 8 * d.natAbs, boot := { s2.boot with stepped := true }, plat := { s2.plat with slew := 0 } }) ∧
    (s.livePackages.head? ≠ some s.pkg → s.boot.stepped = true ∨ s.boot.queued = true ∨ 0 ≤ d → exec (.timeSyncMessage d) s =
      .next { s2 with plat := { s2.plat with slew := -8 * d } })) ∧
  (∀ (s : State) (i : BootImage),
    (s.boot.verified = true → exec (.bootVerify i) s = .next s) ∧
    (s.boot.verified = false → bootChecks s.boot.rollback i = false → exec (.bootVerify i) s = .next (s.send .managementFailure)) ∧
    (s.boot.verified = false → bootChecks s.boot.rollback i = true → ∃ t, exec (.bootVerify i) s = .next t ∧
      t.boot.verified = true ∧ t.boot.rollback = fieldVal i.record 8 8 ∧ t.boot.record = i.record ∧ t.boot.epoch = s.boot.epoch ∧
      t.boot.joined = s.boot.joined ∧ t.win.xlRoot = .ofNat 64 (fieldVal i.record 3808 8) ∧
      t.win.cxRoot = .ofNat 64 (fieldVal i.record 3816 8) ∧ t.win.mctBase = s.win.mctBase ∧ t.mem = s.mem ∧ t.groups = s.groups)) ∧
  (∀ (s : State) (l : List (BitVec 8)),
    (s.boot.verified = false → exec (.rackAssignmentRecord l) s = .next s) ∧
    (s.boot.verified = true → s.rackChecks l = false → exec (.rackAssignmentRecord l) s = .next (s.ras 19 0 0 0)) ∧
    (s.boot.verified = true → s.rackChecks l = true → s.boot.joined = true ∨ s.boot.queued = true →
      exec (.rackAssignmentRecord l) s = .next s) ∧
    (s.boot.verified = true → s.rackChecks l = true → s.boot.joined = false → s.boot.queued = false →
      ∃ t, exec (.rackAssignmentRecord l) s = .next t ∧
      let n := fieldVal l 22 2 % 1024
      t.pkg = fieldVal l 20 2 % 512 ∧ t.rackN = n ∧ t.pkg < n ∧ n ≤ 512 ∧ t.boot.joined = true ∧ t.boot.epoch = fieldVal l 24 8 ∧
      (∀ p, p < 512 → t.live p = decide (p < n)) ∧
      (∀ g, g < 128 * n → Map.get 0 t.plat.home g = homeWord (g / 128) ((g / 128 + 1) % n)) ∧
      (∀ g, 128 * n ≤ g → Map.get 0 t.plat.home g = 0) ∧
      (∀ p, p < n → Map.get 0 t.fabric.heard p = s.timeNs) ∧ t.mem = s.mem)) ∧
  (∀ s : State, exec .hallmarkRequest s = .next { s with plat := { s.plat with hmBusy := true } } ∧
    (s.plat.hmBusy = false ∨ s.hallmarkWaits = true → exec .hallmarkComplete s = .next s) ∧
    (s.plat.hmBusy = true → s.hallmarkWaits = false →
      (∀ d, s.hallmarkDest = some d →
        let s1 := s.controlWrite d s.hallmarkReport
        exec .hallmarkComplete s =
          .next ((State.send { s1 with plat := { s1.plat with hmBusy := false } } (.hallmark true)).signal 5)) ∧
      (s.hallmarkDest = none → exec .hallmarkComplete s =
        .next ((State.send { s with plat := { s.plat with hmErr := true, hmBusy := false } } (.hallmark false)).signal 5)))) ∧
  (∀ (s : State) (core mv w : Nat),
    exec (.assaySample core mv) s = .next { s with plat := { s.plat with assay := Map.set 0 s.plat.assay core mv } } ∧
    (∃ t, exec (.marginReplan core) s = .next t ∧ (∀ k, k ≠ core → Map.get 0 t.plat.margin k = Map.get 0 s.plat.margin k) ∧
      t.mem = s.mem ∧ t.groups = s.groups ∧
      let old := (Map.get 0 s.plat.margin core).toNat
      let new := (Map.get 0 t.plat.margin core).toNat
      (600 < Map.get 0 s.plat.assay core → new = 600 * 2 ^ 16 + 1200 ∧ Map.get 0 t.plat.rasCnt 17 = Map.get 0 s.plat.rasCnt 17 + 1) ∧
      (Map.get 0 s.plat.assay core ≤ 600 → 1200 ≤ old % 2 ^ 12 → old / 2 ^ 16 % 2 ^ 12 ≤ 600 →
        1200 ≤ new % 2 ^ 16 ∧ new % 2 ^ 16 ≤ old % 2 ^ 12 ∧ (old % 2 ^ 12 - new % 2 ^ 16) % 25 = 0 ∧
        old / 2 ^ 16 % 2 ^ 12 ≤ new / 2 ^ 16 ∧ new / 2 ^ 16 ≤ 600)) ∧
    exec (.droopDetect core) s = .next (s.onCore core fun c => { (c.count 0x0304 1) with half := true, phase := false }) ∧
    exec (.droopRestore core) s = .next (s.onCore core fun c => { c with half := false, phase := false }) ∧
    (∃ n d, exec (.powerLimitStep w) s =
        .next { s with plat := { s.plat with pwrNow := w % 4096, throttle := n, lowering := d } } ∧
      let limit := min s.plat.pwrLim 3400
      let lower := limit < w % 4096 ∨ s.plat.lowering = true ∧ w % 4096 = limit
      (d = true ↔ lower) ∧
      (lower → n = s.plat.throttle + 1) ∧
      (¬ lower → 100 * (w % 4096) < 95 * limit → n = s.plat.throttle - 1) ∧
      (¬ lower → 95 * limit ≤ 100 * (w % 4096) → n = s.plat.throttle)) ∧
    ∃ t, exec .inputUndervoltage s = .next t ∧ t.time8 = s.time8 ∧ t.boot.rollback = s.boot.rollback ∧ t.boot.epoch = s.boot.epoch ∧
      t.boot.verified = false ∧ t.groups = [] ∧ t.queues = [] ∧ t.win = State.reset.win ∧ t.dbg = State.reset.dbg ∧
      t.plat = State.reset.plat) ∧
  (∀ (s : State) (e : RasError),
    (e.correctable = true →
      (∀ n, e.place = .hbm n → exec (.rasErrorEvent e) s = .next (s.ras 4 e.die (n * 32 / 4096 % 16) e.location)) ∧
      (∀ n, e.place = .llc n → exec (.rasErrorEvent e) s =
        .next (s.ras (if n / 2 ^ 56 = 2 then 6 else 2) (s.rasUnit e).1 (s.rasUnit e).2 e.location)) ∧
      (∀ n b, e.place = .controlMemory n b → exec (.rasErrorEvent e) s = .next (s.ras 8 e.die e.unit e.location)) ∧
      ∀ age k g, e.place = .register age k → Map.find? s.groups age = some g → exec (.rasErrorEvent e) s =
        .next ((s.ras 0 (g.id.core / 48) (g.id.core % 48) e.location).onCore g.id.core fun c => c.count 0x0305 1)) ∧
    (e.correctable = false →
      let log := fun i => s.ras i (s.rasUnit e).1 (s.rasUnit e).2 e.location
      (∀ n, e.place = .controlMemory n false → exec (.rasErrorEvent e) s = .next (log 9)) ∧
      (∀ n, e.place = .controlMemory n true →
        exec (.rasErrorEvent e) s = .next (s.poisonKeys ((List.range 4).map fun i => 2 ^ 35 + n / 4 * 4 + i))) ∧
      (∀ core, s.rasCore e.place = some core → s.rasUnit e = (core / 48, core % 48)) ∧
      (∀ age k, e.place = .register age k → exec (.rasErrorEvent e) s = .next ((log 1).onGroup age fun g =>
        { g with regs := { g.regs with poison := if g.regs.poison.contains k then g.regs.poison else k :: g.regs.poison } })) ∧
      (∀ n, e.place = .hbm n → exec (.rasErrorEvent e) s = .next ((log 5).poisonKey n)) ∧
      (∀ n, e.place = .llc n → exec (.rasErrorEvent e) s = .next ((log (if n / 2 ^ 56 = 2 then 7 else 3)).poisonKey (2 ^ 100 + n))) ∧
      (∀ wg off, e.place = .sharedMem wg off → exec (.rasErrorEvent e) s = .next ((log 1).poisonKey (poisonShared wg off))) ∧
      (∀ core k, e.place = .slot core k → exec (.rasErrorEvent e) s = .next ((log 1).poisonKey (poisonSlot core k))) ∧
      (∀ core k, e.place = .tile core k → exec (.rasErrorEvent e) s = .next ((log 1).poisonKey (poisonTile core k))) ∧
      (∀ core vk, e.place = .dirtyL1 core vk → (∃ p ∈ (s.core core).l1, p.1 / 4 = vk / 4 ∧ p.2.dirty = true) →
        exec (.rasErrorEvent e) s = .next ((log 1).poisonKey (poisonL1 core vk))) ∧
      (∀ core, e.place = .cleanSram core → exec (.rasErrorEvent e) s = .next (log 0)))) ∧
  (∀ (s : State) (i d u l : Nat),
    let t := s.ras i d u l
    Map.get 0 t.plat.rasCnt i = Map.get 0 s.plat.rasCnt i + 1 ∧ (∀ k, k ≠ i → Map.get 0 t.plat.rasCnt k = Map.get 0 s.plat.rasCnt k) ∧
    t.mem = s.mem ∧ t.groups = s.groups ∧
    (i ∉ [1, 3, 5, 7, 9, 10, 12, 14, 16, 17, 18, 20] → t.plat.rasLogN = s.plat.rasLogN ∧ t.plat.rasLog = s.plat.rasLog) ∧
    (i ∈ [1, 3, 5, 7, 9, 10, 12, 14, 16, 17, 18, 20] → t.plat.rasLogN = s.plat.rasLogN + 1 ∧
      let e := Map.get 0 t.plat.rasLog (s.plat.rasLogN.toNat % 64)
      e.extractLsb' 0 64 = .ofNat 64 s.timeNs ∧ e.extractLsb' 64 8 = .ofNat 8 i ∧ e.extractLsb' 72 8 = .ofNat 8 d ∧
      e.extractLsb' 80 16 = .ofNat 16 u ∧ e.extractLsb' 96 32 = .ofNat 32 l))

/-- R31, R36, R44, R47, R49: words written out from the encoding tables decode to the instructions they stand for; a
word with a bit set that its row leaves out, an unassigned one, and one whose fields R54 calls ILLEGAL decode to
none. -/
def Obligations.DecodedWords : Prop :=
  decodeTableWord 32 0b0_1_011_0010_0001_000000000101_0000001 = some (.clauseHeader false true 3 2 1 5) ∧
  decodeTableWord 16 0b1_00011_00101_0001_0 = some (.vadd16 true 3 5) ∧
  decodeTableWord 32 0b0000001_000101_000110_000111_0000011 = some (.ssub 5 6 7) ∧
  decodeTableWord 32 0b0000000000101_000110_000111_1000111 = some (.sts 5 6 7) ∧
  decodeTableWord 32 0b0_1_011_0000101_000110_0001000_1001001 = some (.ldacq true 3 5 6 8) ∧
  decodeTableWord 32 0b01_00101_000000_000110_000_1_0_1_1110011 = some (.adrainO 5 6 true false true) ∧
  decodeTableWord 32 0b0_1_000_0001_0001_000000000000_0000001 = none ∧
  decodeTableWord 32 0b1111111_000101_000110_000111_0000011 = none ∧
  decodeTableWord 32 0b01_00101_000000_000110_001_1_0_1_1110011 = none ∧
  decodeTableWord 32 0b0_1_110_0000101_000110_0001000_1001001 = none

/-- R31, R36, R44, R47, R49, R54: for every well-formed instruction with an encoding, its word has its length, decodes
to it and to nothing else; and every word that decodes is the encoding of what it decodes to, so that each word has
one meaning and no bit is dropped. -/
def Obligations.DecodeAndEncodeAgree : Prop :=
  (∀ (i : Instr) (n w : Nat), i.wf = true → encode i = some (n, w) →
    (n = 16 ∨ n = 32) ∧ w < 2 ^ n ∧ (w % 2 = 1 ↔ n = 32) ∧ decode w = .ok i ∧ decodeTableWord n w = some i ∧
    ∀ rest : List Byte, decodeBytes (wordBytes (n / 8) w ++ rest) = some (n / 8, .ok i)) ∧
  (∀ (w : Nat) (i : Instr), decode w = .ok i → i.wf = true ∧ ∃ n, encode i = some (n, w)) ∧
  (∀ (i j : Instr) (n m w : Nat), i.wf = true → j.wf = true → encode i = some (n, w) → encode j = some (m, w) → i = j)

/-- R31 to R35, R53, R92, R116: what one step does. The event at the head of the agenda runs; else the fragment that the
last issue cycle selected runs the instruction that the halfwords at its pc decode to, or takes the trap that the
fetch, the clause or the decoder calls for. Model's choices: the agenda and the list of selected fragments, and that
an event which an agent held in reset would cause is lost (log 2); that both halfwords of a line come from one of
the copies that a fetch may see (log 19); that a fetch which must wait leaves the fragment to a later cycle (log 7);
and that the address after an instruction which could not be fetched is a free value (log 8). -/
def Obligations.StepRunsTheDecodedInstruction : Prop :=
  (∀ (s : State) (e : Event) (rest : List Event), s.agenda = e :: rest →
    (s.boot.verified = true ∨ ofBoard e = true → step s = exec (eventInstr e) { s with agenda := rest }) ∧
    (s.boot.verified = false → ofBoard e = false → step s = .next { s with agenda := rest })) ∧
  (∀ s : State, s.agenda = [] → s.issuing = [] → s.boot.verified = false → step s = .next { s.tick with arrivals := [], inbox := [] }) ∧
  (∀ (s : State) (age entry : Nat) (packed : Bool) (rest : List (Nat × Nat × Bool)) (g : Group) (f : Frag),
    s.agenda = [] → s.issuing = (age, entry, packed) :: rest →
    let s0 : State := { s with issuing := rest }
    Map.find? s.groups age = some g → g.frag? entry = some f → s0.mayIssue g = true → f.wait = .ready →
    (∀ n w s1, s0.fetch g f.pc = .ok (n, w, s1) →
      let cur : Cur := { age := age, entry := entry, len := n, word := w, packed := packed }
      let s2 : State := { s1 with cur := some cur, issueClock := s1.issueClock + 1 }
      let s3 : State := { s2 with issuing := (age, entry, packed) :: s2.issuing }
      let header := n = 4 ∧ isHeader w = true
      (∀ i, decode w = .ok i → (header → step s = exec i s3) ∧ (¬ header → f.bodyOk n = true → step s = exec i s2)) ∧
      (∀ d, decode w = .error d → (header → step s = .next s3.illegalHere) ∧
        (¬ header → f.bodyOk n = true → step s = .next s2.illegalHere)) ∧
      (¬ header → f.bodyOk n = false → step s = .next s2.illegalHere)) ∧
    (∀ t, s0.fetch g f.pc = .error (.trap t) →
      step s = .next (State.takeTrap { s0 with freeCtr := s.freeCtr + 1 } age (s0.unfetched f) t)) ∧
    (s0.fetch g f.pc = .error .wait → step s = .next s0)) ∧
  (∀ (s s0 s1 : State) (g : Group) (a : Word) (skip h : Nat), s.pickCode g (lineOf a.toNat) = (skip, s0) →
    s0.fetchHalf g skip a = .ok (h, s1) →
    (h % 2 = 0 → s.fetch g a = .ok (2, h, s1)) ∧
    (h % 2 = 1 → ∀ k s2,
      (lineOf (a + 2).toNat = lineOf a.toNat → s1.fetchHalf g skip (a + 2) = .ok (k, s2) →
        s.fetch g a = .ok (4, h + 65536 * k, s2)) ∧
      (lineOf (a + 2).toNat ≠ lineOf a.toNat → ∀ skip' s', s1.pickCode g (lineOf (a + 2).toNat) = (skip', s') →
        s'.fetchHalf g skip' (a + 2) = .ok (k, s2) → s.fetch g a = .ok (4, h + 65536 * k, s2)))) ∧
  (∀ (s : State) (g : Group) (line : Nat), (s.pickCode g line).1 ≤ (s.codePast g line).length ∧
    (s.codePast g line = [] → s.pickCode g line = (0, s))) ∧
  (∀ (s : State) (g : Group) (skip : Nat) (a : Word), space? a = some .control ∨ space? a = some .tensor ∧ pkgOf a = s.pkg →
    s.underShootdown a.toNat = false →
    ((s.rights g.id.core g.id.ctx a).1.ex = false → s.fetchHalf g skip a = .error (.trap { cause := .perm, addr := a })) ∧
    ((s.rights g.id.core g.id.ctx a).1.ex = true →
      ((s.rights g.id.core g.id.ctx a).2.llcReads a.toNat 2 = .error 5 →
        s.fetchHalf g skip a = .error (.trap { cause := .synonym, pc := a, addr := a })) ∧
      ∀ l s2, (s.rights g.id.core g.id.ctx a).2.llcReads a.toNat 2 = .ok (l, s2) →
        s.fetchHalf g skip a = .ok (bytesVal (undoBytes ((s2.codePast g (lineOf a.toNat)).take skip) a.toNat l), s2) ∧
        undoBytes [] a.toNat l = l))

/-- R9 and the register tables of the memory window, the queue block, the debug window and the platform window: what the
windows read after package reset, where the spec gives a value; TIMENS is zero at power-on (R384). Model's choices:
a configuration or rack field reads 0 until it is written, and the first token is 0 (log 3: R201 and Table 8.9 give
none); physical memory lists nothing, in its canonical form (log 1). -/
def Obligations.ValuesAtReset : Prop :=
  State.reset.mem.wf = true ∧ State.reset.mem.phys = [] ∧ State.reset.timeNs = 0 ∧ State.reset.pkg = 0 ∧ State.reset.tokens = 0 ∧
  State.reset.groups = [] ∧ State.reset.wgs = [] ∧ State.reset.shootdowns = [] ∧
  (∀ off ∈ [0x000, 0x010, 0x018, 0x020, 0x028, 0x030, 0x040, 0x048, 0x050], State.reset.readMemWindow off = 0) ∧
  (∀ off ∈ [0x000, 0x008, 0x040, 0x048, 0x050, 0x080, 0x088, 0x090, 0x098, 0x0A0, 0x0A8, 0x0B0, 0x0B8], State.reset.readDebug off = 0) ∧
  State.reset.readPlatform 0x000 = 0x800080000 ∧ State.reset.readPlatform 0x010 = 3400 ∧
  (∀ off ∈ [0x018, 0x020, 0x040, 0x048, 0x050, 0x058, 0x060, 0x068, 0x070, 0x078, 0x080, 0x088, 0x090, 0x098, 0x0A0, 0x0A8, 0x0B0, 0x0B8,
    0x100, 0x108, 0x110, 0x118, 0x120, 0x128, 0x140, 0x148, 0x150, 0x158, 0x3F8], State.reset.readPlatform off = 0) ∧
  (∀ i, i < 32 → Map.get 0 State.reset.plat.rasCnt i = 0) ∧ (∀ g, Map.get 0 State.reset.plat.home g = 0) ∧
  ∀ q, let k := State.reset.queue q
    k.ctx = 0 ∧ k.weight = 1 ∧ k.retry = 8 ∧ k.prio = 0 ∧ k.rbusy = false ∧ k.gle = false ∧ k.en = false ∧
    State.reset.readQueue q 0x40 = 2 ^ 32 + 8 * 2 ^ 28 ∧ State.reset.readQueue q 0x48 = 0 ∧ State.reset.readQueue q 0x50 = 0 ∧
    State.reset.readQueue q 0x58 = 0

/-- R6, R11, R205, R223: physical memory is one function of the address: its list stays sorted, without repeats and
without an entry equal to what an unlisted address reads as (log 1), whatever a step does, so that equal memories
are equal data. The form itself is the model's. -/
def Obligations.MemoryKeepsItsForm : Prop :=
  ∀ s t : State, s.mem.wf = true → step s = .next t → t.mem.wf = true
end

