-- ==== Sys2Proof/Laws/Maps.lean ====
section
/-! SUPPORT. The laws of sparse maps: what a read finds after a write, and that writes keep the canonical form. -/

namespace Sys2Proof.Machine.Map

variable {α : Type}

/-! ## Reads after writes.  They hold of every list, rising or not. -/

@[simp] theorem find?_nil (k : Nat) : find? ([] : Cells α) k = none := rfl

theorem find?_cons (p : Nat × α) (m : Cells α) (k : Nat) :
    find? (p :: m) k = if p.1 = k then some p.2 else find? m k := rfl

@[simp] theorem find?_insert (m : Cells α) (k : Nat) (a : α) (j : Nat) :
    find? (insert m k a) j = if k = j then some a else find? m j := by
  induction m with
  | nil => simp [insert, find?_cons]
  | cons p m ih =>
    obtain ⟨i, b⟩ := p
    simp only [insert]
    split
    · subst_vars; simp only [find?_cons]; split <;> simp_all
    · split
      · simp only [find?_cons]
      · simp only [find?_cons, ih]
        by_cases h : i = j <;> by_cases h' : k = j <;> simp_all

@[simp] theorem find?_erase (m : Cells α) (k j : Nat) : find? (erase m k) j = if k = j then none else find? m j := by
  induction m with
  | nil => simp [erase]
  | cons p m ih =>
    obtain ⟨i, b⟩ := p
    simp only [erase]
    split
    · subst_vars; simp only [ih, find?_cons]; split <;> simp_all
    · simp only [find?_cons, ih]
      by_cases h : i = j <;> by_cases h' : k = j <;> simp_all

theorem find?_insert_self (m : Cells α) (k : Nat) (a : α) : find? (insert m k a) k = some a := by simp

theorem find?_insert_ne {k j : Nat} (m : Cells α) (a : α) (h : k ≠ j) : find? (insert m k a) j = find? m j := by simp [h]

@[simp] theorem get_nil (d : α) (k : Nat) : get d ([] : Cells α) k = d := rfl

@[simp] theorem get_insert (d : α) (m : Cells α) (k : Nat) (a : α) (j : Nat) :
    get d (insert m k a) j = if k = j then a else get d m j := by
  unfold get; rw [find?_insert]; split <;> rfl

@[simp] theorem get_erase (d : α) (m : Cells α) (k j : Nat) : get d (erase m k) j = if k = j then d else get d m j := by
  unfold get; rw [find?_erase]; split <;> rfl

@[simp] theorem get_set [DecidableEq α] (d : α) (m : Cells α) (k : Nat) (a : α) (j : Nat) :
    get d (set d m k a) j = if k = j then a else get d m j := by
  unfold set; split <;> simp_all

theorem get_set_self [DecidableEq α] (d : α) (m : Cells α) (k : Nat) (a : α) : get d (set d m k a) k = a := by simp

theorem get_set_ne [DecidableEq α] {k j : Nat} (d : α) (m : Cells α) (a : α) (h : k ≠ j) :
    get d (set d m k a) j = get d m j := by simp [h]

theorem find?_modify (m : Cells α) (k : Nat) (f : α → α) (j : Nat) :
    find? (modify m k f) j = if k = j then (find? m j).map f else find? m j := by
  unfold modify
  split
  · rename_i h; split
    · subst_vars; simp [h]
    · rfl
  · rename_i a h; rw [find?_insert]; split
    · subst_vars; simp [h]
    · rfl

/-! ## Runs -/

@[simp] theorem getRun_length (d : α) (m : Cells α) (k n : Nat) : (getRun d m k n).length = n := by
  induction n generalizing k with
  | zero => rfl
  | succ n ih => simp [getRun, ih]

theorem get_setRun [DecidableEq α] (d : α) (m : Cells α) (k : Nat) (l : List α) (j : Nat) :
    get d (setRun d m k l) j = if k ≤ j ∧ j < k + l.length then l.getD (j - k) d else get d m j := by
  induction l generalizing m k with
  | nil => simp [setRun] <;> omega
  | cons a l ih =>
    rw [setRun, ih, get_set]
    by_cases h1 : k + 1 ≤ j ∧ j < k + 1 + l.length
    · have h2 : k ≤ j ∧ j < k + (a :: l).length := by simp; omega
      rw [if_pos h1, if_pos h2, show j - k = (j - (k + 1)) + 1 by omega]; rfl
    · rw [if_neg h1]
      by_cases h3 : k = j
      · subst h3; simp
      · have h2 : ¬ (k ≤ j ∧ j < k + (a :: l).length) := by simp only [List.length_cons]; omega
        rw [if_neg h3, if_neg h2]

/-! ## The canonical form -/

/-- The keys rise from a bound and no default is listed. -/
theorem canonical_iff [DecidableEq α] (d : α) (m : Cells α) :
    canonical d m = true ↔ risingFrom none m = true ∧ ∀ p ∈ m, p.2 ≠ d := by
  simp [canonical]

theorem risingFrom_weaken {lo lo' : Nat} {m : Cells α} (h : lo ≤ lo') (r : risingFrom (some lo') m = true) :
    risingFrom (some lo) m = true := by
  cases m with
  | nil => rfl
  | cons p m =>
    simp only [risingFrom, Bool.and_eq_true, decide_eq_true_eq] at *
    exact ⟨Nat.lt_of_le_of_lt h r.1, r.2⟩

theorem risingFrom_none {lo : Nat} {m : Cells α} (r : risingFrom (some lo) m = true) : risingFrom none m = true := by
  cases m with
  | nil => rfl
  | cons p m => simp only [risingFrom, Bool.and_eq_true] at *; exact r.2

theorem risingFrom_insert_some {lo : Nat} {m : Cells α} (r : risingFrom (some lo) m = true) (k : Nat) (a : α)
    (h : lo < k) : risingFrom (some lo) (insert m k a) = true := by
  induction m generalizing lo with
  | nil => simp [insert, risingFrom, h]
  | cons p m ih =>
    obtain ⟨j, b⟩ := p
    simp only [risingFrom, Bool.and_eq_true, decide_eq_true_eq] at r
    simp only [insert]
    split
    · subst_vars; simp [risingFrom, r]
    · split
      · simp [risingFrom, *]
      · simp only [risingFrom, Bool.and_eq_true, decide_eq_true_eq]
        exact ⟨r.1, ih r.2 (by omega)⟩

theorem risingFrom_insert {m : Cells α} (r : risingFrom none m = true) (k : Nat) (a : α) :
    risingFrom none (insert m k a) = true := by
  cases m with
  | nil => rfl
  | cons p m =>
    obtain ⟨j, b⟩ := p
    simp only [risingFrom] at r
    simp only [insert]
    split
    · subst_vars; simpa [risingFrom] using r
    · split
      · simp [risingFrom, *]
      · exact risingFrom_insert_some r k a (by omega)

theorem risingFrom_erase {o : Option Nat} {m : Cells α} (r : risingFrom o m = true) (k : Nat) :
    risingFrom o (erase m k) = true := by
  induction m generalizing o with
  | nil => exact r
  | cons p m ih =>
    obtain ⟨j, b⟩ := p
    simp only [erase]
    cases o with
    | none =>
      simp only [risingFrom] at r
      split
      · exact ih (risingFrom_none r)
      · simpa [risingFrom] using ih r
    | some lo =>
      simp only [risingFrom, Bool.and_eq_true, decide_eq_true_eq] at r
      split
      · exact ih (risingFrom_weaken (by omega) r.2)
      · simpa [risingFrom, r.1] using ih r.2

theorem mem_insert {m : Cells α} {k : Nat} {a : α} {p : Nat × α} (h : p ∈ insert m k a) : p = (k, a) ∨ p ∈ m := by
  induction m with
  | nil => simpa [insert] using h
  | cons q m ih =>
    obtain ⟨j, b⟩ := q
    simp only [insert] at h
    split at h
    · rcases List.mem_cons.1 h with h | h
      · exact .inl h
      · exact .inr (List.mem_cons_of_mem _ h)
    · split at h
      · rcases List.mem_cons.1 h with h | h
        · exact .inl h
        · exact .inr h
      · rcases List.mem_cons.1 h with h | h
        · exact .inr (h ▸ List.mem_cons_self)
        · rcases ih h with h | h
          · exact .inl h
          · exact .inr (List.mem_cons_of_mem _ h)

theorem mem_erase {m : Cells α} {k : Nat} {p : Nat × α} (h : p ∈ erase m k) : p ∈ m := by
  induction m with
  | nil => simp [erase] at h
  | cons q m ih =>
    obtain ⟨j, b⟩ := q
    simp only [erase] at h
    split at h
    · exact List.mem_cons_of_mem _ (ih h)
    · rcases List.mem_cons.1 h with h | h
      · exact h ▸ List.mem_cons_self
      · exact List.mem_cons_of_mem _ (ih h)

/-- A write keeps the canonical form. -/
theorem canonical_set [DecidableEq α] {d : α} {m : Cells α} (h : canonical d m = true) (k : Nat) (a : α) :
    canonical d (set d m k a) = true := by
  rw [canonical_iff] at *
  unfold set
  split
  · exact ⟨risingFrom_erase h.1 k, fun p hp => h.2 p (mem_erase hp)⟩
  · refine ⟨risingFrom_insert h.1 k a, fun p hp => ?_⟩
    rcases mem_insert hp with rfl | hp
    · assumption
    · exact h.2 p hp

/-- A write of a run keeps the canonical form. -/
theorem canonical_setRun [DecidableEq α] {d : α} {m : Cells α} (h : canonical d m = true) (k : Nat) (l : List α) :
    canonical d (setRun d m k l) = true := by
  induction l generalizing m k with
  | nil => exact h
  | cons a l ih => exact ih (canonical_set h k a) (k + 1)

theorem canonical_nil [DecidableEq α] (d : α) : canonical d ([] : Cells α) = true := rfl

/-- A key at or below the bound is not listed. -/
theorem find?_of_le {lo : Nat} {m : Cells α} (r : risingFrom (some lo) m = true) {k : Nat} (h : k ≤ lo) :
    find? m k = none := by
  induction m generalizing lo with
  | nil => rfl
  | cons p m ih =>
    simp only [risingFrom, Bool.and_eq_true, decide_eq_true_eq] at r
    rw [find?_cons, if_neg (by omega)]
    exact ih r.2 (by omega)

/-- Rising lists that find the same values are the same list. -/
theorem rising_ext {m m' : Cells α} (h : risingFrom none m = true) (h' : risingFrom none m' = true)
    (e : ∀ k, find? m k = find? m' k) : m = m' := by
  induction m generalizing m' with
  | nil =>
    cases m' with
    | nil => rfl
    | cons q m' => have := e q.1; simp [find?_cons] at this
  | cons p m ih =>
    cases m' with
    | nil => have := e p.1; simp [find?_cons] at this
    | cons q m' =>
      simp only [risingFrom] at h h'
      have hp := e p.1
      have hq := e q.1
      rw [find?_cons, if_pos rfl, find?_cons] at hp
      rw [find?_cons, find?_cons, if_pos rfl] at hq
      have hk : p.1 = q.1 := by
        rcases Nat.lt_trichotomy p.1 q.1 with hl | he | hg
        · rw [if_neg (by omega), find?_of_le h' (by omega)] at hp; simp at hp
        · exact he
        · rw [if_neg (by omega), find?_of_le h (by omega)] at hq; simp at hq
      rw [if_pos hk.symm] at hp
      have hpq : p = q := Prod.ext hk (Option.some.inj hp)
      subst hpq
      rw [ih (risingFrom_none h) (risingFrom_none h') fun k => ?_]
      have := e k
      rw [find?_cons, find?_cons] at this
      by_cases hk : p.1 = k
      · rw [← hk, find?_of_le h (Nat.le_refl _), find?_of_le h' (Nat.le_refl _)]
      · simpa [hk] using this

/-- Equal contents are equal data. -/
theorem canonical_ext [DecidableEq α] {d : α} {m m' : Cells α} (h : canonical d m = true) (h' : canonical d m' = true)
    (e : ∀ k, get d m k = get d m' k) : m = m' := by
  rw [canonical_iff] at *
  have mem : ∀ {m : Cells α} {k a}, find? m k = some a → (k, a) ∈ m := by
    intro m k a
    induction m with
    | nil => intro h; cases h
    | cons p m ih =>
      rw [find?_cons]
      split
      · intro h; cases h; subst_vars; exact List.mem_cons_self
      · intro h; exact List.mem_cons_of_mem _ (ih h)
  refine rising_ext h.1 h'.1 fun k => ?_
  have := e k
  unfold get at this
  cases hx : find? m k <;> cases hy : find? m' k <;> simp [hx, hy] at this ⊢
  · exact h'.2 _ (mem hy) this.symm
  · exact h.2 _ (mem hx) this
  · exact this

end Sys2Proof.Machine.Map
end

