-- ==== Sys2Proof/Laws/Regs.lean ====
section
/-! SUPPORT. Registers of a group: what a read finds after a write, and what a write leaves. -/

namespace Sys2Proof.Machine

/-! ## Lanes and masks -/

theorem mem_lanesOf {m : Lane} {l : Nat} : l ∈ lanesOf m ↔ m.getLsbD l = true := by
  simp only [lanesOf, List.mem_filter, List.mem_range, and_iff_right_iff_imp]
  exact fun h => Nat.lt_of_not_le fun hl => by
    rw [BitVec.getLsbD_of_ge _ _ hl] at h
    exact absurd h (by simp)

theorem lt_of_mem_lanesOf {m : Lane} {l : Nat} (h : l ∈ lanesOf m) : l < 32 := by
  simp only [lanesOf, List.mem_filter, List.mem_range] at h; exact h.1

theorem lanesOf_nodup (m : Lane) : (lanesOf m).Nodup := List.nodup_range.sublist List.filter_sublist

theorem laneBit_getLsbD (l k : Nat) (h : l < 32) : (laneBit l).getLsbD k = decide (k = l) := by
  simp only [laneBit, BitVec.getLsbD_ofNat, Nat.testBit_two_pow]
  by_cases hk : k = l
  · subst hk; simp [h]
  · have : l ≠ k := fun e => hk e.symm
    simp [hk, this]

theorem foldl_laneBit_getLsbD (ls : List Nat) (h : ∀ l ∈ ls, l < 32) (m : Lane) (k : Nat) :
    (ls.foldl (fun m l => m ||| laneBit l) m).getLsbD k = (m.getLsbD k || decide (k ∈ ls)) := by
  induction ls generalizing m with
  | nil => simp
  | cons l ls ih =>
    rw [List.foldl_cons, ih (fun x hx => h x (List.mem_cons_of_mem _ hx)), BitVec.getLsbD_or,
      laneBit_getLsbD _ _ (h l List.mem_cons_self), Bool.or_assoc, ← Bool.decide_or]
    simp only [List.mem_cons]

theorem maskOf_getLsbD (ls : List Nat) (h : ∀ l ∈ ls, l < 32) (k : Nat) : (maskOf ls).getLsbD k = decide (k ∈ ls) := by
  unfold maskOf; rw [foldl_laneBit_getLsbD ls h]; simp

theorem maskOf_filter_getLsbD (m : Lane) (p : Nat → Bool) (k : Nat) :
    (maskOf ((lanesOf m).filter p)).getLsbD k = (m.getLsbD k && p k) := by
  rw [maskOf_getLsbD _ fun l h => lt_of_mem_lanesOf ((List.mem_filter.1 h).1)]
  simp [mem_lanesOf, Bool.decide_and]

theorem maskOf_lanesOf (m : Lane) : maskOf (lanesOf m) = m := by
  refine BitVec.eq_of_getLsbD_eq fun k _ => ?_
  rw [maskOf_getLsbD _ fun l h => lt_of_mem_lanesOf h]
  simp [mem_lanesOf]

/-! ## Scalar registers -/

theorem Group.setS_cases (g : Group) (n : BitVec 6) (w : Word) :
    (n = 63#6 ∧ g.setS n w = g) ∨
    (n ≠ 63#6 ∧ g.flow.trapMode = true ∧ 48 ≤ n.toNat ∧ n.toNat ≤ 55 ∧
      g.setS n w = { g with regs := { g.regs with ts := Map.set 0 g.regs.ts (n.toNat - 48) w } }) ∨
    (n ≠ 63#6 ∧ (g.flow.trapMode = true → ¬ (48 ≤ n.toNat ∧ n.toNat ≤ 55)) ∧
      g.setS n w = { g with regs := { g.regs with s := Map.set 0 g.regs.s n.toNat w } }) := by
  unfold Group.setS
  split
  · exact .inl ⟨by assumption, rfl⟩
  · split
    · simp_all
    · refine .inr (.inr ⟨by assumption, ?_, rfl⟩); simp_all

@[simp] theorem Group.setS_id (g : Group) (n : BitVec 6) (w : Word) : (g.setS n w).id = g.id := by
  unfold Group.setS; repeat (first | rfl | split)
@[simp] theorem Group.setS_flow (g : Group) (n : BitVec 6) (w : Word) : (g.setS n w).flow = g.flow := by
  unfold Group.setS; repeat (first | rfl | split)
@[simp] theorem Group.setS_sys (g : Group) (n : BitVec 6) (w : Word) : (g.setS n w).sys = g.sys := by
  unfold Group.setS; repeat (first | rfl | split)
@[simp] theorem Group.setS_work (g : Group) (n : BitVec 6) (w : Word) : (g.setS n w).work = g.work := by
  unfold Group.setS; repeat (first | rfl | split)
@[simp] theorem Group.setS_saved (g : Group) (n : BitVec 6) (w : Word) : (g.setS n w).saved = g.saved := by
  unfold Group.setS; repeat (first | rfl | split)

/-- A write of a scalar register changes nothing but the two scalar banks. -/
theorem Group.setS_regs (g : Group) (n : BitVec 6) (w : Word) :
    (g.setS n w).regs = { g.regs with s := (g.setS n w).regs.s, ts := (g.setS n w).regs.ts } := by
  unfold Group.setS; repeat (first | rfl | split)

/-- Reads of scalar registers after a write: s63 reads zero and discards (R50). -/
theorem Group.s_setS (g : Group) (d : BitVec 6) (w : Word) (n : BitVec 6) :
    (g.setS d w).s n = if n = d then (if d = 63#6 then 0 else w) else g.s n := by
  rcases g.setS_cases d w with ⟨hd, e⟩ | ⟨hd, ht, h1, h2, e⟩ | ⟨hd, ht, e⟩ <;> rw [e]
  · subst hd; split
    · subst_vars; simp [Group.s]
    · rfl
  · unfold Group.s
    by_cases hn : n = d
    · subst hn; simp [hd, ht, h1, h2]
    · rw [if_neg hn]
      have hne : n.toNat ≠ d.toNat := fun h => hn (BitVec.eq_of_toNat_eq h)
      by_cases h63 : n = 63#6
      · simp [h63]
      · simp only [h63, if_false, ht, Bool.true_and]
        by_cases hr : 48 ≤ n.toNat ∧ n.toNat ≤ 55
        · rw [if_pos (by simp [hr]), if_pos (by simp [hr]), Map.get_set_ne]; omega
        · rw [if_neg (by simpa using fun h => Nat.lt_of_not_le fun h' => hr ⟨h, h'⟩), if_neg (by simpa using fun h => Nat.lt_of_not_le fun h' => hr ⟨h, h'⟩)]
  · unfold Group.s
    by_cases hn : n = d
    · subst hn
      have : (g.flow.trapMode && decide (48 ≤ n.toNat) && decide (n.toNat ≤ 55)) = false := by
        cases hm : g.flow.trapMode
        · rfl
        · have := ht hm; simp only [Bool.true_and, Bool.and_eq_false_iff, decide_eq_false_iff_not]; omega
      simp [hd, this]
    · rw [if_neg hn]
      have hne : n.toNat ≠ d.toNat := fun h => hn (BitVec.eq_of_toNat_eq h)
      by_cases h63 : n = 63#6
      · simp [h63]
      · simp only [h63, if_false]
        split
        · rfl
        · rw [Map.get_set_ne]; omega

/-- The bank of scalar registers that is not in use keeps its values (R52). -/
theorem Group.setS_hidden (g : Group) (d : BitVec 6) (w : Word) :
    (g.flow.trapMode = false → (g.setS d w).regs.ts = g.regs.ts) ∧
    (g.flow.trapMode = true → ∀ i, 48 ≤ i → i ≤ 55 → Map.get 0 (g.setS d w).regs.s i = Map.get 0 g.regs.s i) := by
  rcases g.setS_cases d w with ⟨hd, e⟩ | ⟨hd, ht, h1, h2, e⟩ | ⟨hd, ht, e⟩ <;> rw [e]
  · exact ⟨fun _ => rfl, fun _ _ _ _ => rfl⟩
  · exact ⟨fun h => by simp [h] at ht, fun _ _ _ _ => rfl⟩
  · refine ⟨fun _ => rfl, fun h i h1 h2 => ?_⟩
    have := ht h
    rw [Map.get_set_ne]; omega

/-! ## Mask registers and condition bits -/

@[simp] theorem Group.m_setM (g : Group) (n : Nat) (v : Lane) (j : Nat) :
    (g.setM n v).m j = if n = j then v else g.m j := by unfold Group.m Group.setM; simp

@[simp] theorem Group.setMBits_eq (g : Group) (n : Nat) (lanes v : Lane) (j : Nat) :
    (g.setMBits n lanes v).m j = if n = j then (g.m n &&& ~~~lanes) ||| (v &&& lanes) else g.m j := by
  unfold Group.setMBits; rw [Group.m_setM]

/-- A mask write takes the named bits and leaves the others (R136). -/
theorem Group.setMBits_bit (g : Group) (n : Nat) (lanes v : Lane) (l : Nat) :
    ((g.setMBits n lanes v).m n).getLsbD l = if lanes.getLsbD l then v.getLsbD l else (g.m n).getLsbD l := by
  rw [Group.setMBits_eq, if_pos rfl]
  by_cases hl : l < 32
  · rw [BitVec.getLsbD_or, BitVec.getLsbD_and, BitVec.getLsbD_and, BitVec.getLsbD_not]
    cases lanes.getLsbD l <;> simp only [hl] <;> simp
  · rw [BitVec.getLsbD_of_ge _ _ (by omega), BitVec.getLsbD_of_ge v _ (by omega), BitVec.getLsbD_of_ge (g.m n) _ (by omega)]
    simp

theorem Group.c_setC (g : Group) (n : BitVec 2) (b : Bool) (k : BitVec 2) :
    (g.setC n b).c k = if k = n then b else g.c k := by
  unfold Group.c Group.setC
  have hn := n.isLt
  have hk := k.isLt
  have key : (BitVec.ofNat 4 (2 ^ n.toNat)).getLsbD k.toNat = decide (k = n) := by
    revert n k; decide
  cases b
  · simp only [Bool.false_eq_true, if_false, BitVec.getLsbD_and, BitVec.getLsbD_not, key]
    have : k.toNat < 4 := by omega
    by_cases h : k = n <;> simp [h, this]
  · simp only [if_true, BitVec.getLsbD_or, key]
    by_cases h : k = n <;> simp [h]

/-! ## Vector registers -/

/-- The cell of an index: lane l of the register with key k has the index 32 k + l. -/
def Group.cellAt (g : Group) (i : Nat) : Lane :=
  if 32 * 512 ≤ i then Map.get 0 g.regs.tv (i - 32 * 512) else Map.get 0 g.regs.v i

theorem Group.cell_eq_cellAt (g : Group) (k l : Nat) (h : l < 32) : g.cell k l = g.cellAt (32 * k + l) := by
  unfold Group.cell Group.cellAt
  by_cases hk : 512 ≤ k
  · rw [if_pos hk, if_pos (by omega), show 32 * k + l - 32 * 512 = 32 * (k - 512) + l by omega]
  · rw [if_neg hk, if_neg (by omega)]

theorem Group.cellAt_setCell (g : Group) (p : Nat × Lane) (i : Nat) :
    (g.setCell p).cellAt i = if p.1 = i then p.2 else g.cellAt i := by
  unfold Group.setCell Group.cellAt
  dsimp only
  by_cases hp : 32 * 512 ≤ p.1 <;> by_cases hi : 32 * 512 ≤ i <;>
    simp only [if_pos, if_neg, hp, hi, not_false_eq_true, Map.get_set]
  · by_cases h : p.1 = i
    · rw [if_pos h, if_pos (by omega)]
    · rw [if_neg h, if_neg (by omega)]
  · rw [if_neg (by omega)]
  · rw [if_neg (by omega)]

@[simp] theorem Group.setCell_id (g : Group) (p : Nat × Lane) : (g.setCell p).id = g.id := by
  unfold Group.setCell; dsimp only; split <;> rfl
@[simp] theorem Group.setCell_flow (g : Group) (p : Nat × Lane) : (g.setCell p).flow = g.flow := by
  unfold Group.setCell; dsimp only; split <;> rfl
@[simp] theorem Group.setCell_sys (g : Group) (p : Nat × Lane) : (g.setCell p).sys = g.sys := by
  unfold Group.setCell; dsimp only; split <;> rfl
@[simp] theorem Group.setCell_work (g : Group) (p : Nat × Lane) : (g.setCell p).work = g.work := by
  unfold Group.setCell; dsimp only; split <;> rfl
@[simp] theorem Group.setCell_saved (g : Group) (p : Nat × Lane) : (g.setCell p).saved = g.saved := by
  unfold Group.setCell; dsimp only; split <;> rfl
@[simp] theorem Group.setCell_poison (g : Group) (p : Nat × Lane) :
    (g.setCell p).regs.poison = g.regs.poison.filter fun k => k != p.1 := by
  unfold Group.setCell; dsimp only; split <;> rfl

/-- A write of a cell changes nothing but the vector banks and the poison. -/
theorem Group.setCell_regs (g : Group) (p : Nat × Lane) :
    (g.setCell p).regs = { g.regs with v := (g.setCell p).regs.v, tv := (g.setCell p).regs.tv,
                                       poison := (g.setCell p).regs.poison } := by
  unfold Group.setCell; dsimp only; split <;> rfl

@[simp] theorem Group.setCells_nil (g : Group) : g.setCells [] = g := rfl
theorem Group.setCells_cons (g : Group) (p : Nat × Lane) (l : List (Nat × Lane)) :
    g.setCells (p :: l) = (g.setCell p).setCells l := rfl

@[simp] theorem Group.setCells_id (g : Group) (l : List (Nat × Lane)) : (g.setCells l).id = g.id := by
  induction l generalizing g with
  | nil => rfl
  | cons p l ih => rw [Group.setCells_cons, ih, Group.setCell_id]
@[simp] theorem Group.setCells_flow (g : Group) (l : List (Nat × Lane)) : (g.setCells l).flow = g.flow := by
  induction l generalizing g with
  | nil => rfl
  | cons p l ih => rw [Group.setCells_cons, ih, Group.setCell_flow]
@[simp] theorem Group.setCells_sys (g : Group) (l : List (Nat × Lane)) : (g.setCells l).sys = g.sys := by
  induction l generalizing g with
  | nil => rfl
  | cons p l ih => rw [Group.setCells_cons, ih, Group.setCell_sys]
@[simp] theorem Group.setCells_work (g : Group) (l : List (Nat × Lane)) : (g.setCells l).work = g.work := by
  induction l generalizing g with
  | nil => rfl
  | cons p l ih => rw [Group.setCells_cons, ih, Group.setCell_work]
@[simp] theorem Group.setCells_saved (g : Group) (l : List (Nat × Lane)) : (g.setCells l).saved = g.saved := by
  induction l generalizing g with
  | nil => rfl
  | cons p l ih => rw [Group.setCells_cons, ih, Group.setCell_saved]

/-- Writes of cells change nothing but the vector banks and the poison. -/
theorem Group.setCells_regs (g : Group) (l : List (Nat × Lane)) :
    (g.setCells l).regs = { g.regs with v := (g.setCells l).regs.v, tv := (g.setCells l).regs.tv,
                                        poison := (g.setCells l).regs.poison } := by
  induction l generalizing g with
  | nil => rfl
  | cons p l ih => rw [Group.setCells_cons, ih, Group.setCell_regs]

/-- A cell that no write names keeps its value. -/
theorem Group.cellAt_setCells_of_not_mem (g : Group) (l : List (Nat × Lane)) (i : Nat) (h : ∀ p ∈ l, p.1 ≠ i) :
    (g.setCells l).cellAt i = g.cellAt i := by
  induction l generalizing g with
  | nil => rfl
  | cons p l ih =>
    rw [Group.setCells_cons, ih _ fun q hq => h q (List.mem_cons_of_mem _ hq), Group.cellAt_setCell,
      if_neg (h p List.mem_cons_self)]

/-- A cell that every write naming it gives one value has that value. -/
theorem Group.cellAt_setCells_of_mem (g : Group) (l : List (Nat × Lane)) (i : Nat) (x : Lane) (h : (i, x) ∈ l)
    (u : ∀ p ∈ l, p.1 = i → p.2 = x) : (g.setCells l).cellAt i = x := by
  induction l generalizing g with
  | nil => cases h
  | cons p l ih =>
    rw [Group.setCells_cons]
    by_cases hl : ∃ q ∈ l, q.1 = i
    · obtain ⟨q, hq, e⟩ := hl
      have hx := u q (List.mem_cons_of_mem _ hq) e
      refine ih _ ?_ fun r hr => u r (List.mem_cons_of_mem _ hr)
      rw [← e, ← hx]; exact hq
    · rw [Group.cellAt_setCells_of_not_mem _ _ _ fun q hq e => hl ⟨q, hq, e⟩, Group.cellAt_setCell]
      rcases List.mem_cons.1 h with h | h
      · rw [← h]; simp
      · exact absurd ⟨_, h, rfl⟩ hl

theorem mem_runCells {key n : Nat} {lanes : List Nat} {f : Nat → Nat → Lane} {p : Nat × Lane} :
    p ∈ runCells key lanes n f ↔ ∃ l ∈ lanes, ∃ j < n, p = (32 * (key + j) + l, f l j) := by
  simp only [runCells, List.mem_flatMap, List.mem_map, List.mem_range]
  constructor
  · rintro ⟨l, hl, j, hj, rfl⟩; exact ⟨l, hl, j, hj, rfl⟩
  · rintro ⟨l, hl, j, hj, rfl⟩; exact ⟨l, hl, j, hj, rfl⟩

/-- Cells of a run written: the lanes named take their values, in every register of the run. -/
theorem Group.cell_setCells_run (g : Group) (key n : Nat) (lanes : List Nat) (h : ∀ l ∈ lanes, l < 32)
    (f : Nat → Nat → Lane) (l j : Nat) (hl : l ∈ lanes) (hj : j < n) :
    (g.setCells (runCells key lanes n f)).cell (key + j) l = f l j := by
  rw [Group.cell_eq_cellAt _ _ _ (h l hl)]
  refine Group.cellAt_setCells_of_mem _ _ _ _ (mem_runCells.2 ⟨l, hl, j, hj, rfl⟩) ?_
  rintro p hp e
  obtain ⟨l', hl', j', hj', rfl⟩ := mem_runCells.1 hp
  have h1 := h l hl
  have h2 := h l' hl'
  simp only at e
  have : j' = j := by omega
  have : l' = l := by omega
  subst_vars; rfl

/-- A cell outside a run, or of a lane not named, keeps its value. -/
theorem Group.cell_setCells_run_other (g : Group) (key n : Nat) (lanes : List Nat) (h : ∀ l ∈ lanes, l < 32)
    (f : Nat → Nat → Lane) (k l : Nat) (hl : l < 32) (ho : ¬ (l ∈ lanes ∧ key ≤ k ∧ k < key + n)) :
    (g.setCells (runCells key lanes n f)).cell k l = g.cell k l := by
  rw [Group.cell_eq_cellAt _ _ _ hl, Group.cell_eq_cellAt _ _ _ hl]
  refine Group.cellAt_setCells_of_not_mem _ _ _ fun p hp e => ho ?_
  obtain ⟨l', hl', j, hj, rfl⟩ := mem_runCells.1 hp
  have h2 := h l' hl'
  simp only at e
  have e1 : l' = l := by omega
  subst e1
  exact ⟨hl', by omega, by omega⟩

/-- Poison after writes: the cells written are clean (R372). -/
theorem Group.setCells_poison (g : Group) (l : List (Nat × Lane)) (i : Nat) :
    i ∈ (g.setCells l).regs.poison ↔ i ∈ g.regs.poison ∧ ∀ p ∈ l, p.1 ≠ i := by
  induction l generalizing g with
  | nil => simp
  | cons p l ih =>
    rw [Group.setCells_cons, ih, Group.setCell_poison, List.mem_filter]
    simp only [List.mem_cons, forall_eq_or_imp, bne_iff_ne]
    constructor
    · rintro ⟨⟨h1, h2⟩, h3⟩; exact ⟨h1, fun e => h2 e.symm, h3⟩
    · rintro ⟨h1, h2, h3⟩; exact ⟨⟨h1, fun e => h2 e.symm⟩, h3⟩

/-! ## Fragments -/

@[simp] theorem Group.setBank_bank (g : Group) (fs : List Frag) : (g.setBank fs).bank = fs := by
  unfold Group.setBank Group.bank; split <;> simp_all

@[simp] theorem Group.setBank_trapMode (g : Group) (fs : List Frag) :
    (g.setBank fs).flow.trapMode = g.flow.trapMode := by unfold Group.setBank; split <;> rfl
@[simp] theorem Group.setBank_id (g : Group) (fs : List Frag) : (g.setBank fs).id = g.id := by
  unfold Group.setBank; split <;> rfl
@[simp] theorem Group.setBank_regs (g : Group) (fs : List Frag) : (g.setBank fs).regs = g.regs := by
  unfold Group.setBank; split <;> rfl
@[simp] theorem Group.setBank_sys (g : Group) (fs : List Frag) : (g.setBank fs).sys = g.sys := by
  unfold Group.setBank; split <;> rfl
@[simp] theorem Group.setBank_work (g : Group) (fs : List Frag) : (g.setBank fs).work = g.work := by
  unfold Group.setBank; split <;> rfl
@[simp] theorem Group.setBank_saved (g : Group) (fs : List Frag) : (g.setBank fs).saved = g.saved := by
  unfold Group.setBank; split <;> rfl

@[simp] theorem Group.onFrag_id (g : Group) (e : Nat) (h : Frag → Frag) : (g.onFrag e h).id = g.id := Group.setBank_id _ _
@[simp] theorem Group.onFrag_regs (g : Group) (e : Nat) (h : Frag → Frag) : (g.onFrag e h).regs = g.regs :=
  Group.setBank_regs _ _
@[simp] theorem Group.onFrag_sys (g : Group) (e : Nat) (h : Frag → Frag) : (g.onFrag e h).sys = g.sys :=
  Group.setBank_sys _ _
@[simp] theorem Group.onFrag_work (g : Group) (e : Nat) (h : Frag → Frag) : (g.onFrag e h).work = g.work :=
  Group.setBank_work _ _
@[simp] theorem Group.onFrag_saved (g : Group) (e : Nat) (h : Frag → Frag) : (g.onFrag e h).saved = g.saved :=
  Group.setBank_saved _ _
@[simp] theorem Group.onFrag_trapMode (g : Group) (e : Nat) (h : Frag → Frag) :
    (g.onFrag e h).flow.trapMode = g.flow.trapMode := Group.setBank_trapMode _ _

@[simp] theorem Group.onFrag_bank (g : Group) (e : Nat) (h : Frag → Frag) :
    (g.onFrag e h).bank = g.bank.map fun f => if f.entry == e then h f else f := Group.setBank_bank _ _

/-- The fragment of an entry after a change of one entry that keeps the fragment's entry number. -/
theorem Group.frag?_onFrag (g : Group) (e : Nat) (h : Frag → Frag) (he : ∀ f, (h f).entry = f.entry) (j : Nat) :
    (g.onFrag e h).frag? j = if j = e then (g.frag? j).map h else g.frag? j := by
  unfold Group.frag?
  rw [Group.onFrag_bank]
  induction g.bank with
  | nil => simp
  | cons f l ih =>
    simp only [List.map_cons, List.find?_cons]
    have hf : (if f.entry == e then h f else f).entry = f.entry := by split <;> simp [he]
    rw [hf]
    by_cases hj : f.entry = j
    · subst hj
      by_cases hh : f.entry = e
      · simp [hh]
      · simp [hh]
    · have : (f.entry == j) = false := by simpa using hj
      rw [this]; exact ih

end Sys2Proof.Machine
end

