-- ==== Sys2Proof/Laws/State.lean ====
section
/-! SUPPORT. What each basic update of the state and of a group leaves in every field: one lemma per field per update. -/

namespace Sys2Proof.Machine

@[simp] theorem State.send_pkg (s : State) (m : Message) :
    (s.send m).pkg = s.pkg := rfl
@[simp] theorem State.send_rackN (s : State) (m : Message) :
    (s.send m).rackN = s.rackN := rfl
@[simp] theorem State.send_time8 (s : State) (m : Message) :
    (s.send m).time8 = s.time8 := rfl
@[simp] theorem State.send_ticks (s : State) (m : Message) :
    (s.send m).ticks = s.ticks := rfl
@[simp] theorem State.send_mem (s : State) (m : Message) :
    (s.send m).mem = s.mem := rfl
@[simp] theorem State.send_win (s : State) (m : Message) :
    (s.send m).win = s.win := rfl
@[simp] theorem State.send_dbg (s : State) (m : Message) :
    (s.send m).dbg = s.dbg := rfl
@[simp] theorem State.send_plat (s : State) (m : Message) :
    (s.send m).plat = s.plat := rfl
@[simp] theorem State.send_boot (s : State) (m : Message) :
    (s.send m).boot = s.boot := rfl
@[simp] theorem State.send_fabric (s : State) (m : Message) :
    (s.send m).fabric = s.fabric := rfl
@[simp] theorem State.send_cores (s : State) (m : Message) :
    (s.send m).cores = s.cores := rfl
@[simp] theorem State.send_groups (s : State) (m : Message) :
    (s.send m).groups = s.groups := rfl
@[simp] theorem State.send_wgs (s : State) (m : Message) :
    (s.send m).wgs = s.wgs := rfl
@[simp] theorem State.send_queues (s : State) (m : Message) :
    (s.send m).queues = s.queues := rfl
@[simp] theorem State.send_pend (s : State) (m : Message) :
    (s.send m).pend = s.pend := rfl
@[simp] theorem State.send_landing (s : State) (m : Message) :
    (s.send m).landing = s.landing := rfl
@[simp] theorem State.send_parks (s : State) (m : Message) :
    (s.send m).parks = s.parks := rfl
@[simp] theorem State.send_faultWait (s : State) (m : Message) :
    (s.send m).faultWait = s.faultWait := rfl
@[simp] theorem State.send_tokens (s : State) (m : Message) :
    (s.send m).tokens = s.tokens := rfl
@[simp] theorem State.send_shootdowns (s : State) (m : Message) :
    (s.send m).shootdowns = s.shootdowns := rfl
@[simp] theorem State.send_wherry (s : State) (m : Message) :
    (s.send m).wherry = s.wherry := rfl
@[simp] theorem State.send_ferry (s : State) (m : Message) :
    (s.send m).ferry = s.ferry := rfl
@[simp] theorem State.send_remote (s : State) (m : Message) :
    (s.send m).remote = s.remote := rfl
@[simp] theorem State.send_arrivers (s : State) (m : Message) :
    (s.send m).arrivers = s.arrivers := rfl
@[simp] theorem State.send_counts (s : State) (m : Message) :
    (s.send m).counts = s.counts := rfl
@[simp] theorem State.send_nextAge (s : State) (m : Message) :
    (s.send m).nextAge = s.nextAge := rfl
@[simp] theorem State.send_nextOp (s : State) (m : Message) :
    (s.send m).nextOp = s.nextOp := rfl
@[simp] theorem State.send_wstamp (s : State) (m : Message) :
    (s.send m).wstamp = s.wstamp := rfl
@[simp] theorem State.send_issueClock (s : State) (m : Message) :
    (s.send m).issueClock = s.issueClock := rfl
@[simp] theorem State.send_agenda (s : State) (m : Message) :
    (s.send m).agenda = s.agenda := rfl
@[simp] theorem State.send_arrivals (s : State) (m : Message) :
    (s.send m).arrivals = s.arrivals := rfl
@[simp] theorem State.send_inbox (s : State) (m : Message) :
    (s.send m).inbox = s.inbox := rfl
@[simp] theorem State.send_issuing (s : State) (m : Message) :
    (s.send m).issuing = s.issuing := rfl
@[simp] theorem State.send_turn (s : State) (m : Message) :
    (s.send m).turn = s.turn := rfl
@[simp] theorem State.send_outbox (s : State) (m : Message) :
    (s.send m).outbox = s.outbox ++ m.packets s.planes := rfl
@[simp] theorem State.send_freeCtr (s : State) (m : Message) :
    (s.send m).freeCtr = s.freeCtr := rfl
@[simp] theorem State.send_cur (s : State) (m : Message) :
    (s.send m).cur = s.cur := rfl
@[simp] theorem State.stopIssue_pkg (s : State) (age : Nat) :
    (s.stopIssue age).pkg = s.pkg := rfl
@[simp] theorem State.stopIssue_rackN (s : State) (age : Nat) :
    (s.stopIssue age).rackN = s.rackN := rfl
@[simp] theorem State.stopIssue_time8 (s : State) (age : Nat) :
    (s.stopIssue age).time8 = s.time8 := rfl
@[simp] theorem State.stopIssue_ticks (s : State) (age : Nat) :
    (s.stopIssue age).ticks = s.ticks := rfl
@[simp] theorem State.stopIssue_mem (s : State) (age : Nat) :
    (s.stopIssue age).mem = s.mem := rfl
@[simp] theorem State.stopIssue_win (s : State) (age : Nat) :
    (s.stopIssue age).win = s.win := rfl
@[simp] theorem State.stopIssue_dbg (s : State) (age : Nat) :
    (s.stopIssue age).dbg = s.dbg := rfl
@[simp] theorem State.stopIssue_plat (s : State) (age : Nat) :
    (s.stopIssue age).plat = s.plat := rfl
@[simp] theorem State.stopIssue_boot (s : State) (age : Nat) :
    (s.stopIssue age).boot = s.boot := rfl
@[simp] theorem State.stopIssue_fabric (s : State) (age : Nat) :
    (s.stopIssue age).fabric = s.fabric := rfl
@[simp] theorem State.stopIssue_cores (s : State) (age : Nat) :
    (s.stopIssue age).cores = s.cores := rfl
@[simp] theorem State.stopIssue_groups (s : State) (age : Nat) :
    (s.stopIssue age).groups = s.groups := rfl
@[simp] theorem State.stopIssue_wgs (s : State) (age : Nat) :
    (s.stopIssue age).wgs = s.wgs := rfl
@[simp] theorem State.stopIssue_queues (s : State) (age : Nat) :
    (s.stopIssue age).queues = s.queues := rfl
@[simp] theorem State.stopIssue_pend (s : State) (age : Nat) :
    (s.stopIssue age).pend = s.pend := rfl
@[simp] theorem State.stopIssue_landing (s : State) (age : Nat) :
    (s.stopIssue age).landing = s.landing := rfl
@[simp] theorem State.stopIssue_parks (s : State) (age : Nat) :
    (s.stopIssue age).parks = s.parks := rfl
@[simp] theorem State.stopIssue_faultWait (s : State) (age : Nat) :
    (s.stopIssue age).faultWait = s.faultWait := rfl
@[simp] theorem State.stopIssue_tokens (s : State) (age : Nat) :
    (s.stopIssue age).tokens = s.tokens := rfl
@[simp] theorem State.stopIssue_shootdowns (s : State) (age : Nat) :
    (s.stopIssue age).shootdowns = s.shootdowns := rfl
@[simp] theorem State.stopIssue_wherry (s : State) (age : Nat) :
    (s.stopIssue age).wherry = s.wherry := rfl
@[simp] theorem State.stopIssue_ferry (s : State) (age : Nat) :
    (s.stopIssue age).ferry = s.ferry := rfl
@[simp] theorem State.stopIssue_remote (s : State) (age : Nat) :
    (s.stopIssue age).remote = s.remote := rfl
@[simp] theorem State.stopIssue_arrivers (s : State) (age : Nat) :
    (s.stopIssue age).arrivers = s.arrivers := rfl
@[simp] theorem State.stopIssue_counts (s : State) (age : Nat) :
    (s.stopIssue age).counts = s.counts := rfl
@[simp] theorem State.stopIssue_nextAge (s : State) (age : Nat) :
    (s.stopIssue age).nextAge = s.nextAge := rfl
@[simp] theorem State.stopIssue_nextOp (s : State) (age : Nat) :
    (s.stopIssue age).nextOp = s.nextOp := rfl
@[simp] theorem State.stopIssue_wstamp (s : State) (age : Nat) :
    (s.stopIssue age).wstamp = s.wstamp := rfl
@[simp] theorem State.stopIssue_issueClock (s : State) (age : Nat) :
    (s.stopIssue age).issueClock = s.issueClock := rfl
@[simp] theorem State.stopIssue_agenda (s : State) (age : Nat) :
    (s.stopIssue age).agenda = s.agenda := rfl
@[simp] theorem State.stopIssue_arrivals (s : State) (age : Nat) :
    (s.stopIssue age).arrivals = s.arrivals := rfl
@[simp] theorem State.stopIssue_inbox (s : State) (age : Nat) :
    (s.stopIssue age).inbox = s.inbox := rfl
@[simp] theorem State.stopIssue_issuing (s : State) (age : Nat) :
    (s.stopIssue age).issuing = s.issuing.filter fun e => e.1 != age := rfl
@[simp] theorem State.stopIssue_turn (s : State) (age : Nat) :
    (s.stopIssue age).turn = s.turn := rfl
@[simp] theorem State.stopIssue_outbox (s : State) (age : Nat) :
    (s.stopIssue age).outbox = s.outbox := rfl
@[simp] theorem State.stopIssue_freeCtr (s : State) (age : Nat) :
    (s.stopIssue age).freeCtr = s.freeCtr := rfl
@[simp] theorem State.stopIssue_cur (s : State) (age : Nat) :
    (s.stopIssue age).cur = s.cur := rfl

/-! ## A core -/

@[simp] theorem State.setCore_pkg (s : State) (c : Nat) (k : Core) :
    (s.setCore c k).pkg = s.pkg := rfl
@[simp] theorem State.setCore_rackN (s : State) (c : Nat) (k : Core) :
    (s.setCore c k).rackN = s.rackN := rfl
@[simp] theorem State.setCore_time8 (s : State) (c : Nat) (k : Core) :
    (s.setCore c k).time8 = s.time8 := rfl
@[simp] theorem State.setCore_ticks (s : State) (c : Nat) (k : Core) :
    (s.setCore c k).ticks = s.ticks := rfl
@[simp] theorem State.setCore_mem (s : State) (c : Nat) (k : Core) :
    (s.setCore c k).mem = s.mem := rfl
@[simp] theorem State.setCore_win (s : State) (c : Nat) (k : Core) :
    (s.setCore c k).win = s.win := rfl
@[simp] theorem State.setCore_dbg (s : State) (c : Nat) (k : Core) :
    (s.setCore c k).dbg = s.dbg := rfl
@[simp] theorem State.setCore_plat (s : State) (c : Nat) (k : Core) :
    (s.setCore c k).plat = s.plat := rfl
@[simp] theorem State.setCore_boot (s : State) (c : Nat) (k : Core) :
    (s.setCore c k).boot = s.boot := rfl
@[simp] theorem State.setCore_fabric (s : State) (c : Nat) (k : Core) :
    (s.setCore c k).fabric = s.fabric := rfl
@[simp] theorem State.setCore_cores (s : State) (c : Nat) (k : Core) :
    (s.setCore c k).cores = Map.set Core.reset s.cores c k := rfl
@[simp] theorem State.setCore_groups (s : State) (c : Nat) (k : Core) :
    (s.setCore c k).groups = s.groups := rfl
@[simp] theorem State.setCore_wgs (s : State) (c : Nat) (k : Core) :
    (s.setCore c k).wgs = s.wgs := rfl
@[simp] theorem State.setCore_queues (s : State) (c : Nat) (k : Core) :
    (s.setCore c k).queues = s.queues := rfl
@[simp] theorem State.setCore_pend (s : State) (c : Nat) (k : Core) :
    (s.setCore c k).pend = s.pend := rfl
@[simp] theorem State.setCore_landing (s : State) (c : Nat) (k : Core) :
    (s.setCore c k).landing = s.landing := rfl
@[simp] theorem State.setCore_parks (s : State) (c : Nat) (k : Core) :
    (s.setCore c k).parks = s.parks := rfl
@[simp] theorem State.setCore_faultWait (s : State) (c : Nat) (k : Core) :
    (s.setCore c k).faultWait = s.faultWait := rfl
@[simp] theorem State.setCore_tokens (s : State) (c : Nat) (k : Core) :
    (s.setCore c k).tokens = s.tokens := rfl
@[simp] theorem State.setCore_shootdowns (s : State) (c : Nat) (k : Core) :
    (s.setCore c k).shootdowns = s.shootdowns := rfl
@[simp] theorem State.setCore_wherry (s : State) (c : Nat) (k : Core) :
    (s.setCore c k).wherry = s.wherry := rfl
@[simp] theorem State.setCore_ferry (s : State) (c : Nat) (k : Core) :
    (s.setCore c k).ferry = s.ferry := rfl
@[simp] theorem State.setCore_remote (s : State) (c : Nat) (k : Core) :
    (s.setCore c k).remote = s.remote := rfl
@[simp] theorem State.setCore_arrivers (s : State) (c : Nat) (k : Core) :
    (s.setCore c k).arrivers = s.arrivers := rfl
@[simp] theorem State.setCore_counts (s : State) (c : Nat) (k : Core) :
    (s.setCore c k).counts = s.counts := rfl
@[simp] theorem State.setCore_nextAge (s : State) (c : Nat) (k : Core) :
    (s.setCore c k).nextAge = s.nextAge := rfl
@[simp] theorem State.setCore_nextOp (s : State) (c : Nat) (k : Core) :
    (s.setCore c k).nextOp = s.nextOp := rfl
@[simp] theorem State.setCore_wstamp (s : State) (c : Nat) (k : Core) :
    (s.setCore c k).wstamp = s.wstamp := rfl
@[simp] theorem State.setCore_issueClock (s : State) (c : Nat) (k : Core) :
    (s.setCore c k).issueClock = s.issueClock := rfl
@[simp] theorem State.setCore_agenda (s : State) (c : Nat) (k : Core) :
    (s.setCore c k).agenda = s.agenda := rfl
@[simp] theorem State.setCore_arrivals (s : State) (c : Nat) (k : Core) :
    (s.setCore c k).arrivals = s.arrivals := rfl
@[simp] theorem State.setCore_inbox (s : State) (c : Nat) (k : Core) :
    (s.setCore c k).inbox = s.inbox := rfl
@[simp] theorem State.setCore_issuing (s : State) (c : Nat) (k : Core) :
    (s.setCore c k).issuing = s.issuing := rfl
@[simp] theorem State.setCore_turn (s : State) (c : Nat) (k : Core) :
    (s.setCore c k).turn = s.turn := rfl
@[simp] theorem State.setCore_outbox (s : State) (c : Nat) (k : Core) :
    (s.setCore c k).outbox = s.outbox := rfl
@[simp] theorem State.setCore_freeCtr (s : State) (c : Nat) (k : Core) :
    (s.setCore c k).freeCtr = s.freeCtr := rfl
@[simp] theorem State.setCore_cur (s : State) (c : Nat) (k : Core) :
    (s.setCore c k).cur = s.cur := rfl
@[simp] theorem State.onCore_pkg (s : State) (c : Nat) (f : Core → Core) :
    (s.onCore c f).pkg = s.pkg := rfl
@[simp] theorem State.onCore_rackN (s : State) (c : Nat) (f : Core → Core) :
    (s.onCore c f).rackN = s.rackN := rfl
@[simp] theorem State.onCore_time8 (s : State) (c : Nat) (f : Core → Core) :
    (s.onCore c f).time8 = s.time8 := rfl
@[simp] theorem State.onCore_ticks (s : State) (c : Nat) (f : Core → Core) :
    (s.onCore c f).ticks = s.ticks := rfl
@[simp] theorem State.onCore_mem (s : State) (c : Nat) (f : Core → Core) :
    (s.onCore c f).mem = s.mem := rfl
@[simp] theorem State.onCore_win (s : State) (c : Nat) (f : Core → Core) :
    (s.onCore c f).win = s.win := rfl
@[simp] theorem State.onCore_dbg (s : State) (c : Nat) (f : Core → Core) :
    (s.onCore c f).dbg = s.dbg := rfl
@[simp] theorem State.onCore_plat (s : State) (c : Nat) (f : Core → Core) :
    (s.onCore c f).plat = s.plat := rfl
@[simp] theorem State.onCore_boot (s : State) (c : Nat) (f : Core → Core) :
    (s.onCore c f).boot = s.boot := rfl
@[simp] theorem State.onCore_fabric (s : State) (c : Nat) (f : Core → Core) :
    (s.onCore c f).fabric = s.fabric := rfl
@[simp] theorem State.onCore_cores (s : State) (c : Nat) (f : Core → Core) :
    (s.onCore c f).cores = Map.set Core.reset s.cores c (f (s.core c)) := rfl
@[simp] theorem State.onCore_groups (s : State) (c : Nat) (f : Core → Core) :
    (s.onCore c f).groups = s.groups := rfl
@[simp] theorem State.onCore_wgs (s : State) (c : Nat) (f : Core → Core) :
    (s.onCore c f).wgs = s.wgs := rfl
@[simp] theorem State.onCore_queues (s : State) (c : Nat) (f : Core → Core) :
    (s.onCore c f).queues = s.queues := rfl
@[simp] theorem State.onCore_pend (s : State) (c : Nat) (f : Core → Core) :
    (s.onCore c f).pend = s.pend := rfl
@[simp] theorem State.onCore_landing (s : State) (c : Nat) (f : Core → Core) :
    (s.onCore c f).landing = s.landing := rfl
@[simp] theorem State.onCore_parks (s : State) (c : Nat) (f : Core → Core) :
    (s.onCore c f).parks = s.parks := rfl
@[simp] theorem State.onCore_faultWait (s : State) (c : Nat) (f : Core → Core) :
    (s.onCore c f).faultWait = s.faultWait := rfl
@[simp] theorem State.onCore_tokens (s : State) (c : Nat) (f : Core → Core) :
    (s.onCore c f).tokens = s.tokens := rfl
@[simp] theorem State.onCore_shootdowns (s : State) (c : Nat) (f : Core → Core) :
    (s.onCore c f).shootdowns = s.shootdowns := rfl
@[simp] theorem State.onCore_wherry (s : State) (c : Nat) (f : Core → Core) :
    (s.onCore c f).wherry = s.wherry := rfl
@[simp] theorem State.onCore_ferry (s : State) (c : Nat) (f : Core → Core) :
    (s.onCore c f).ferry = s.ferry := rfl
@[simp] theorem State.onCore_remote (s : State) (c : Nat) (f : Core → Core) :
    (s.onCore c f).remote = s.remote := rfl
@[simp] theorem State.onCore_arrivers (s : State) (c : Nat) (f : Core → Core) :
    (s.onCore c f).arrivers = s.arrivers := rfl
@[simp] theorem State.onCore_counts (s : State) (c : Nat) (f : Core → Core) :
    (s.onCore c f).counts = s.counts := rfl
@[simp] theorem State.onCore_nextAge (s : State) (c : Nat) (f : Core → Core) :
    (s.onCore c f).nextAge = s.nextAge := rfl
@[simp] theorem State.onCore_nextOp (s : State) (c : Nat) (f : Core → Core) :
    (s.onCore c f).nextOp = s.nextOp := rfl
@[simp] theorem State.onCore_wstamp (s : State) (c : Nat) (f : Core → Core) :
    (s.onCore c f).wstamp = s.wstamp := rfl
@[simp] theorem State.onCore_issueClock (s : State) (c : Nat) (f : Core → Core) :
    (s.onCore c f).issueClock = s.issueClock := rfl
@[simp] theorem State.onCore_agenda (s : State) (c : Nat) (f : Core → Core) :
    (s.onCore c f).agenda = s.agenda := rfl
@[simp] theorem State.onCore_arrivals (s : State) (c : Nat) (f : Core → Core) :
    (s.onCore c f).arrivals = s.arrivals := rfl
@[simp] theorem State.onCore_inbox (s : State) (c : Nat) (f : Core → Core) :
    (s.onCore c f).inbox = s.inbox := rfl
@[simp] theorem State.onCore_issuing (s : State) (c : Nat) (f : Core → Core) :
    (s.onCore c f).issuing = s.issuing := rfl
@[simp] theorem State.onCore_turn (s : State) (c : Nat) (f : Core → Core) :
    (s.onCore c f).turn = s.turn := rfl
@[simp] theorem State.onCore_outbox (s : State) (c : Nat) (f : Core → Core) :
    (s.onCore c f).outbox = s.outbox := rfl
@[simp] theorem State.onCore_freeCtr (s : State) (c : Nat) (f : Core → Core) :
    (s.onCore c f).freeCtr = s.freeCtr := rfl
@[simp] theorem State.onCore_cur (s : State) (c : Nat) (f : Core → Core) :
    (s.onCore c f).cur = s.cur := rfl

/-! ## A group -/

@[simp] theorem State.onGroup_pkg (s : State) (age : Nat) (f : Group → Group) :
    (s.onGroup age f).pkg = s.pkg := rfl
@[simp] theorem State.onGroup_rackN (s : State) (age : Nat) (f : Group → Group) :
    (s.onGroup age f).rackN = s.rackN := rfl
@[simp] theorem State.onGroup_time8 (s : State) (age : Nat) (f : Group → Group) :
    (s.onGroup age f).time8 = s.time8 := rfl
@[simp] theorem State.onGroup_ticks (s : State) (age : Nat) (f : Group → Group) :
    (s.onGroup age f).ticks = s.ticks := rfl
@[simp] theorem State.onGroup_mem (s : State) (age : Nat) (f : Group → Group) :
    (s.onGroup age f).mem = s.mem := rfl
@[simp] theorem State.onGroup_win (s : State) (age : Nat) (f : Group → Group) :
    (s.onGroup age f).win = s.win := rfl
@[simp] theorem State.onGroup_dbg (s : State) (age : Nat) (f : Group → Group) :
    (s.onGroup age f).dbg = s.dbg := rfl
@[simp] theorem State.onGroup_plat (s : State) (age : Nat) (f : Group → Group) :
    (s.onGroup age f).plat = s.plat := rfl
@[simp] theorem State.onGroup_boot (s : State) (age : Nat) (f : Group → Group) :
    (s.onGroup age f).boot = s.boot := rfl
@[simp] theorem State.onGroup_fabric (s : State) (age : Nat) (f : Group → Group) :
    (s.onGroup age f).fabric = s.fabric := rfl
@[simp] theorem State.onGroup_cores (s : State) (age : Nat) (f : Group → Group) :
    (s.onGroup age f).cores = s.cores := rfl
@[simp] theorem State.onGroup_groups (s : State) (age : Nat) (f : Group → Group) :
    (s.onGroup age f).groups = Map.modify s.groups age f := rfl
@[simp] theorem State.onGroup_wgs (s : State) (age : Nat) (f : Group → Group) :
    (s.onGroup age f).wgs = s.wgs := rfl
@[simp] theorem State.onGroup_queues (s : State) (age : Nat) (f : Group → Group) :
    (s.onGroup age f).queues = s.queues := rfl
@[simp] theorem State.onGroup_pend (s : State) (age : Nat) (f : Group → Group) :
    (s.onGroup age f).pend = s.pend := rfl
@[simp] theorem State.onGroup_landing (s : State) (age : Nat) (f : Group → Group) :
    (s.onGroup age f).landing = s.landing := rfl
@[simp] theorem State.onGroup_parks (s : State) (age : Nat) (f : Group → Group) :
    (s.onGroup age f).parks = s.parks := rfl
@[simp] theorem State.onGroup_faultWait (s : State) (age : Nat) (f : Group → Group) :
    (s.onGroup age f).faultWait = s.faultWait := rfl
@[simp] theorem State.onGroup_tokens (s : State) (age : Nat) (f : Group → Group) :
    (s.onGroup age f).tokens = s.tokens := rfl
@[simp] theorem State.onGroup_shootdowns (s : State) (age : Nat) (f : Group → Group) :
    (s.onGroup age f).shootdowns = s.shootdowns := rfl
@[simp] theorem State.onGroup_wherry (s : State) (age : Nat) (f : Group → Group) :
    (s.onGroup age f).wherry = s.wherry := rfl
@[simp] theorem State.onGroup_ferry (s : State) (age : Nat) (f : Group → Group) :
    (s.onGroup age f).ferry = s.ferry := rfl
@[simp] theorem State.onGroup_remote (s : State) (age : Nat) (f : Group → Group) :
    (s.onGroup age f).remote = s.remote := rfl
@[simp] theorem State.onGroup_arrivers (s : State) (age : Nat) (f : Group → Group) :
    (s.onGroup age f).arrivers = s.arrivers := rfl
@[simp] theorem State.onGroup_counts (s : State) (age : Nat) (f : Group → Group) :
    (s.onGroup age f).counts = s.counts := rfl
@[simp] theorem State.onGroup_nextAge (s : State) (age : Nat) (f : Group → Group) :
    (s.onGroup age f).nextAge = s.nextAge := rfl
@[simp] theorem State.onGroup_nextOp (s : State) (age : Nat) (f : Group → Group) :
    (s.onGroup age f).nextOp = s.nextOp := rfl
@[simp] theorem State.onGroup_wstamp (s : State) (age : Nat) (f : Group → Group) :
    (s.onGroup age f).wstamp = s.wstamp := rfl
@[simp] theorem State.onGroup_issueClock (s : State) (age : Nat) (f : Group → Group) :
    (s.onGroup age f).issueClock = s.issueClock := rfl
@[simp] theorem State.onGroup_agenda (s : State) (age : Nat) (f : Group → Group) :
    (s.onGroup age f).agenda = s.agenda := rfl
@[simp] theorem State.onGroup_arrivals (s : State) (age : Nat) (f : Group → Group) :
    (s.onGroup age f).arrivals = s.arrivals := rfl
@[simp] theorem State.onGroup_inbox (s : State) (age : Nat) (f : Group → Group) :
    (s.onGroup age f).inbox = s.inbox := rfl
@[simp] theorem State.onGroup_issuing (s : State) (age : Nat) (f : Group → Group) :
    (s.onGroup age f).issuing = s.issuing := rfl
@[simp] theorem State.onGroup_turn (s : State) (age : Nat) (f : Group → Group) :
    (s.onGroup age f).turn = s.turn := rfl
@[simp] theorem State.onGroup_outbox (s : State) (age : Nat) (f : Group → Group) :
    (s.onGroup age f).outbox = s.outbox := rfl
@[simp] theorem State.onGroup_freeCtr (s : State) (age : Nat) (f : Group → Group) :
    (s.onGroup age f).freeCtr = s.freeCtr := rfl
@[simp] theorem State.onGroup_cur (s : State) (age : Nat) (f : Group → Group) :
    (s.onGroup age f).cur = s.cur := rfl
@[simp] theorem Ctx.put_pkg (c : Ctx) (s : State) (g : Group) :
    (c.put s g).pkg = s.pkg := rfl
@[simp] theorem Ctx.put_rackN (c : Ctx) (s : State) (g : Group) :
    (c.put s g).rackN = s.rackN := rfl
@[simp] theorem Ctx.put_time8 (c : Ctx) (s : State) (g : Group) :
    (c.put s g).time8 = s.time8 := rfl
@[simp] theorem Ctx.put_ticks (c : Ctx) (s : State) (g : Group) :
    (c.put s g).ticks = s.ticks := rfl
@[simp] theorem Ctx.put_mem (c : Ctx) (s : State) (g : Group) :
    (c.put s g).mem = s.mem := rfl
@[simp] theorem Ctx.put_win (c : Ctx) (s : State) (g : Group) :
    (c.put s g).win = s.win := rfl
@[simp] theorem Ctx.put_dbg (c : Ctx) (s : State) (g : Group) :
    (c.put s g).dbg = s.dbg := rfl
@[simp] theorem Ctx.put_plat (c : Ctx) (s : State) (g : Group) :
    (c.put s g).plat = s.plat := rfl
@[simp] theorem Ctx.put_boot (c : Ctx) (s : State) (g : Group) :
    (c.put s g).boot = s.boot := rfl
@[simp] theorem Ctx.put_fabric (c : Ctx) (s : State) (g : Group) :
    (c.put s g).fabric = s.fabric := rfl
@[simp] theorem Ctx.put_cores (c : Ctx) (s : State) (g : Group) :
    (c.put s g).cores = s.cores := rfl
@[simp] theorem Ctx.put_groups (c : Ctx) (s : State) (g : Group) :
    (c.put s g).groups = Map.insert s.groups c.age g := rfl
@[simp] theorem Ctx.put_wgs (c : Ctx) (s : State) (g : Group) :
    (c.put s g).wgs = s.wgs := rfl
@[simp] theorem Ctx.put_queues (c : Ctx) (s : State) (g : Group) :
    (c.put s g).queues = s.queues := rfl
@[simp] theorem Ctx.put_pend (c : Ctx) (s : State) (g : Group) :
    (c.put s g).pend = s.pend := rfl
@[simp] theorem Ctx.put_landing (c : Ctx) (s : State) (g : Group) :
    (c.put s g).landing = s.landing := rfl
@[simp] theorem Ctx.put_parks (c : Ctx) (s : State) (g : Group) :
    (c.put s g).parks = s.parks := rfl
@[simp] theorem Ctx.put_faultWait (c : Ctx) (s : State) (g : Group) :
    (c.put s g).faultWait = s.faultWait := rfl
@[simp] theorem Ctx.put_tokens (c : Ctx) (s : State) (g : Group) :
    (c.put s g).tokens = s.tokens := rfl
@[simp] theorem Ctx.put_shootdowns (c : Ctx) (s : State) (g : Group) :
    (c.put s g).shootdowns = s.shootdowns := rfl
@[simp] theorem Ctx.put_wherry (c : Ctx) (s : State) (g : Group) :
    (c.put s g).wherry = s.wherry := rfl
@[simp] theorem Ctx.put_ferry (c : Ctx) (s : State) (g : Group) :
    (c.put s g).ferry = s.ferry := rfl
@[simp] theorem Ctx.put_remote (c : Ctx) (s : State) (g : Group) :
    (c.put s g).remote = s.remote := rfl
@[simp] theorem Ctx.put_arrivers (c : Ctx) (s : State) (g : Group) :
    (c.put s g).arrivers = s.arrivers := rfl
@[simp] theorem Ctx.put_counts (c : Ctx) (s : State) (g : Group) :
    (c.put s g).counts = s.counts := rfl
@[simp] theorem Ctx.put_nextAge (c : Ctx) (s : State) (g : Group) :
    (c.put s g).nextAge = s.nextAge := rfl
@[simp] theorem Ctx.put_nextOp (c : Ctx) (s : State) (g : Group) :
    (c.put s g).nextOp = s.nextOp := rfl
@[simp] theorem Ctx.put_wstamp (c : Ctx) (s : State) (g : Group) :
    (c.put s g).wstamp = s.wstamp := rfl
@[simp] theorem Ctx.put_issueClock (c : Ctx) (s : State) (g : Group) :
    (c.put s g).issueClock = s.issueClock := rfl
@[simp] theorem Ctx.put_agenda (c : Ctx) (s : State) (g : Group) :
    (c.put s g).agenda = s.agenda := rfl
@[simp] theorem Ctx.put_arrivals (c : Ctx) (s : State) (g : Group) :
    (c.put s g).arrivals = s.arrivals := rfl
@[simp] theorem Ctx.put_inbox (c : Ctx) (s : State) (g : Group) :
    (c.put s g).inbox = s.inbox := rfl
@[simp] theorem Ctx.put_issuing (c : Ctx) (s : State) (g : Group) :
    (c.put s g).issuing = s.issuing := rfl
@[simp] theorem Ctx.put_turn (c : Ctx) (s : State) (g : Group) :
    (c.put s g).turn = s.turn := rfl
@[simp] theorem Ctx.put_outbox (c : Ctx) (s : State) (g : Group) :
    (c.put s g).outbox = s.outbox := rfl
@[simp] theorem Ctx.put_freeCtr (c : Ctx) (s : State) (g : Group) :
    (c.put s g).freeCtr = s.freeCtr := rfl
@[simp] theorem Ctx.put_cur (c : Ctx) (s : State) (g : Group) :
    (c.put s g).cur = s.cur := rfl
@[simp] theorem Ctx.done_pkg (c : Ctx) (s : State) (g : Group) :
    (c.done s g).pkg = s.pkg := rfl
@[simp] theorem Ctx.done_rackN (c : Ctx) (s : State) (g : Group) :
    (c.done s g).rackN = s.rackN := rfl
@[simp] theorem Ctx.done_time8 (c : Ctx) (s : State) (g : Group) :
    (c.done s g).time8 = s.time8 := rfl
@[simp] theorem Ctx.done_ticks (c : Ctx) (s : State) (g : Group) :
    (c.done s g).ticks = s.ticks := rfl
@[simp] theorem Ctx.done_mem (c : Ctx) (s : State) (g : Group) :
    (c.done s g).mem = s.mem := rfl
@[simp] theorem Ctx.done_win (c : Ctx) (s : State) (g : Group) :
    (c.done s g).win = s.win := rfl
@[simp] theorem Ctx.done_dbg (c : Ctx) (s : State) (g : Group) :
    (c.done s g).dbg = s.dbg := rfl
@[simp] theorem Ctx.done_plat (c : Ctx) (s : State) (g : Group) :
    (c.done s g).plat = s.plat := rfl
@[simp] theorem Ctx.done_boot (c : Ctx) (s : State) (g : Group) :
    (c.done s g).boot = s.boot := rfl
@[simp] theorem Ctx.done_fabric (c : Ctx) (s : State) (g : Group) :
    (c.done s g).fabric = s.fabric := rfl
@[simp] theorem Ctx.done_cores (c : Ctx) (s : State) (g : Group) :
    (c.done s g).cores = s.cores := rfl
@[simp] theorem Ctx.done_groups (c : Ctx) (s : State) (g : Group) :
    (c.done s g).groups = Map.insert s.groups c.age (c.advance g) := rfl
@[simp] theorem Ctx.done_wgs (c : Ctx) (s : State) (g : Group) :
    (c.done s g).wgs = s.wgs := rfl
@[simp] theorem Ctx.done_queues (c : Ctx) (s : State) (g : Group) :
    (c.done s g).queues = s.queues := rfl
@[simp] theorem Ctx.done_pend (c : Ctx) (s : State) (g : Group) :
    (c.done s g).pend = s.pend := rfl
@[simp] theorem Ctx.done_landing (c : Ctx) (s : State) (g : Group) :
    (c.done s g).landing = s.landing := rfl
@[simp] theorem Ctx.done_parks (c : Ctx) (s : State) (g : Group) :
    (c.done s g).parks = s.parks := rfl
@[simp] theorem Ctx.done_faultWait (c : Ctx) (s : State) (g : Group) :
    (c.done s g).faultWait = s.faultWait := rfl
@[simp] theorem Ctx.done_tokens (c : Ctx) (s : State) (g : Group) :
    (c.done s g).tokens = s.tokens := rfl
@[simp] theorem Ctx.done_shootdowns (c : Ctx) (s : State) (g : Group) :
    (c.done s g).shootdowns = s.shootdowns := rfl
@[simp] theorem Ctx.done_wherry (c : Ctx) (s : State) (g : Group) :
    (c.done s g).wherry = s.wherry := rfl
@[simp] theorem Ctx.done_ferry (c : Ctx) (s : State) (g : Group) :
    (c.done s g).ferry = s.ferry := rfl
@[simp] theorem Ctx.done_remote (c : Ctx) (s : State) (g : Group) :
    (c.done s g).remote = s.remote := rfl
@[simp] theorem Ctx.done_arrivers (c : Ctx) (s : State) (g : Group) :
    (c.done s g).arrivers = s.arrivers := rfl
@[simp] theorem Ctx.done_counts (c : Ctx) (s : State) (g : Group) :
    (c.done s g).counts = s.counts := rfl
@[simp] theorem Ctx.done_nextAge (c : Ctx) (s : State) (g : Group) :
    (c.done s g).nextAge = s.nextAge := rfl
@[simp] theorem Ctx.done_nextOp (c : Ctx) (s : State) (g : Group) :
    (c.done s g).nextOp = s.nextOp := rfl
@[simp] theorem Ctx.done_wstamp (c : Ctx) (s : State) (g : Group) :
    (c.done s g).wstamp = s.wstamp := rfl
@[simp] theorem Ctx.done_issueClock (c : Ctx) (s : State) (g : Group) :
    (c.done s g).issueClock = s.issueClock := rfl
@[simp] theorem Ctx.done_agenda (c : Ctx) (s : State) (g : Group) :
    (c.done s g).agenda = s.agenda := rfl
@[simp] theorem Ctx.done_arrivals (c : Ctx) (s : State) (g : Group) :
    (c.done s g).arrivals = s.arrivals := rfl
@[simp] theorem Ctx.done_inbox (c : Ctx) (s : State) (g : Group) :
    (c.done s g).inbox = s.inbox := rfl
@[simp] theorem Ctx.done_issuing (c : Ctx) (s : State) (g : Group) :
    (c.done s g).issuing = s.issuing := rfl
@[simp] theorem Ctx.done_turn (c : Ctx) (s : State) (g : Group) :
    (c.done s g).turn = s.turn := rfl
@[simp] theorem Ctx.done_outbox (c : Ctx) (s : State) (g : Group) :
    (c.done s g).outbox = s.outbox := rfl
@[simp] theorem Ctx.done_freeCtr (c : Ctx) (s : State) (g : Group) :
    (c.done s g).freeCtr = s.freeCtr := rfl
@[simp] theorem Ctx.done_cur (c : Ctx) (s : State) (g : Group) :
    (c.done s g).cur = s.cur := rfl
@[simp] theorem Ctx.finish_pkg (c : Ctx) (s : State) (f : Group → Group) :
    (c.finish s f).pkg = s.pkg := rfl
@[simp] theorem Ctx.finish_rackN (c : Ctx) (s : State) (f : Group → Group) :
    (c.finish s f).rackN = s.rackN := rfl
@[simp] theorem Ctx.finish_time8 (c : Ctx) (s : State) (f : Group → Group) :
    (c.finish s f).time8 = s.time8 := rfl
@[simp] theorem Ctx.finish_ticks (c : Ctx) (s : State) (f : Group → Group) :
    (c.finish s f).ticks = s.ticks := rfl
@[simp] theorem Ctx.finish_mem (c : Ctx) (s : State) (f : Group → Group) :
    (c.finish s f).mem = s.mem := rfl
@[simp] theorem Ctx.finish_win (c : Ctx) (s : State) (f : Group → Group) :
    (c.finish s f).win = s.win := rfl
@[simp] theorem Ctx.finish_dbg (c : Ctx) (s : State) (f : Group → Group) :
    (c.finish s f).dbg = s.dbg := rfl
@[simp] theorem Ctx.finish_plat (c : Ctx) (s : State) (f : Group → Group) :
    (c.finish s f).plat = s.plat := rfl
@[simp] theorem Ctx.finish_boot (c : Ctx) (s : State) (f : Group → Group) :
    (c.finish s f).boot = s.boot := rfl
@[simp] theorem Ctx.finish_fabric (c : Ctx) (s : State) (f : Group → Group) :
    (c.finish s f).fabric = s.fabric := rfl
@[simp] theorem Ctx.finish_cores (c : Ctx) (s : State) (f : Group → Group) :
    (c.finish s f).cores = s.cores := rfl
@[simp] theorem Ctx.finish_groups (c : Ctx) (s : State) (f : Group → Group) :
    (c.finish s f).groups = Map.modify s.groups c.age fun g => c.advance (f g) := rfl
@[simp] theorem Ctx.finish_wgs (c : Ctx) (s : State) (f : Group → Group) :
    (c.finish s f).wgs = s.wgs := rfl
@[simp] theorem Ctx.finish_queues (c : Ctx) (s : State) (f : Group → Group) :
    (c.finish s f).queues = s.queues := rfl
@[simp] theorem Ctx.finish_pend (c : Ctx) (s : State) (f : Group → Group) :
    (c.finish s f).pend = s.pend := rfl
@[simp] theorem Ctx.finish_landing (c : Ctx) (s : State) (f : Group → Group) :
    (c.finish s f).landing = s.landing := rfl
@[simp] theorem Ctx.finish_parks (c : Ctx) (s : State) (f : Group → Group) :
    (c.finish s f).parks = s.parks := rfl
@[simp] theorem Ctx.finish_faultWait (c : Ctx) (s : State) (f : Group → Group) :
    (c.finish s f).faultWait = s.faultWait := rfl
@[simp] theorem Ctx.finish_tokens (c : Ctx) (s : State) (f : Group → Group) :
    (c.finish s f).tokens = s.tokens := rfl
@[simp] theorem Ctx.finish_shootdowns (c : Ctx) (s : State) (f : Group → Group) :
    (c.finish s f).shootdowns = s.shootdowns := rfl
@[simp] theorem Ctx.finish_wherry (c : Ctx) (s : State) (f : Group → Group) :
    (c.finish s f).wherry = s.wherry := rfl
@[simp] theorem Ctx.finish_ferry (c : Ctx) (s : State) (f : Group → Group) :
    (c.finish s f).ferry = s.ferry := rfl
@[simp] theorem Ctx.finish_remote (c : Ctx) (s : State) (f : Group → Group) :
    (c.finish s f).remote = s.remote := rfl
@[simp] theorem Ctx.finish_arrivers (c : Ctx) (s : State) (f : Group → Group) :
    (c.finish s f).arrivers = s.arrivers := rfl
@[simp] theorem Ctx.finish_counts (c : Ctx) (s : State) (f : Group → Group) :
    (c.finish s f).counts = s.counts := rfl
@[simp] theorem Ctx.finish_nextAge (c : Ctx) (s : State) (f : Group → Group) :
    (c.finish s f).nextAge = s.nextAge := rfl
@[simp] theorem Ctx.finish_nextOp (c : Ctx) (s : State) (f : Group → Group) :
    (c.finish s f).nextOp = s.nextOp := rfl
@[simp] theorem Ctx.finish_wstamp (c : Ctx) (s : State) (f : Group → Group) :
    (c.finish s f).wstamp = s.wstamp := rfl
@[simp] theorem Ctx.finish_issueClock (c : Ctx) (s : State) (f : Group → Group) :
    (c.finish s f).issueClock = s.issueClock := rfl
@[simp] theorem Ctx.finish_agenda (c : Ctx) (s : State) (f : Group → Group) :
    (c.finish s f).agenda = s.agenda := rfl
@[simp] theorem Ctx.finish_arrivals (c : Ctx) (s : State) (f : Group → Group) :
    (c.finish s f).arrivals = s.arrivals := rfl
@[simp] theorem Ctx.finish_inbox (c : Ctx) (s : State) (f : Group → Group) :
    (c.finish s f).inbox = s.inbox := rfl
@[simp] theorem Ctx.finish_issuing (c : Ctx) (s : State) (f : Group → Group) :
    (c.finish s f).issuing = s.issuing := rfl
@[simp] theorem Ctx.finish_turn (c : Ctx) (s : State) (f : Group → Group) :
    (c.finish s f).turn = s.turn := rfl
@[simp] theorem Ctx.finish_outbox (c : Ctx) (s : State) (f : Group → Group) :
    (c.finish s f).outbox = s.outbox := rfl
@[simp] theorem Ctx.finish_freeCtr (c : Ctx) (s : State) (f : Group → Group) :
    (c.finish s f).freeCtr = s.freeCtr := rfl
@[simp] theorem Ctx.finish_cur (c : Ctx) (s : State) (f : Group → Group) :
    (c.finish s f).cur = s.cur := rfl

/-! ## A workgroup and a launch queue -/

@[simp] theorem State.onWg_pkg (s : State) (wg : Nat) (f : Workgroup → Workgroup) :
    (s.onWg wg f).pkg = s.pkg := rfl
@[simp] theorem State.onWg_rackN (s : State) (wg : Nat) (f : Workgroup → Workgroup) :
    (s.onWg wg f).rackN = s.rackN := rfl
@[simp] theorem State.onWg_time8 (s : State) (wg : Nat) (f : Workgroup → Workgroup) :
    (s.onWg wg f).time8 = s.time8 := rfl
@[simp] theorem State.onWg_ticks (s : State) (wg : Nat) (f : Workgroup → Workgroup) :
    (s.onWg wg f).ticks = s.ticks := rfl
@[simp] theorem State.onWg_mem (s : State) (wg : Nat) (f : Workgroup → Workgroup) :
    (s.onWg wg f).mem = s.mem := rfl
@[simp] theorem State.onWg_win (s : State) (wg : Nat) (f : Workgroup → Workgroup) :
    (s.onWg wg f).win = s.win := rfl
@[simp] theorem State.onWg_dbg (s : State) (wg : Nat) (f : Workgroup → Workgroup) :
    (s.onWg wg f).dbg = s.dbg := rfl
@[simp] theorem State.onWg_plat (s : State) (wg : Nat) (f : Workgroup → Workgroup) :
    (s.onWg wg f).plat = s.plat := rfl
@[simp] theorem State.onWg_boot (s : State) (wg : Nat) (f : Workgroup → Workgroup) :
    (s.onWg wg f).boot = s.boot := rfl
@[simp] theorem State.onWg_fabric (s : State) (wg : Nat) (f : Workgroup → Workgroup) :
    (s.onWg wg f).fabric = s.fabric := rfl
@[simp] theorem State.onWg_cores (s : State) (wg : Nat) (f : Workgroup → Workgroup) :
    (s.onWg wg f).cores = s.cores := rfl
@[simp] theorem State.onWg_groups (s : State) (wg : Nat) (f : Workgroup → Workgroup) :
    (s.onWg wg f).groups = s.groups := rfl
@[simp] theorem State.onWg_wgs (s : State) (wg : Nat) (f : Workgroup → Workgroup) :
    (s.onWg wg f).wgs = Map.modify s.wgs wg f := rfl
@[simp] theorem State.onWg_queues (s : State) (wg : Nat) (f : Workgroup → Workgroup) :
    (s.onWg wg f).queues = s.queues := rfl
@[simp] theorem State.onWg_pend (s : State) (wg : Nat) (f : Workgroup → Workgroup) :
    (s.onWg wg f).pend = s.pend := rfl
@[simp] theorem State.onWg_landing (s : State) (wg : Nat) (f : Workgroup → Workgroup) :
    (s.onWg wg f).landing = s.landing := rfl
@[simp] theorem State.onWg_parks (s : State) (wg : Nat) (f : Workgroup → Workgroup) :
    (s.onWg wg f).parks = s.parks := rfl
@[simp] theorem State.onWg_faultWait (s : State) (wg : Nat) (f : Workgroup → Workgroup) :
    (s.onWg wg f).faultWait = s.faultWait := rfl
@[simp] theorem State.onWg_tokens (s : State) (wg : Nat) (f : Workgroup → Workgroup) :
    (s.onWg wg f).tokens = s.tokens := rfl
@[simp] theorem State.onWg_shootdowns (s : State) (wg : Nat) (f : Workgroup → Workgroup) :
    (s.onWg wg f).shootdowns = s.shootdowns := rfl
@[simp] theorem State.onWg_wherry (s : State) (wg : Nat) (f : Workgroup → Workgroup) :
    (s.onWg wg f).wherry = s.wherry := rfl
@[simp] theorem State.onWg_ferry (s : State) (wg : Nat) (f : Workgroup → Workgroup) :
    (s.onWg wg f).ferry = s.ferry := rfl
@[simp] theorem State.onWg_remote (s : State) (wg : Nat) (f : Workgroup → Workgroup) :
    (s.onWg wg f).remote = s.remote := rfl
@[simp] theorem State.onWg_arrivers (s : State) (wg : Nat) (f : Workgroup → Workgroup) :
    (s.onWg wg f).arrivers = s.arrivers := rfl
@[simp] theorem State.onWg_counts (s : State) (wg : Nat) (f : Workgroup → Workgroup) :
    (s.onWg wg f).counts = s.counts := rfl
@[simp] theorem State.onWg_nextAge (s : State) (wg : Nat) (f : Workgroup → Workgroup) :
    (s.onWg wg f).nextAge = s.nextAge := rfl
@[simp] theorem State.onWg_nextOp (s : State) (wg : Nat) (f : Workgroup → Workgroup) :
    (s.onWg wg f).nextOp = s.nextOp := rfl
@[simp] theorem State.onWg_wstamp (s : State) (wg : Nat) (f : Workgroup → Workgroup) :
    (s.onWg wg f).wstamp = s.wstamp := rfl
@[simp] theorem State.onWg_issueClock (s : State) (wg : Nat) (f : Workgroup → Workgroup) :
    (s.onWg wg f).issueClock = s.issueClock := rfl
@[simp] theorem State.onWg_agenda (s : State) (wg : Nat) (f : Workgroup → Workgroup) :
    (s.onWg wg f).agenda = s.agenda := rfl
@[simp] theorem State.onWg_arrivals (s : State) (wg : Nat) (f : Workgroup → Workgroup) :
    (s.onWg wg f).arrivals = s.arrivals := rfl
@[simp] theorem State.onWg_inbox (s : State) (wg : Nat) (f : Workgroup → Workgroup) :
    (s.onWg wg f).inbox = s.inbox := rfl
@[simp] theorem State.onWg_issuing (s : State) (wg : Nat) (f : Workgroup → Workgroup) :
    (s.onWg wg f).issuing = s.issuing := rfl
@[simp] theorem State.onWg_turn (s : State) (wg : Nat) (f : Workgroup → Workgroup) :
    (s.onWg wg f).turn = s.turn := rfl
@[simp] theorem State.onWg_outbox (s : State) (wg : Nat) (f : Workgroup → Workgroup) :
    (s.onWg wg f).outbox = s.outbox := rfl
@[simp] theorem State.onWg_freeCtr (s : State) (wg : Nat) (f : Workgroup → Workgroup) :
    (s.onWg wg f).freeCtr = s.freeCtr := rfl
@[simp] theorem State.onWg_cur (s : State) (wg : Nat) (f : Workgroup → Workgroup) :
    (s.onWg wg f).cur = s.cur := rfl
@[simp] theorem State.onQueue_pkg (s : State) (q : Nat) (f : Queue → Queue) :
    (s.onQueue q f).pkg = s.pkg := rfl
@[simp] theorem State.onQueue_rackN (s : State) (q : Nat) (f : Queue → Queue) :
    (s.onQueue q f).rackN = s.rackN := rfl
@[simp] theorem State.onQueue_time8 (s : State) (q : Nat) (f : Queue → Queue) :
    (s.onQueue q f).time8 = s.time8 := rfl
@[simp] theorem State.onQueue_ticks (s : State) (q : Nat) (f : Queue → Queue) :
    (s.onQueue q f).ticks = s.ticks := rfl
@[simp] theorem State.onQueue_mem (s : State) (q : Nat) (f : Queue → Queue) :
    (s.onQueue q f).mem = s.mem := rfl
@[simp] theorem State.onQueue_win (s : State) (q : Nat) (f : Queue → Queue) :
    (s.onQueue q f).win = s.win := rfl
@[simp] theorem State.onQueue_dbg (s : State) (q : Nat) (f : Queue → Queue) :
    (s.onQueue q f).dbg = s.dbg := rfl
@[simp] theorem State.onQueue_plat (s : State) (q : Nat) (f : Queue → Queue) :
    (s.onQueue q f).plat = s.plat := rfl
@[simp] theorem State.onQueue_boot (s : State) (q : Nat) (f : Queue → Queue) :
    (s.onQueue q f).boot = s.boot := rfl
@[simp] theorem State.onQueue_fabric (s : State) (q : Nat) (f : Queue → Queue) :
    (s.onQueue q f).fabric = s.fabric := rfl
@[simp] theorem State.onQueue_cores (s : State) (q : Nat) (f : Queue → Queue) :
    (s.onQueue q f).cores = s.cores := rfl
@[simp] theorem State.onQueue_groups (s : State) (q : Nat) (f : Queue → Queue) :
    (s.onQueue q f).groups = s.groups := rfl
@[simp] theorem State.onQueue_wgs (s : State) (q : Nat) (f : Queue → Queue) :
    (s.onQueue q f).wgs = s.wgs := rfl
@[simp] theorem State.onQueue_queues (s : State) (q : Nat) (f : Queue → Queue) :
    (s.onQueue q f).queues = Map.set Queue.reset s.queues q (f (s.queue q)) := rfl
@[simp] theorem State.onQueue_pend (s : State) (q : Nat) (f : Queue → Queue) :
    (s.onQueue q f).pend = s.pend := rfl
@[simp] theorem State.onQueue_landing (s : State) (q : Nat) (f : Queue → Queue) :
    (s.onQueue q f).landing = s.landing := rfl
@[simp] theorem State.onQueue_parks (s : State) (q : Nat) (f : Queue → Queue) :
    (s.onQueue q f).parks = s.parks := rfl
@[simp] theorem State.onQueue_faultWait (s : State) (q : Nat) (f : Queue → Queue) :
    (s.onQueue q f).faultWait = s.faultWait := rfl
@[simp] theorem State.onQueue_tokens (s : State) (q : Nat) (f : Queue → Queue) :
    (s.onQueue q f).tokens = s.tokens := rfl
@[simp] theorem State.onQueue_shootdowns (s : State) (q : Nat) (f : Queue → Queue) :
    (s.onQueue q f).shootdowns = s.shootdowns := rfl
@[simp] theorem State.onQueue_wherry (s : State) (q : Nat) (f : Queue → Queue) :
    (s.onQueue q f).wherry = s.wherry := rfl
@[simp] theorem State.onQueue_ferry (s : State) (q : Nat) (f : Queue → Queue) :
    (s.onQueue q f).ferry = s.ferry := rfl
@[simp] theorem State.onQueue_remote (s : State) (q : Nat) (f : Queue → Queue) :
    (s.onQueue q f).remote = s.remote := rfl
@[simp] theorem State.onQueue_arrivers (s : State) (q : Nat) (f : Queue → Queue) :
    (s.onQueue q f).arrivers = s.arrivers := rfl
@[simp] theorem State.onQueue_counts (s : State) (q : Nat) (f : Queue → Queue) :
    (s.onQueue q f).counts = s.counts := rfl
@[simp] theorem State.onQueue_nextAge (s : State) (q : Nat) (f : Queue → Queue) :
    (s.onQueue q f).nextAge = s.nextAge := rfl
@[simp] theorem State.onQueue_nextOp (s : State) (q : Nat) (f : Queue → Queue) :
    (s.onQueue q f).nextOp = s.nextOp := rfl
@[simp] theorem State.onQueue_wstamp (s : State) (q : Nat) (f : Queue → Queue) :
    (s.onQueue q f).wstamp = s.wstamp := rfl
@[simp] theorem State.onQueue_issueClock (s : State) (q : Nat) (f : Queue → Queue) :
    (s.onQueue q f).issueClock = s.issueClock := rfl
@[simp] theorem State.onQueue_agenda (s : State) (q : Nat) (f : Queue → Queue) :
    (s.onQueue q f).agenda = s.agenda := rfl
@[simp] theorem State.onQueue_arrivals (s : State) (q : Nat) (f : Queue → Queue) :
    (s.onQueue q f).arrivals = s.arrivals := rfl
@[simp] theorem State.onQueue_inbox (s : State) (q : Nat) (f : Queue → Queue) :
    (s.onQueue q f).inbox = s.inbox := rfl
@[simp] theorem State.onQueue_issuing (s : State) (q : Nat) (f : Queue → Queue) :
    (s.onQueue q f).issuing = s.issuing := rfl
@[simp] theorem State.onQueue_turn (s : State) (q : Nat) (f : Queue → Queue) :
    (s.onQueue q f).turn = s.turn := rfl
@[simp] theorem State.onQueue_outbox (s : State) (q : Nat) (f : Queue → Queue) :
    (s.onQueue q f).outbox = s.outbox := rfl
@[simp] theorem State.onQueue_freeCtr (s : State) (q : Nat) (f : Queue → Queue) :
    (s.onQueue q f).freeCtr = s.freeCtr := rfl
@[simp] theorem State.onQueue_cur (s : State) (q : Nat) (f : Queue → Queue) :
    (s.onQueue q f).cur = s.cur := rfl

end Sys2Proof.Machine
end

