-- ==== Sys2Proof/Laws/Ops.lean ====
section
/-! SUPPORT. What the shared operations can do, said once: running a meaning, completing, the checks of vector runs, and
the instruction shapes built on them. -/

namespace Sys2Proof.Machine

/-! ## The current fragment -/

/-- What the current fragment is. -/
theorem State.ctx?_eq {s : State} {c : Ctx} (h : s.ctx? = some c) :
    Map.find? s.groups c.age = some c.g ∧ c.g.frag? c.entry = some c.f ∧ c.clock = s.issueClock := by
  unfold State.ctx? at h
  split at h
  · cases h
  · split at h
    · cases h
    · split at h
      · cases h
      · cases h; exact ⟨by assumption, by assumption, rfl⟩

/-- Running a meaning for the current fragment. -/
theorem run_eq {s : State} {c : Ctx} (h : s.ctx? = some c) (body : Ctx → Except Stop State) :
    run s body = match body c with
      | .ok t => .next t
      | .error e => .next (c.stopped s e) := by
  unfold run; rw [h] <;> rfl

theorem run_ok {s t : State} {c : Ctx} (h : s.ctx? = some c) {body : Ctx → Except Stop State} (hb : body c = .ok t) :
    run s body = .next t := by rw [run_eq h, hb]

theorem run_error {s : State} {c : Ctx} (h : s.ctx? = some c) {body : Ctx → Except Stop State} {e : Stop}
    (hb : body c = .error e) : run s body = .next (c.stopped s e) := by rw [run_eq h, hb]

/-- A machine with no current fragment executes no instruction word. -/
theorem run_none {s : State} (h : s.ctx? = none) (body : Ctx → Except Stop State) : run s body = .fault .noFragment := by
  unfold run; rw [h]

/-! ## Completing -/

@[simp] theorem Ctx.advance_id (c : Ctx) (g : Group) : (c.advance g).id = g.id := Group.onFrag_id _ _ _
@[simp] theorem Ctx.advance_regs (c : Ctx) (g : Group) : (c.advance g).regs = g.regs := Group.onFrag_regs _ _ _
@[simp] theorem Ctx.advance_sys (c : Ctx) (g : Group) : (c.advance g).sys = g.sys := Group.onFrag_sys _ _ _
@[simp] theorem Ctx.advance_saved (c : Ctx) (g : Group) : (c.advance g).saved = g.saved := Group.onFrag_saved _ _ _
@[simp] theorem Ctx.advance_trapMode (c : Ctx) (g : Group) : (c.advance g).flow.trapMode = g.flow.trapMode :=
  Group.onFrag_trapMode _ _ _
@[simp] theorem Ctx.advance_work (c : Ctx) (g : Group) :
    (c.advance g).work = { g.work with issued := g.work.issued + 1,
                                       packed := g.work.packed + (if c.packed then 1 else 0) } := by
  unfold Ctx.advance; simp only [Group.onFrag_work]

/-- The fragments after an instruction that completes: its own stands at the next instruction. -/
theorem Ctx.advance_frag? (c : Ctx) (g : Group) (e : Nat) :
    (c.advance g).frag? e =
      if e = c.entry then (g.frag? e).map fun f => { f with pc := c.npc, lastIssue := c.clock, age := 0, hold := .none }
      else g.frag? e :=
  Group.frag?_onFrag g c.entry (fun f => { f with pc := c.npc, lastIssue := c.clock, age := 0, hold := .none }) (fun _ => rfl) e

@[simp] theorem Ctx.jump_id (c : Ctx) (g : Group) (a : Word) : (c.jump g a).id = g.id := Group.onFrag_id _ _ _
@[simp] theorem Ctx.jump_regs (c : Ctx) (g : Group) (a : Word) : (c.jump g a).regs = g.regs := Group.onFrag_regs _ _ _
@[simp] theorem Ctx.jump_sys (c : Ctx) (g : Group) (a : Word) : (c.jump g a).sys = g.sys := Group.onFrag_sys _ _ _
@[simp] theorem Ctx.jump_saved (c : Ctx) (g : Group) (a : Word) : (c.jump g a).saved = g.saved := Group.onFrag_saved _ _ _
@[simp] theorem Ctx.jump_trapMode (c : Ctx) (g : Group) (a : Word) : (c.jump g a).flow.trapMode = g.flow.trapMode :=
  Group.onFrag_trapMode _ _ _
@[simp] theorem Ctx.jump_work (c : Ctx) (g : Group) (a : Word) :
    (c.jump g a).work = { g.work with issued := g.work.issued + 1,
                                      packed := g.work.packed + (if c.packed then 1 else 0) } := by
  unfold Ctx.jump; simp only [Group.onFrag_work]

theorem Ctx.jump_frag? (c : Ctx) (g : Group) (a : Word) (e : Nat) :
    (c.jump g a).frag? e =
      if e = c.entry then
        (g.frag? e).map fun f =>
          { f with pc := a, needHeader := true, lastIssue := c.clock, age := 0, hold := .none, readyAt := c.now + 3 }
      else g.frag? e :=
  Group.frag?_onFrag g c.entry
    (fun f => { f with pc := a, needHeader := true, lastIssue := c.clock, age := 0, hold := .none, readyAt := c.now + 3 })
    (fun _ => rfl) e

/-! ## Checks -/

@[simp] theorem need_true (e : Stop) : need true e = .ok () := rfl
@[simp] theorem need_false (e : Stop) : need false e = .error e := rfl
theorem need_of {b : Bool} (h : b = true) (e : Stop) : need b e = .ok () := by rw [h]; rfl

theorem Ctx.checkRuns_ok {c : Ctx} {rs : List (Nat × Nat)} (h : c.Fits rs) : c.checkRuns rs = .ok () := by
  unfold Ctx.checkRuns; exact need_of (List.all_eq_true.2 h) _

theorem least?_nil_of {l : List Nat} (h : l = []) : least? l = none := by rw [h]; rfl

theorem Ctx.checkCells_ok {c : Ctx} {p : Nat → Nat → Bool}
    (h : ∀ i ∈ c.g.regs.poison, p (i / 32) (i % 32) = false) : c.checkCells p = .ok () := by
  unfold Ctx.checkCells
  rw [show (c.g.regs.poison.filter fun i => p (i / 32) (i % 32)) = [] from
    List.filter_eq_nil_iff.2 fun i hi => by simp [h i hi]]
  rfl

theorem Ctx.checkEcc_ok {c : Ctx} {lanes : Lane} {rs : List (Nat × Nat)} (h : c.Clean lanes rs) :
    c.checkEcc lanes rs = .ok () := by
  refine Ctx.checkCells_ok fun i hi => ?_
  cases hl : lanes.getLsbD (i % 32)
  · simp
  · simp only [Bool.true_and, List.any_eq_false]
    intro r hr hc
    simp only [Bool.and_eq_true, decide_eq_true_eq] at hc
    refine h _ hl r hr (i / 32 - c.g.vKey r.1) (by omega) ?_
    rw [show 32 * (c.g.vKey r.1 + (i / 32 - c.g.vKey r.1)) + i % 32 = i by omega]
    exact hi

/-! ## What a written group looks like -/

theorem Group.scalarFrom_setS (g : Group) (d : BitVec 6) (w : Word) : (g.setS d w).ScalarFrom g d w where
  value := by rw [Group.s_setS]; simp
  others n h := by rw [Group.s_setS, if_neg h]
  hidden := by
    cases h : g.flow.trapMode
    · simpa using (g.setS_hidden d w).1 h
    · simpa using (g.setS_hidden d w).2 h
  discarded h := by unfold Group.setS; rw [if_pos h]
  rest := by
    rcases g.setS_cases d w with ⟨_, e⟩ | ⟨_, _, _, _, e⟩ | ⟨_, _, e⟩ <;> rw [e]

theorem Group.condFrom_setC (g : Group) (n : BitVec 2) (b : Bool) : (g.setC n b).CondFrom g n b where
  value := by rw [Group.c_setC, if_pos rfl]
  others k h := by rw [Group.c_setC, if_neg h]
  rest := rfl

theorem Group.maskFrom_setMBits (g : Group) (n : Nat) (lanes v : Lane) :
    (g.setMBits n lanes v).MaskFrom g n lanes v.getLsbD where
  value l h := by rw [Group.setMBits_bit, if_pos h]
  kept l h := by rw [Group.setMBits_bit, if_neg (by simp [h])]
  others j h := by rw [Group.setMBits_eq, if_neg (Ne.symm h)]
  rest := rfl

theorem Group.eq_of_parts {g g' : Group} {r : Regs} (h1 : g'.id = g.id) (h2 : g'.regs = r) (h3 : g'.flow = g.flow)
    (h4 : g'.sys = g.sys) (h5 : g'.work = g.work) (h6 : g'.saved = g.saved) : g' = { g with regs := r } := by
  cases g'; simp_all

theorem Group.vectorFrom_setCells (g : Group) (k n : Nat) (lanes : Lane) (f : Nat → Nat → Lane) :
    (g.setCells (runCells k (lanesOf lanes) n f)).VectorFrom g k n lanes f where
  value l j h hj := Group.cell_setCells_run g k n _ (fun _ h => lt_of_mem_lanesOf h) f l j (mem_lanesOf.2 h) hj
  others i l h ho := Group.cell_setCells_run_other g k n _ (fun _ h => lt_of_mem_lanesOf h) f i l h
    (by rwa [mem_lanesOf])
  poison i l h := by
    rw [Group.setCells_poison]
    refine and_congr_right fun _ => ⟨?_, ?_⟩
    · rintro hp ⟨hl, h1, h2⟩
      exact hp _ (mem_runCells.2 ⟨l, mem_lanesOf.2 hl, i - k, by omega, rfl⟩) (by simp only; omega)
    · rintro hp p hm e
      obtain ⟨l', hl', j, hj, rfl⟩ := mem_runCells.1 hm
      have := lt_of_mem_lanesOf hl'
      simp only at e
      have e1 : l' = l := by omega
      subst e1
      exact hp ⟨mem_lanesOf.1 hl', by omega, by omega⟩
  rest := Group.eq_of_parts (by simp) (g.setCells_regs _) (by simp) (by simp) (by simp) (by simp)

@[simp] theorem Group.orFp_zero (g : Group) : g.orFp 0#4 = g := by
  unfold Group.orFp; simp

end Sys2Proof.Machine
end

