-- ==== Sys2Proof/Laws/Shapes.lean ====
section
/-! SUPPORT. What the instruction shapes leave: one lemma per shape, under the conditions in which it completes. -/

namespace Sys2Proof.Machine

/-! ## Scalar shapes -/

theorem scalarOp_next {s : State} {c : Ctx} (h : s.ctx? = some c) (b a d : BitVec 6) (f : Word → Word → Word → Word) :
    scalarOp s b a d f = .next (c.done s (c.g.setS d (f (c.g.s a) (c.g.s b) (c.g.s d)))) := run_ok h rfl

theorem scalarUnary_next {s : State} {c : Ctx} (h : s.ctx? = some c) (a d : BitVec 6) (f : Word → Word) :
    scalarUnary s a d f = .next (c.done s (c.g.setS d (f (c.g.s a)))) := run_ok h rfl

/-- An instruction that completes with a scalar register written, where the value is the one claimed. -/
theorem scalarResult_of {s : State} {c : Ctx} {i : Instr} {d : BitVec 6} {w w' : Word}
    (h : exec i s = .next (c.done s (c.g.setS d w))) (e : w = w') : ScalarResult s c i d w' :=
  ⟨_, h, e ▸ c.g.scalarFrom_setS d w⟩

theorem condResult_of {s : State} {c : Ctx} {i : Instr} {n : BitVec 2} {b b' : Bool}
    (h : exec i s = .next (c.done s (c.g.setC n b))) (e : b = b') : CondResult s c i n b' :=
  ⟨_, h, e ▸ c.g.condFrom_setC n b⟩

/-! ## Vector shapes -/

theorem vectorOp_next {s : State} {c : Ctx} (h : s.ctx? = some c) {rd : List (Nat × Nat)} {d n : Nat}
    (fit : c.Fits ((d, n) :: rd)) (clean : c.Clean c.active rd) (f : Ctx → Nat → Nat → Lane × Flags) :
    vectorOp s rd d n f = .next (c.done s ((c.g.setCells (runCells (c.g.vKey d) c.lanes n fun l j => (f c l j).1)).orFp
      (c.lanes.foldl (fun a l => (List.range n).foldl (fun b j => b ||| (f c l j).2) a) 0#4))) := by
  unfold vectorOp
  rw [run_eq h]
  simp only [Ctx.checkRuns_ok fit, Ctx.checkEcc_ok clean, bind, Except.bind]

theorem vectorInt_next {s : State} {c : Ctx} (h : s.ctx? = some c) {rd : List (Nat × Nat)} {d : Nat}
    (fit : c.Fits ((d, 1) :: rd)) (clean : c.Clean c.active rd) (f : Ctx → Nat → Lane) :
    vectorInt s rd d f = .next (c.done s (c.g.setCells (runCells (c.g.vKey d) c.lanes 1 fun l _ => f c l))) := by
  unfold vectorInt
  rw [run_eq h]
  simp only [Ctx.checkRuns_ok fit, Ctx.checkEcc_ok clean, bind, Except.bind]

theorem vectorMask_next {s : State} {c : Ctx} (h : s.ctx? = some c) {rd : List (Nat × Nat)} {m : Nat}
    (fit : c.Fits rd) (clean : c.Clean c.active rd) (f : Ctx → Nat → Bool) :
    vectorMask s rd m f = .next (c.done s (c.g.setMBits m c.active (maskOf (c.lanes.filter (f c))))) := by
  unfold vectorMask
  rw [run_eq h]
  simp only [Ctx.checkRuns_ok fit, Ctx.checkEcc_ok clean, bind, Except.bind]

theorem kindBOver_next {s : State} {c : Ctx} (h : s.ctx? = some c) {runs rd : List (Nat × Nat)} {d n : Nat}
    (fit : c.Fits ((d, n) :: runs)) (flag : c.flagB.isSome = true) (clean : c.Clean c.active rd)
    (sw : Ctx → List (Nat × Word)) (fp : Ctx → Flags) (f : Ctx → Nat → Nat → Lane) :
    kindBOver s runs rd d n sw fp f = .next (c.launch (c.done s c.g) c.flagB none
      (.result (runCells (c.g.vKey d) c.lanes n fun l j => f c l j) (sw c) (fp c))) := by
  unfold kindBOver Ctx.needB
  rw [run_eq h]
  simp only [Ctx.checkRuns_ok fit, Ctx.checkEcc_ok clean, need_of flag, bind, Except.bind]

theorem kindB_next {s : State} {c : Ctx} (h : s.ctx? = some c) {rd : List (Nat × Nat)} {d n : Nat}
    (fit : c.Fits ((d, n) :: rd)) (flag : c.flagB.isSome = true) (clean : c.Clean c.active rd)
    (sw : Ctx → List (Nat × Word)) (fp : Ctx → Flags) (f : Ctx → Nat → Nat → Lane) :
    kindB s rd d n sw fp f = .next (c.launch (c.done s c.g) c.flagB none
      (.result (runCells (c.g.vKey d) c.lanes n fun l j => f c l j) (sw c) (fp c))) :=
  kindBOver_next h fit flag clean sw fp f

/-- An instruction that completes with a run of registers written, where the lanes take the values claimed. -/
theorem vectorResult_of {s : State} {c : Ctx} {i : Instr} {d n : Nat} {f f' : Nat → Nat → Lane} {fl : Flags}
    (h : exec i s = .next (c.done s ((c.g.setCells (runCells (c.g.vKey d) c.lanes n f)).orFp fl)))
    (e : ∀ l j, l < 32 → j < n → f l j = f' l j) : VectorResult s c i d n f' fl := by
  refine ⟨_, h, ?_⟩
  have hv := c.g.vectorFrom_setCells (c.g.vKey d) n c.active f
  refine { hv with value := fun l j hl hj => ?_ }
  rw [← e l j (lt_of_mem_lanesOf (mem_lanesOf.2 hl)) hj]
  exact hv.value l j hl hj

/-- The same for a shape that raises no flag. -/
theorem vectorResult_of_int {s : State} {c : Ctx} {i : Instr} {d n : Nat} {f f' : Nat → Nat → Lane}
    (h : exec i s = .next (c.done s (c.g.setCells (runCells (c.g.vKey d) c.lanes n f))))
    (e : ∀ l j, l < 32 → j < n → f l j = f' l j) : VectorResult s c i d n f' 0#4 :=
  vectorResult_of (by rw [Group.orFp_zero]; exact h) e

theorem maskResult_of {s : State} {c : Ctx} {i : Instr} {m : Nat} {lanes v : Lane} {p : Nat → Bool}
    (h : exec i s = .next (c.done s (c.g.setMBits m lanes v))) (e : ∀ l, lanes.getLsbD l = true → v.getLsbD l = p l) :
    MaskResult s c i m lanes p := by
  refine ⟨_, h, ?_⟩
  have hm := c.g.maskFrom_setMBits m lanes v
  exact { hm with value := fun l hl => (hm.value l hl).trans (e l hl) }

/-! ## Kind-B shapes -/

theorem Group.setSKey_sKey (g g' : Group) (d : BitVec 6) (w : Word) (h : g'.flow.trapMode = g.flow.trapMode) :
    g'.setSKey (g.sKey d) w = g'.setS d w := by
  have hd := d.isLt
  have e : d = 63#6 ↔ d.toNat = 63 := ⟨fun e => e ▸ rfl, fun e => BitVec.eq_of_toNat_eq e⟩
  unfold Group.setSKey Group.sKey Group.setS
  rw [h]
  by_cases ht : (g.flow.trapMode && decide (48 ≤ d.toNat) && decide (d.toNat ≤ 55)) = true
  · rw [if_pos ht, if_pos ht]
    simp only [Bool.and_eq_true, decide_eq_true_eq] at ht
    rw [if_neg (by omega), if_pos (by omega), if_neg (by rw [e]; omega)]
    simp
  · rw [if_neg ht, if_neg ht]
    by_cases h63 : d = 63#6
    · rw [if_pos h63, if_pos (e.1 h63)]
    · rw [if_neg h63, if_neg (fun h => h63 (e.2 h)), if_neg (by omega)]

theorem Ctx.launch_none (c : Ctx) (s : State) (flag : Option Nat) (k : PendKind) :
    c.launch s flag none k = { s with
      nextOp := s.nextOp + 1,
      pend := s.pend ++ [{ id := s.nextOp, age := c.age, flag := flag, trapBank := c.g.flow.trapMode, path := none,
                           entry := c.entry, pc := c.pc, lanes := c.active, kind := k }] } := rfl

/-- A kind-B instruction that launches results, where they write what is claimed. -/
theorem laterResult_of {s : State} {c : Ctx} {i : Instr} {Q : Group → Group → Prop} {vw : List (Nat × Lane)}
    {sw : List (Nat × Word)} {fp : Flags} (h : exec i s = .next (c.launch (c.done s c.g) c.flagB none (.result vw sw fp)))
    (q : ∀ g : Group, g.flow.trapMode = c.g.flow.trapMode →
      Q ((sw.foldl (fun h w => h.setSKey w.1 w.2) (g.setCells vw)).orFp fp) g) : LaterResult s c i Q :=
  ⟨_, h, rfl, rfl, rfl, rfl, rfl, fun g hg => ⟨_, ⟨vw, sw, fp, rfl, rfl⟩, q g hg⟩⟩

theorem laterVector_of {s : State} {c : Ctx} {i : Instr} {d n : Nat} {f f' : Nat → Nat → Lane} {fl : Flags}
    (h : exec i s = .next (c.launch (c.done s c.g) c.flagB none (.result (runCells (c.g.vKey d) c.lanes n f) [] fl)))
    (e : ∀ l j, l < 32 → j < n → f l j = f' l j) : LaterVector s c i d n f' fl := by
  refine laterResult_of h fun g _ => ⟨_, rfl, ?_⟩
  have hv := g.vectorFrom_setCells (c.g.vKey d) n c.active f
  refine { hv with value := fun l j hl hj => ?_ }
  rw [← e l j (lt_of_mem_lanesOf (mem_lanesOf.2 hl)) hj]
  exact hv.value l j hl hj

theorem laterScalar_of {s : State} {c : Ctx} {i : Instr} {d : BitVec 6} {w w' : Word}
    (h : exec i s = .next (c.launch (c.done s c.g) c.flagB none (.result [] [(c.g.sKey d, w)] 0#4)))
    (e : w = w') : LaterScalar s c i d w' := by
  refine laterResult_of h fun g hg => ?_
  simp only [List.foldl, Group.setCells_nil, Group.orFp_zero, Group.setSKey_sKey _ _ _ _ hg]
  exact e ▸ g.scalarFrom_setS d w

end Sys2Proof.Machine
end

