-- ==== Sys2Proof/Laws/Access.lean ====
section
/-! SUPPORT. What a memory instruction that passes its checks does: its effect, in the state with the rights of its pages
cached. -/

namespace Sys2Proof.Machine

theorem find?_none_of {α : Type} {p : α → Bool} {l : List α} (h : ∀ a ∈ l, p a = false) : l.find? p = none := by
  simpa using h

theorem any_false_of {α : Type} {p : α → Bool} {l : List α} (h : ∀ a ∈ l, p a = false) : l.any p = false := by
  simpa using h

theorem Ctx.checkPlain_ok {c : Ctx} {s : State} {r : AccessRule} {rd wr : Bool} {accs : List Access}
    (h : c.MayAccess s r rd wr accs) : c.checkPlain s.uncount r accs = .ok () := by
  have h1 : accs.find? (s.uncount.spaceBad c.g r) = none := find?_none_of h.space
  have h2 : (accs.find? fun a => a.inWindow && !c.g.flow.trapMode) = none := find?_none_of fun a ha => by
    cases hw : a.inWindow with
    | false => simp
    | true => simp [h.priv a ha hw]
  have h3 : (accs.find? fun a => r.direct && s.uncount.isRemote a.addr) = none := find?_none_of fun a ha => by
    cases hd : r.direct with
    | false => simp
    | true => simp [h.here hd a ha]
  have h4 : accs.find? (Access.misaligned r) = none := find?_none_of h.aligned
  unfold Ctx.checkPlain
  simp [h1, h2, h3, h4, bind, Except.bind]

theorem Ctx.checkRights_ok {c : Ctx} {s : State} {r : AccessRule} {rd wr : Bool} {accs : List Access}
    (h : c.MayAccess s r rd wr accs) : c.checkRights (c.reached s accs) r accs = .ok () := by
  have h1 : (accs.find? fun a => a.hasRights && !((c.reached s accs).rights c.core c.ctx a.addr).1.has r.right) = none :=
    find?_none_of fun a ha => by
      cases hr : a.hasRights with
      | false => simp
      | true => simp [h.rights a ha hr]
  have h2 : (accs.find? fun a => a.hasRights &&
      decide (widestScope ((c.reached s accs).rights c.core c.ctx a.addr).1.cls < r.scope)) = none :=
    find?_none_of fun a ha => by
      cases hr : a.hasRights with
      | false => simp
      | true => have := h.scope a ha hr; simp; omega
  unfold Ctx.checkRights
  simp [h1, h2, bind, Except.bind]

theorem Ctx.checkWatch_ok {c : Ctx} {s : State} {r : AccessRule} {rd wr : Bool} {accs : List Access}
    (h : c.MayAccess s r rd wr accs) : c.checkWatch (c.reached s accs) rd wr accs = .ok () := by
  have h1 : (accs.find? fun a => (List.range 4).any ((c.reached s accs).watched c.ctx rd wr a)) = none :=
    find?_none_of fun a ha => any_false_of fun w hw => h.unwatched a ha w (List.mem_range.mp hw)
  unfold Ctx.checkWatch
  rw [h1]

theorem Ctx.checkPoison_ok {c : Ctx} {s : State} {accs : List Access} (h : c.Sound s accs) : c.checkPoison s accs = .ok () := by
  unfold Ctx.checkPoison
  split
  · rfl
  · dsimp only
    rw [find?_none_of]
    intro a ha
    apply any_false_of
    intro i hi
    have := h a ha i (List.mem_range.mp hi)
    split
    · next e => simpa using this.1 e
    · next e =>
      have h2 := this.2 e
      cases hf : Map.find? (s.core c.core).l1 (vkey c.ctx a.addr + i) with
      | none => simp
      | some b =>
        simp only [Option.map_some, Option.getD_some, Bool.and_eq_false_iff]
        by_cases hp : poisonL1 c.core (vkey c.ctx a.addr + i) ∈ s.mem.poison
        · exact .inr (h2 hp b hf)
        · exact .inl (by simpa using hp)

theorem MemForm.first_ok {m : MemForm} {c : Ctx} {s : State} (hp : m.pre c = .ok ()) (h : m.reads = true → c.Sound s (m.accs c)) :
    m.first c s = .ok () := by
  unfold MemForm.first
  cases hr : m.reads with
  | false => simp [hp, bind, Except.bind]
  | true => simp [hp, Ctx.checkPoison_ok (h hr), bind, Except.bind]

/-- One that consumes no bytes has no check before those of R19 but its own. -/
theorem MemForm.first_eq {m : MemForm} (c : Ctx) (s : State) (hr : m.reads = false) : m.first c s = m.pre c := by
  unfold MemForm.first
  rw [hr]
  cases m.pre c <;> rfl

/-- Executing a memory instruction whose accesses nothing stops: its effect in the state reached, or what its effect stops
at. -/
theorem runMem_eq {c : Ctx} {s : State} {m : MemForm} {rd wr : Bool} {accs : List Access}
    (h : c.MayAccess s m.rule rd wr accs) (ha : m.accs c = accs) (hr : m.watchRd = rd) (hw : m.watchWr = wr)
    (hp : m.first c s.uncount = .ok ()) (body : Ctx → State → Except Stop State) :
    runMem s m body = match body c (c.reached s accs) with
      | .ok t => .next t
      | .error e => .next (c.stopped (c.reached s accs) e) := by
  subst ha hr hw
  have h1 : ((m.accs c).any fun a => s.uncount.underShootdown (vkey c.ctx a.addr)) = false :=
    any_false_of fun a ha => h.calm a ha
  have h3 := c.checkRights_ok h
  have h4 := c.checkWatch_ok h
  unfold Ctx.reached at h3 h4
  unfold runMem
  simp only [h.current, hp, c.checkPlain_ok h, h1]
  simp only [h3, h4, bind, Except.bind, Ctx.reached, Bool.false_eq_true, if_false]
  cases hl : m.rule.limit with
  | false =>
    simp only [Bool.false_eq_true, if_false] <;> cases body c (s.uncount.cacheRights c.core c.ctx (m.accs c)) <;> rfl
  | true =>
    have h2 : c.checkHwm (m.accs c) = .ok () := by
      have : (m.accs c).filter c.beyondHwm = [] := List.filter_eq_nil_iff.2 fun a ha => by simp [h.inside hl a ha]
      simp [Ctx.checkHwm, this]
    simp only [if_true, h2] <;> cases body c (s.uncount.cacheRights c.core c.ctx (m.accs c)) <;> rfl

theorem runMem_ok {c : Ctx} {s t : State} {m : MemForm} {rd wr : Bool} {accs : List Access}
    (h : c.MayAccess s m.rule rd wr accs) (ha : m.accs c = accs) (hr : m.watchRd = rd) (hw : m.watchWr = wr)
    (hp : m.first c s.uncount = .ok ()) {body : Ctx → State → Except Stop State} (hb : body c (c.reached s accs) = .ok t) :
    runMem s m body = .next t := by rw [runMem_eq h ha hr hw hp, hb]

theorem Ctx.windowOrder_ok {c : Ctx} {s : State} {accs : List Access} (h : c.InOrder s accs) :
    c.windowOrder s accs = .ok () := by
  unfold Ctx.windowOrder need
  cases ha : s.acquiring c.age with
  | false => simp
  | true =>
    have : windowsOf accs = [] := by
      unfold windowsOf
      rw [List.filter_eq_nil_iff]
      intro a hm
      have := h ha a hm
      simp [Access.inWindow]; omega
    simp [this]

/-! ## Ordering points -/

theorem Ctx.surface_ok {c : Ctx} {s : State} (h : c.Orderly s) (rem : FailedRemote → Bool) (eng : FailedEngine → Bool) :
    c.surface rem eng = .ok () := by
  have h1 : c.g.work.failedRemote.filter (fun r => (!c.g.flow.trapMode || r.inTrap) && rem r) = [] :=
    List.filter_eq_nil_iff.2 fun r hr => by simp [h.remote r hr]
  have h2 : c.g.work.failedEngine.filter (fun r => (!c.g.flow.trapMode || r.inTrap) && eng r) = [] :=
    List.filter_eq_nil_iff.2 fun r hr => by simp [h.engine r hr]
  unfold Ctx.surface
  simp [h1, h2, firstRemote, firstEngine]

theorem Ctx.checkLanding_ok {c : Ctx} {s : State} (h : c.Orderly s) : c.checkLanding s = .ok () := by
  have : (s.ownRecords c.g c.age).filter (·.isFaulted) = [] := by
    rw [List.filter_eq_nil_iff]; intro r hr; simp [h.landed r hr]
  unfold Ctx.checkLanding; rw [this]

theorem Ctx.checkDeferred_ok {c : Ctx} {s : State} (h : c.Orderly s) : c.checkDeferred s = .ok () := by
  unfold Ctx.checkDeferred
  simp only [c.checkLanding_ok h, c.surface_ok h, bind, Except.bind]

theorem Ctx.orderingPoint_ok {c : Ctx} {s : State} (h : c.Orderly s) : c.orderingPoint s = .ok () := by
  have : ((s.ownRecords c.g c.age).any fun r => r.isPending && decide (r.id < c.opLimit s)) = false :=
    any_false_of fun r hr => by
      cases hp : r.isPending with
      | false => simp
      | true => have := h.settled r hr hp; simp; omega
  unfold Ctx.orderingPoint Ctx.waitRecords
  simp only [this, c.checkDeferred_ok h, need, bind, Except.bind, Bool.not_false, if_true]

theorem Ctx.releasePoint_ok {c : Ctx} {s : State} (h : c.Released s) (disturbs : Bool)
    (hd : disturbs = true → s.partners c.g = []) : c.releasePoint s disturbs = .ok () := by
  unfold Ctx.releasePoint Ctx.waitRelease Ctx.checkDisturb
  cases disturbs with
  | false => simp [c.orderingPoint_ok h.toOrderly, h.complete, need, bind, Except.bind]
  | true => simp [c.orderingPoint_ok h.toOrderly, h.complete, hd rfl, need, bind, Except.bind]

end Sys2Proof.Machine
end

