-- ==== Sys2Proof/Laws/Dispatch.lean ====
section
/-! SUPPORT. What `exec` does with each instruction: one lemma per constructor. -/

namespace Sys2Proof.Machine

@[simp] theorem exec_clauseHeader (s : State) :
    ∀ g e m b a w, exec (.clauseHeader g e m b a w) s = execClauseHeader g e m b a w s := fun _ _ _ _ _ _ => rfl
@[simp] theorem exec_vmov16 (s : State) :
    ∀ x src d, exec (.vmov16 x src d) s = execVmov16 x src d s := fun _ _ _ => rfl
@[simp] theorem exec_vadd16 (s : State) :
    ∀ x src d, exec (.vadd16 x src d) s = execVadd16 x src d s := fun _ _ _ => rfl
@[simp] theorem exec_vsub16 (s : State) :
    ∀ x src d, exec (.vsub16 x src d) s = execVsub16 x src d s := fun _ _ _ => rfl
@[simp] theorem exec_vmul16 (s : State) :
    ∀ x src d, exec (.vmul16 x src d) s = execVmul16 x src d s := fun _ _ _ => rfl
@[simp] theorem exec_vand16 (s : State) :
    ∀ x src d, exec (.vand16 x src d) s = execVand16 x src d s := fun _ _ _ => rfl
@[simp] theorem exec_vor16 (s : State) :
    ∀ x src d, exec (.vor16 x src d) s = execVor16 x src d s := fun _ _ _ => rfl
@[simp] theorem exec_vxor16 (s : State) :
    ∀ x src d, exec (.vxor16 x src d) s = execVxor16 x src d s := fun _ _ _ => rfl
@[simp] theorem exec_vshl16 (s : State) :
    ∀ x src d, exec (.vshl16 x src d) s = execVshl16 x src d s := fun _ _ _ => rfl
@[simp] theorem exec_vshr16 (s : State) :
    ∀ x src d, exec (.vshr16 x src d) s = execVshr16 x src d s := fun _ _ _ => rfl
@[simp] theorem exec_vsra16 (s : State) :
    ∀ x src d, exec (.vsra16 x src d) s = execVsra16 x src d s := fun _ _ _ => rfl
@[simp] theorem exec_vfadd16 (s : State) :
    ∀ x src d, exec (.vfadd16 x src d) s = execVfadd16 x src d s := fun _ _ _ => rfl
@[simp] theorem exec_vfsub16 (s : State) :
    ∀ x src d, exec (.vfsub16 x src d) s = execVfsub16 x src d s := fun _ _ _ => rfl
@[simp] theorem exec_vfmul16 (s : State) :
    ∀ x src d, exec (.vfmul16 x src d) s = execVfmul16 x src d s := fun _ _ _ => rfl
@[simp] theorem exec_vfmin16 (s : State) :
    ∀ x src d, exec (.vfmin16 x src d) s = execVfmin16 x src d s := fun _ _ _ => rfl
@[simp] theorem exec_vfmax16 (s : State) :
    ∀ x src d, exec (.vfmax16 x src d) s = execVfmax16 x src d s := fun _ _ _ => rfl
@[simp] theorem exec_vaddi16 (s : State) :
    ∀ imm d, exec (.vaddi16 imm d) s = execVaddi16 imm d s := fun _ _ => rfl
@[simp] theorem exec_sadd (s : State) :
    ∀ b a d, exec (.sadd b a d) s = execSadd b a d s := fun _ _ _ => rfl
@[simp] theorem exec_ssub (s : State) :
    ∀ b a d, exec (.ssub b a d) s = execSsub b a d s := fun _ _ _ => rfl
@[simp] theorem exec_smul (s : State) :
    ∀ b a d, exec (.smul b a d) s = execSmul b a d s := fun _ _ _ => rfl
@[simp] theorem exec_smulhI64 (s : State) :
    ∀ b a d, exec (.smulhI64 b a d) s = execSmulhI64 b a d s := fun _ _ _ => rfl
@[simp] theorem exec_smulhN64 (s : State) :
    ∀ b a d, exec (.smulhN64 b a d) s = execSmulhN64 b a d s := fun _ _ _ => rfl
@[simp] theorem exec_sdivn (s : State) :
    ∀ b a d, exec (.sdivn b a d) s = execSdivn b a d s := fun _ _ _ => rfl
@[simp] theorem exec_sand (s : State) :
    ∀ b a d, exec (.sand b a d) s = execSand b a d s := fun _ _ _ => rfl
@[simp] theorem exec_sor (s : State) :
    ∀ b a d, exec (.sor b a d) s = execSor b a d s := fun _ _ _ => rfl
@[simp] theorem exec_sxor (s : State) :
    ∀ b a d, exec (.sxor b a d) s = execSxor b a d s := fun _ _ _ => rfl
@[simp] theorem exec_sshl (s : State) :
    ∀ b a d, exec (.sshl b a d) s = execSshl b a d s := fun _ _ _ => rfl
@[simp] theorem exec_sshr (s : State) :
    ∀ b a d, exec (.sshr b a d) s = execSshr b a d s := fun _ _ _ => rfl
@[simp] theorem exec_ssra (s : State) :
    ∀ b a d, exec (.ssra b a d) s = execSsra b a d s := fun _ _ _ => rfl
@[simp] theorem exec_sminI64 (s : State) :
    ∀ b a d, exec (.sminI64 b a d) s = execSminI64 b a d s := fun _ _ _ => rfl
@[simp] theorem exec_sminN64 (s : State) :
    ∀ b a d, exec (.sminN64 b a d) s = execSminN64 b a d s := fun _ _ _ => rfl
@[simp] theorem exec_smaxI64 (s : State) :
    ∀ b a d, exec (.smaxI64 b a d) s = execSmaxI64 b a d s := fun _ _ _ => rfl
@[simp] theorem exec_smaxN64 (s : State) :
    ∀ b a d, exec (.smaxN64 b a d) s = execSmaxN64 b a d s := fun _ _ _ => rfl
@[simp] theorem exec_ssel (s : State) :
    ∀ c b a d, exec (.ssel c b a d) s = execSsel c b a d s := fun _ _ _ _ => rfl
@[simp] theorem exec_sclz (s : State) :
    ∀ a d, exec (.sclz a d) s = execSclz a d s := fun _ _ => rfl
@[simp] theorem exec_spopc (s : State) :
    ∀ a d, exec (.spopc a d) s = execSpopc a d s := fun _ _ => rfl
@[simp] theorem exec_sbfxN64 (s : State) :
    ∀ b a d, exec (.sbfxN64 b a d) s = execSbfxN64 b a d s := fun _ _ _ => rfl
@[simp] theorem exec_sbfxI64 (s : State) :
    ∀ b a d, exec (.sbfxI64 b a d) s = execSbfxI64 b a d s := fun _ _ _ => rfl
@[simp] theorem exec_sbfi (s : State) :
    ∀ b a d, exec (.sbfi b a d) s = execSbfi b a d s := fun _ _ _ => rfl
@[simp] theorem exec_scmp (s : State) :
    ∀ b a k c, exec (.scmp b a k c) s = execScmp b a k c s := fun _ _ _ _ => rfl
@[simp] theorem exec_smov (s : State) :
    ∀ a d, exec (.smov a d) s = execSmov a d s := fun _ _ => rfl
@[simp] theorem exec_saddImm (s : State) :
    ∀ imm a d, exec (.saddImm imm a d) s = execSaddImm imm a d s := fun _ _ _ => rfl
@[simp] theorem exec_smulImm (s : State) :
    ∀ imm a d, exec (.smulImm imm a d) s = execSmulImm imm a d s := fun _ _ _ => rfl
@[simp] theorem exec_sandImm (s : State) :
    ∀ imm a d, exec (.sandImm imm a d) s = execSandImm imm a d s := fun _ _ _ => rfl
@[simp] theorem exec_sorImm (s : State) :
    ∀ imm a d, exec (.sorImm imm a d) s = execSorImm imm a d s := fun _ _ _ => rfl
@[simp] theorem exec_sxorImm (s : State) :
    ∀ imm a d, exec (.sxorImm imm a d) s = execSxorImm imm a d s := fun _ _ _ => rfl
@[simp] theorem exec_sshlImm (s : State) :
    ∀ imm a d, exec (.sshlImm imm a d) s = execSshlImm imm a d s := fun _ _ _ => rfl
@[simp] theorem exec_sshrImm (s : State) :
    ∀ imm a d, exec (.sshrImm imm a d) s = execSshrImm imm a d s := fun _ _ _ => rfl
@[simp] theorem exec_ssraImm (s : State) :
    ∀ imm a d, exec (.ssraImm imm a d) s = execSsraImm imm a d s := fun _ _ _ => rfl
@[simp] theorem exec_sminImm (s : State) :
    ∀ imm a d, exec (.sminImm imm a d) s = execSminImm imm a d s := fun _ _ _ => rfl
@[simp] theorem exec_smaxImm (s : State) :
    ∀ imm a d, exec (.smaxImm imm a d) s = execSmaxImm imm a d s := fun _ _ _ => rfl
@[simp] theorem exec_scmpImm (s : State) :
    ∀ imm a k c, exec (.scmpImm imm a k c) s = execScmpImm imm a k c s := fun _ _ _ _ => rfl
@[simp] theorem exec_sli (s : State) :
    ∀ imm d, exec (.sli imm d) s = execSli imm d s := fun _ _ => rfl
@[simp] theorem exec_slih (s : State) :
    ∀ h imm d, exec (.slih h imm d) s = execSlih h imm d s := fun _ _ _ => rfl
@[simp] theorem exec_bra (s : State) :
    ∀ o, exec (.bra o) s = execBra o s := fun _ => rfl
@[simp] theorem exec_bcT (s : State) :
    ∀ o c, exec (.bcT o c) s = execBcT o c s := fun _ _ => rfl
@[simp] theorem exec_bcF (s : State) :
    ∀ o c, exec (.bcF o c) s = execBcF o c s := fun _ _ => rfl
@[simp] theorem exec_bdiv (s : State) :
    ∀ o m, exec (.bdiv o m) s = execBdiv o m s := fun _ _ => rfl
@[simp] theorem exec_bvoteAny (s : State) :
    ∀ o m, exec (.bvoteAny o m) s = execBvoteAny o m s := fun _ _ => rfl
@[simp] theorem exec_bvoteAll (s : State) :
    ∀ o m, exec (.bvoteAll o m) s = execBvoteAll o m s := fun _ _ => rfl
@[simp] theorem exec_bvoteNone (s : State) :
    ∀ o m, exec (.bvoteNone o m) s = execBvoteNone o m s := fun _ _ => rfl
@[simp] theorem exec_call (s : State) :
    ∀ o, exec (.call o) s = execCall o s := fun _ => rfl
@[simp] theorem exec_callR (s : State) :
    ∀ a, exec (.callR a) s = execCallR a s := fun _ => rfl
@[simp] theorem exec_ret (s : State) :
    exec (.ret) s = execRet s := rfl
@[simp] theorem exec_jmpi (s : State) :
    ∀ a, exec (.jmpi a) s = execJmpi a s := fun _ => rfl
@[simp] theorem exec_join (s : State) :
    ∀ j, exec (.join j) s = execJoin j s := fun _ => rfl
@[simp] theorem exec_park (s : State) :
    ∀ j, exec (.park j) s = execPark j s := fun _ => rfl
@[simp] theorem exec_strike (s : State) :
    ∀ j, exec (.strike j) s = execStrike j s := fun _ => rfl
@[simp] theorem exec_regang (s : State) :
    exec (.regang) s = execRegang s := rfl
@[simp] theorem exec_exit (s : State) :
    exec (.exit) s = execExit s := rfl
@[simp] theorem exec_nop (s : State) :
    exec (.nop) s = execNop s := rfl
@[simp] theorem exec_yield (s : State) :
    exec (.yield) s = execYield s := rfl
@[simp] theorem exec_srd (s : State) :
    ∀ n a, exec (.srd n a) s = execSrd n a s := fun _ _ => rfl
@[simp] theorem exec_swr (s : State) :
    ∀ n a, exec (.swr n a) s = execSwr n a s := fun _ _ => rfl
@[simp] theorem exec_vadd (s : State) :
    ∀ x b a d, exec (.vadd x b a d) s = execVadd x b a d s := fun _ _ _ _ => rfl
@[simp] theorem exec_vsub (s : State) :
    ∀ x b a d, exec (.vsub x b a d) s = execVsub x b a d s := fun _ _ _ _ => rfl
@[simp] theorem exec_vmul (s : State) :
    ∀ x b a d, exec (.vmul x b a d) s = execVmul x b a d s := fun _ _ _ _ => rfl
@[simp] theorem exec_vmulh (s : State) :
    ∀ x b a d, exec (.vmulh x b a d) s = execVmulh x b a d s := fun _ _ _ _ => rfl
@[simp] theorem exec_vmin (s : State) :
    ∀ x b a d, exec (.vmin x b a d) s = execVmin x b a d s := fun _ _ _ _ => rfl
@[simp] theorem exec_vmax (s : State) :
    ∀ x b a d, exec (.vmax x b a d) s = execVmax x b a d s := fun _ _ _ _ => rfl
@[simp] theorem exec_vabsd (s : State) :
    ∀ x b a d, exec (.vabsd x b a d) s = execVabsd x b a d s := fun _ _ _ _ => rfl
@[simp] theorem exec_vdot4 (s : State) :
    ∀ x b a d, exec (.vdot4 x b a d) s = execVdot4 x b a d s := fun _ _ _ _ => rfl
@[simp] theorem exec_vand (s : State) :
    ∀ x b a d, exec (.vand x b a d) s = execVand x b a d s := fun _ _ _ _ => rfl
@[simp] theorem exec_vor (s : State) :
    ∀ x b a d, exec (.vor x b a d) s = execVor x b a d s := fun _ _ _ _ => rfl
@[simp] theorem exec_vxor (s : State) :
    ∀ x b a d, exec (.vxor x b a d) s = execVxor x b a d s := fun _ _ _ _ => rfl
@[simp] theorem exec_vshl (s : State) :
    ∀ x b a d, exec (.vshl x b a d) s = execVshl x b a d s := fun _ _ _ _ => rfl
@[simp] theorem exec_vshr (s : State) :
    ∀ x b a d, exec (.vshr x b a d) s = execVshr x b a d s := fun _ _ _ _ => rfl
@[simp] theorem exec_vsra (s : State) :
    ∀ x b a d, exec (.vsra x b a d) s = execVsra x b a d s := fun _ _ _ _ => rfl
@[simp] theorem exec_vfshl (s : State) :
    ∀ x b a d, exec (.vfshl x b a d) s = execVfshl x b a d s := fun _ _ _ _ => rfl
@[simp] theorem exec_vfshr (s : State) :
    ∀ x b a d, exec (.vfshr x b a d) s = execVfshr x b a d s := fun _ _ _ _ => rfl
@[simp] theorem exec_vpopc (s : State) :
    ∀ a d, exec (.vpopc a d) s = execVpopc a d s := fun _ _ => rfl
@[simp] theorem exec_vclz (s : State) :
    ∀ a d, exec (.vclz a d) s = execVclz a d s := fun _ _ => rfl
@[simp] theorem exec_vbrev (s : State) :
    ∀ a d, exec (.vbrev a d) s = execVbrev a d s := fun _ _ => rfl
@[simp] theorem exec_vnot (s : State) :
    ∀ a d, exec (.vnot a d) s = execVnot a d s := fun _ _ => rfl
@[simp] theorem exec_vbfxN32 (s : State) :
    ∀ x b a d, exec (.vbfxN32 x b a d) s = execVbfxN32 x b a d s := fun _ _ _ _ => rfl
@[simp] theorem exec_vbfxI32 (s : State) :
    ∀ x b a d, exec (.vbfxI32 x b a d) s = execVbfxI32 x b a d s := fun _ _ _ _ => rfl
@[simp] theorem exec_vbfi (s : State) :
    ∀ x b a d, exec (.vbfi x b a d) s = execVbfi x b a d s := fun _ _ _ _ => rfl
@[simp] theorem exec_vaddc (s : State) :
    ∀ x b a d, exec (.vaddc x b a d) s = execVaddc x b a d s := fun _ _ _ _ => rfl
@[simp] theorem exec_vsubb (s : State) :
    ∀ x b a d, exec (.vsubb x b a d) s = execVsubb x b a d s := fun _ _ _ _ => rfl
@[simp] theorem exec_vaddi (s : State) :
    ∀ imm a d, exec (.vaddi imm a d) s = execVaddi imm a d s := fun _ _ _ => rfl
@[simp] theorem exec_vandi (s : State) :
    ∀ imm a d, exec (.vandi imm a d) s = execVandi imm a d s := fun _ _ _ => rfl
@[simp] theorem exec_vori (s : State) :
    ∀ imm a d, exec (.vori imm a d) s = execVori imm a d s := fun _ _ _ => rfl
@[simp] theorem exec_vxori (s : State) :
    ∀ imm a d, exec (.vxori imm a d) s = execVxori imm a d s := fun _ _ _ => rfl
@[simp] theorem exec_vshli (s : State) :
    ∀ imm a d, exec (.vshli imm a d) s = execVshli imm a d s := fun _ _ _ => rfl
@[simp] theorem exec_vshri (s : State) :
    ∀ imm a d, exec (.vshri imm a d) s = execVshri imm a d s := fun _ _ _ => rfl
@[simp] theorem exec_vsrai (s : State) :
    ∀ imm a d, exec (.vsrai imm a d) s = execVsrai imm a d s := fun _ _ _ => rfl
@[simp] theorem exec_vli (s : State) :
    ∀ imm d, exec (.vli imm d) s = execVli imm d s := fun _ _ => rfl
@[simp] theorem exec_vlop3 (s : State) :
    ∀ t b a d, exec (.vlop3 t b a d) s = execVlop3 t b a d s := fun _ _ _ _ => rfl
@[simp] theorem exec_vicmp (s : State) :
    ∀ x b a k m, exec (.vicmp x b a k m) s = execVicmp x b a k m s := fun _ _ _ _ _ => rfl
@[simp] theorem exec_vsel (s : State) :
    ∀ x b a d, exec (.vsel x b a d) s = execVsel x b a d s := fun _ _ _ _ => rfl
@[simp] theorem exec_vmovs (s : State) :
    ∀ b a d, exec (.vmovs b a d) s = execVmovs b a d s := fun _ _ _ => rfl
@[simp] theorem exec_vmovx (s : State) :
    ∀ x b a d, exec (.vmovx x b a d) s = execVmovx x b a d s := fun _ _ _ _ => rfl
@[simp] theorem exec_vmovxl (s : State) :
    ∀ x b d, exec (.vmovxl x b d) s = execVmovxl x b d s := fun _ _ _ => rfl
@[simp] theorem exec_vmovxw (s : State) :
    ∀ x b a d, exec (.vmovxw x b a d) s = execVmovxw x b a d s := fun _ _ _ _ => rfl
@[simp] theorem exec_vmov (s : State) :
    ∀ x b d, exec (.vmov x b d) s = execVmov x b d s := fun _ _ _ => rfl
@[simp] theorem exec_mand (s : State) :
    ∀ c b a, exec (.mand c b a) s = execMand c b a s := fun _ _ _ => rfl
@[simp] theorem exec_mor (s : State) :
    ∀ c b a, exec (.mor c b a) s = execMor c b a s := fun _ _ _ => rfl
@[simp] theorem exec_mxor (s : State) :
    ∀ c b a, exec (.mxor c b a) s = execMxor c b a s := fun _ _ _ => rfl
@[simp] theorem exec_mnot (s : State) :
    ∀ b a, exec (.mnot b a) s = execMnot b a s := fun _ _ => rfl
@[simp] theorem exec_mpop (s : State) :
    ∀ b d, exec (.mpop b d) s = execMpop b d s := fun _ _ => rfl
@[simp] theorem exec_mfind (s : State) :
    ∀ b d, exec (.mfind b d) s = execMfind b d s := fun _ _ => rfl
@[simp] theorem exec_mset (s : State) :
    ∀ src a, exec (.mset src a) s = execMset src a s := fun _ _ => rfl
@[simp] theorem exec_mget (s : State) :
    ∀ b d, exec (.mget b d) s = execMget b d s := fun _ _ => rfl
@[simp] theorem exec_mgetLanes (s : State) :
    ∀ d, exec (.mgetLanes d) s = execMgetLanes d s := fun _ => rfl
@[simp] theorem exec_vfadd (s : State) :
    ∀ x b a d, exec (.vfadd x b a d) s = execVfadd x b a d s := fun _ _ _ _ => rfl
@[simp] theorem exec_vfsub (s : State) :
    ∀ x b a d, exec (.vfsub x b a d) s = execVfsub x b a d s := fun _ _ _ _ => rfl
@[simp] theorem exec_vfmul (s : State) :
    ∀ x b a d, exec (.vfmul x b a d) s = execVfmul x b a d s := fun _ _ _ _ => rfl
@[simp] theorem exec_vfmin (s : State) :
    ∀ x b a d, exec (.vfmin x b a d) s = execVfmin x b a d s := fun _ _ _ _ => rfl
@[simp] theorem exec_vfmax (s : State) :
    ∀ x b a d, exec (.vfmax x b a d) s = execVfmax x b a d s := fun _ _ _ _ => rfl
@[simp] theorem exec_vfma (s : State) :
    ∀ x b a d, exec (.vfma x b a d) s = execVfma x b a d s := fun _ _ _ _ => rfl
@[simp] theorem exec_vfscale (s : State) :
    ∀ x b a d, exec (.vfscale x b a d) s = execVfscale x b a d s := fun _ _ _ _ => rfl
@[simp] theorem exec_vfcpys (s : State) :
    ∀ x b a d, exec (.vfcpys x b a d) s = execVfcpys x b a d s := fun _ _ _ _ => rfl
@[simp] theorem exec_vfmad (s : State) :
    ∀ n c b a d, exec (.vfmad n c b a d) s = execVfmad n c b a d s := fun _ _ _ _ _ => rfl
@[simp] theorem exec_vfabs (s : State) :
    ∀ a d, exec (.vfabs a d) s = execVfabs a d s := fun _ _ => rfl
@[simp] theorem exec_vfneg (s : State) :
    ∀ a d, exec (.vfneg a d) s = execVfneg a d s := fun _ _ => rfl
@[simp] theorem exec_vfrnd (s : State) :
    ∀ r a d, exec (.vfrnd r a d) s = execVfrnd r a d s := fun _ _ _ => rfl
@[simp] theorem exec_vfclass (s : State) :
    ∀ a d, exec (.vfclass a d) s = execVfclass a d s := fun _ _ => rfl
@[simp] theorem exec_vfexpo (s : State) :
    ∀ a d, exec (.vfexpo a d) s = execVfexpo a d s := fun _ _ => rfl
@[simp] theorem exec_vfcmp (s : State) :
    ∀ x b a k m, exec (.vfcmp x b a k m) s = execVfcmp x b a k m s := fun _ _ _ _ _ => rfl
@[simp] theorem exec_vpfadd (s : State) :
    ∀ x b a d, exec (.vpfadd x b a d) s = execVpfadd x b a d s := fun _ _ _ _ => rfl
@[simp] theorem exec_vpfmul (s : State) :
    ∀ x b a d, exec (.vpfmul x b a d) s = execVpfmul x b a d s := fun _ _ _ _ => rfl
@[simp] theorem exec_vpfma (s : State) :
    ∀ x b a d, exec (.vpfma x b a d) s = execVpfma x b a d s := fun _ _ _ _ => rfl
@[simp] theorem exec_vhaddBf16 (s : State) :
    ∀ x b a d, exec (.vhaddBf16 x b a d) s = execVhaddBf16 x b a d s := fun _ _ _ _ => rfl
@[simp] theorem exec_vhmulBf16 (s : State) :
    ∀ x b a d, exec (.vhmulBf16 x b a d) s = execVhmulBf16 x b a d s := fun _ _ _ _ => rfl
@[simp] theorem exec_vhfmaBf16 (s : State) :
    ∀ x b a d, exec (.vhfmaBf16 x b a d) s = execVhfmaBf16 x b a d s := fun _ _ _ _ => rfl
@[simp] theorem exec_vhaddF16 (s : State) :
    ∀ x b a d, exec (.vhaddF16 x b a d) s = execVhaddF16 x b a d s := fun _ _ _ _ => rfl
@[simp] theorem exec_vhmulF16 (s : State) :
    ∀ x b a d, exec (.vhmulF16 x b a d) s = execVhmulF16 x b a d s := fun _ _ _ _ => rfl
@[simp] theorem exec_vhfmaF16 (s : State) :
    ∀ x b a d, exec (.vhfmaF16 x b a d) s = execVhfmaF16 x b a d s := fun _ _ _ _ => rfl
@[simp] theorem exec_vdadd (s : State) :
    ∀ x b a d, exec (.vdadd x b a d) s = execVdadd x b a d s := fun _ _ _ _ => rfl
@[simp] theorem exec_vdmul (s : State) :
    ∀ x b a d, exec (.vdmul x b a d) s = execVdmul x b a d s := fun _ _ _ _ => rfl
@[simp] theorem exec_vdfma (s : State) :
    ∀ x b a d, exec (.vdfma x b a d) s = execVdfma x b a d s := fun _ _ _ _ => rfl
@[simp] theorem exec_vdmin (s : State) :
    ∀ x b a d, exec (.vdmin x b a d) s = execVdmin x b a d s := fun _ _ _ _ => rfl
@[simp] theorem exec_vdmax (s : State) :
    ∀ x b a d, exec (.vdmax x b a d) s = execVdmax x b a d s := fun _ _ _ _ => rfl
@[simp] theorem exec_vrcp (s : State) :
    ∀ a d, exec (.vrcp a d) s = execVrcp a d s := fun _ _ => rfl
@[simp] theorem exec_vrsqrt (s : State) :
    ∀ a d, exec (.vrsqrt a d) s = execVrsqrt a d s := fun _ _ => rfl
@[simp] theorem exec_vsqrt (s : State) :
    ∀ a d, exec (.vsqrt a d) s = execVsqrt a d s := fun _ _ => rfl
@[simp] theorem exec_vexp2 (s : State) :
    ∀ a d, exec (.vexp2 a d) s = execVexp2 a d s := fun _ _ => rfl
@[simp] theorem exec_vlog2 (s : State) :
    ∀ a d, exec (.vlog2 a d) s = execVlog2 a d s := fun _ _ => rfl
@[simp] theorem exec_vsin (s : State) :
    ∀ a d, exec (.vsin a d) s = execVsin a d s := fun _ _ => rfl
@[simp] theorem exec_vcos (s : State) :
    ∀ a d, exec (.vcos a d) s = execVcos a d s := fun _ _ => rfl
@[simp] theorem exec_vtanh (s : State) :
    ∀ a d, exec (.vtanh a d) s = execVtanh a d s := fun _ _ => rfl
@[simp] theorem exec_vsigm (s : State) :
    ∀ a d, exec (.vsigm a d) s = execVsigm a d s := fun _ _ => rfl
@[simp] theorem exec_vfdivs (s : State) :
    ∀ x b a d, exec (.vfdivs x b a d) s = execVfdivs x b a d s := fun _ _ _ _ => rfl
@[simp] theorem exec_vfdivx (s : State) :
    ∀ x b a d, exec (.vfdivx x b a d) s = execVfdivx x b a d s := fun _ _ _ _ => rfl
@[simp] theorem exec_vcvt (s : State) :
    ∀ r p a d, exec (.vcvt r p a d) s = execVcvt r p a d s := fun _ _ _ _ => rfl
@[simp] theorem exec_vqntE4m3 (s : State) :
    ∀ src a d, exec (.vqntE4m3 src a d) s = execVqntE4m3 src a d s := fun _ _ _ => rfl
@[simp] theorem exec_vqntE5m2 (s : State) :
    ∀ src a d, exec (.vqntE5m2 src a d) s = execVqntE5m2 src a d s := fun _ _ _ => rfl
@[simp] theorem exec_vqntE2m1 (s : State) :
    ∀ src a d, exec (.vqntE2m1 src a d) s = execVqntE2m1 src a d s := fun _ _ _ => rfl
@[simp] theorem exec_vqntLg6 (s : State) :
    ∀ src a d, exec (.vqntLg6 src a d) s = execVqntLg6 src a d s := fun _ _ _ => rfl
@[simp] theorem exec_vqntI8 (s : State) :
    ∀ src a d, exec (.vqntI8 src a d) s = execVqntI8 src a d s := fun _ _ _ => rfl
@[simp] theorem exec_vdqnt (s : State) :
    ∀ src a d, exec (.vdqnt src a d) s = execVdqnt src a d s := fun _ _ _ => rfl
@[simp] theorem exec_vpack (s : State) :
    ∀ w a d, exec (.vpack w a d) s = execVpack w a d s := fun _ _ _ => rfl
@[simp] theorem exec_vunpack (s : State) :
    ∀ w a d, exec (.vunpack w a d) s = execVunpack w a d s := fun _ _ _ => rfl
@[simp] theorem exec_vrandB32 (s : State) :
    ∀ src a d, exec (.vrandB32 src a d) s = execVrandB32 src a d s := fun _ _ _ => rfl
@[simp] theorem exec_vrandF32 (s : State) :
    ∀ src a d, exec (.vrandF32 src a d) s = execVrandF32 src a d s := fun _ _ _ => rfl
@[simp] theorem exec_vnblRing (s : State) :
    ∀ a d, exec (.vnblRing a d) s = execVnblRing a d s := fun _ _ => rfl
@[simp] theorem exec_vnbrRing (s : State) :
    ∀ a d, exec (.vnbrRing a d) s = execVnbrRing a d s := fun _ _ => rfl
@[simp] theorem exec_vnblEdge (s : State) :
    ∀ w a d, exec (.vnblEdge w a d) s = execVnblEdge w a d s := fun _ _ _ => rfl
@[simp] theorem exec_vnbrEdge (s : State) :
    ∀ w a d, exec (.vnbrEdge w a d) s = execVnbrEdge w a d s := fun _ _ _ => rfl
@[simp] theorem exec_vshuf (s : State) :
    ∀ x b a d, exec (.vshuf x b a d) s = execVshuf x b a d s := fun _ _ _ _ => rfl
@[simp] theorem exec_vbcastImm (s : State) :
    ∀ n a d, exec (.vbcastImm n a d) s = execVbcastImm n a d s := fun _ _ _ => rfl
@[simp] theorem exec_vbcastScalar (s : State) :
    ∀ src a d, exec (.vbcastScalar src a d) s = execVbcastScalar src a d s := fun _ _ _ => rfl
@[simp] theorem exec_vred (s : State) :
    ∀ o a d, exec (.vred o a d) s = execVred o a d s := fun _ _ _ => rfl
@[simp] theorem exec_vscanIncl (s : State) :
    ∀ o a d, exec (.vscanIncl o a d) s = execVscanIncl o a d s := fun _ _ _ => rfl
@[simp] theorem exec_vscanExcl (s : State) :
    ∀ o a d, exec (.vscanExcl o a d) s = execVscanExcl o a d s := fun _ _ _ => rfl
@[simp] theorem exec_vvoteBallot (s : State) :
    ∀ a src, exec (.vvoteBallot a src) s = execVvoteBallot a src s := fun _ _ => rfl
@[simp] theorem exec_vvoteEq (s : State) :
    ∀ a src, exec (.vvoteEq a src) s = execVvoteEq a src s := fun _ _ => rfl
@[simp] theorem exec_xsend (s : State) :
    ∀ p n src a, exec (.xsend p n src a) s = execXsend p n src a s := fun _ _ _ _ => rfl
@[simp] theorem exec_xrecv (s : State) :
    ∀ p n src d, exec (.xrecv p n src d) s = execXrecv p n src d s := fun _ _ _ _ => rfl
@[simp] theorem exec_xedge (s : State) :
    ∀ w a, exec (.xedge w a) s = execXedge w a s := fun _ _ => rfl
@[simp] theorem exec_ld (s : State) :
    ∀ x src m o b t, exec (.ld x src m o b t) s = execLd x src m o b t s := fun _ _ _ _ _ _ => rfl
@[simp] theorem exec_st (s : State) :
    ∀ x src m o b t, exec (.st x src m o b t) s = execSt x src m o b t s := fun _ _ _ _ _ _ => rfl
@[simp] theorem exec_lds (s : State) :
    ∀ imm b d, exec (.lds imm b d) s = execLds imm b d s := fun _ _ _ => rfl
@[simp] theorem exec_sts (s : State) :
    ∀ imm b t, exec (.sts imm b t) s = execSts imm b t s := fun _ _ _ => rfl
@[simp] theorem exec_ldacq (s : State) :
    ∀ z src o b t, exec (.ldacq z src o b t) s = execLdacq z src o b t s := fun _ _ _ _ _ => rfl
@[simp] theorem exec_strel (s : State) :
    ∀ z src o b t, exec (.strel z src o b t) s = execStrel z src o b t s := fun _ _ _ _ _ => rfl
@[simp] theorem exec_pref (s : State) :
    ∀ l x o b, exec (.pref l x o b) s = execPref l x o b s := fun _ _ _ _ => rfl
@[simp] theorem exec_cflush (s : State) :
    ∀ l x o b, exec (.cflush l x o b) s = execCflush l x o b s := fun _ _ _ _ => rfl
@[simp] theorem exec_cinv (s : State) :
    ∀ l x o b, exec (.cinv l x o b) s = execCinv l x o b s := fun _ _ _ _ => rfl
@[simp] theorem exec_landr (s : State) :
    ∀ d, exec (.landr d) s = execLandr d s := fun _ => rfl
@[simp] theorem exec_unmapv (s : State) :
    ∀ b a, exec (.unmapv b a) s = execUnmapv b a s := fun _ _ => rfl
@[simp] theorem exec_unmapvDiscard (s : State) :
    ∀ b a, exec (.unmapvDiscard b a) s = execUnmapvDiscard b a s := fun _ _ => rfl
@[simp] theorem exec_unmapvRights (s : State) :
    ∀ b a, exec (.unmapvRights b a) s = execUnmapvRights b a s := fun _ _ => rfl
@[simp] theorem exec_fenceAcq (s : State) :
    ∀ src, exec (.fenceAcq src) s = execFenceAcq src s := fun _ => rfl
@[simp] theorem exec_fenceRel (s : State) :
    ∀ src, exec (.fenceRel src) s = execFenceRel src s := fun _ => rfl
@[simp] theorem exec_fenceFull (s : State) :
    ∀ src, exec (.fenceFull src) s = execFenceFull src s := fun _ => rfl
@[simp] theorem exec_tcfence (s : State) :
    exec (.tcfence) s = execTcfence s := rfl
@[simp] theorem exec_bar (s : State) :
    ∀ src, exec (.bar src) s = execBar src s := fun _ => rfl
@[simp] theorem exec_bara (s : State) :
    ∀ src, exec (.bara src) s = execBara src s := fun _ => rfl
@[simp] theorem exec_barw (s : State) :
    ∀ src, exec (.barw src) s = execBarw src s := fun _ => rfl
@[simp] theorem exec_mbinit (s : State) :
    ∀ b a, exec (.mbinit b a) s = execMbinit b a s := fun _ _ => rfl
@[simp] theorem exec_mbexp (s : State) :
    ∀ b a, exec (.mbexp b a) s = execMbexp b a s := fun _ _ => rfl
@[simp] theorem exec_mbarr (s : State) :
    ∀ b d, exec (.mbarr b d) s = execMbarr b d s := fun _ _ => rfl
@[simp] theorem exec_mbwait (s : State) :
    ∀ b a, exec (.mbwait b a) s = execMbwait b a s := fun _ _ => rfl
@[simp] theorem exec_mon (s : State) :
    ∀ a, exec (.mon a) s = execMon a s := fun _ => rfl
@[simp] theorem exec_mwait (s : State) :
    ∀ b d, exec (.mwait b d) s = execMwait b d s := fun _ _ => rfl
@[simp] theorem exec_waitcLd (s : State) :
    ∀ b, exec (.waitcLd b) s = execWaitcLd b s := fun _ => rfl
@[simp] theorem exec_waitcSt (s : State) :
    ∀ b, exec (.waitcSt b) s = execWaitcSt b s := fun _ => rfl
@[simp] theorem exec_waitcWh (s : State) :
    ∀ b, exec (.waitcWh b) s = execWaitcWh b s := fun _ => rfl
@[simp] theorem exec_waitcAn (s : State) :
    ∀ b, exec (.waitcAn b) s = execWaitcAn b s := fun _ => rfl
@[simp] theorem exec_waitcRa (s : State) :
    ∀ b, exec (.waitcRa b) s = execWaitcRa b s := fun _ => rfl
@[simp] theorem exec_waitcFe (s : State) :
    ∀ b, exec (.waitcFe b) s = execWaitcFe b s := fun _ => rfl
@[simp] theorem exec_atom (s : State) :
    ∀ o v b t, exec (.atom o v b t) s = execAtom o v b t s := fun _ _ _ _ => rfl
@[simp] theorem exec_red (s : State) :
    ∀ o v b t, exec (.red o v b t) s = execRed o v b t s := fun _ _ _ _ => rfl
@[simp] theorem exec_xat (s : State) :
    ∀ x o b a d, exec (.xat x o b a d) s = execXat x o b a d s := fun _ _ _ _ _ => rfl
@[simp] theorem exec_xred (s : State) :
    ∀ x o b a d, exec (.xred x o b a d) s = execXred x o b a d s := fun _ _ _ _ _ => rfl
@[simp] theorem exec_wcopy (s : State) :
    ∀ r src d, exec (.wcopy r src d) s = execWcopy r src d s := fun _ _ _ => rfl
@[simp] theorem exec_wcopyStream (s : State) :
    ∀ r src d, exec (.wcopyStream r src d) s = execWcopyStream r src d s := fun _ _ _ => rfl
@[simp] theorem exec_wgather (s : State) :
    ∀ r imm src d, exec (.wgather r imm src d) s = execWgather r imm src d s := fun _ _ _ _ => rfl
@[simp] theorem exec_wscatter (s : State) :
    ∀ r imm src d, exec (.wscatter r imm src d) s = execWscatter r imm src d s := fun _ _ _ _ => rfl
@[simp] theorem exec_wfill (s : State) :
    ∀ r v d, exec (.wfill r v d) s = execWfill r v d s := fun _ _ _ => rfl
@[simp] theorem exec_wcomp (s : State) :
    ∀ r src a, exec (.wcomp r src a) s = execWcomp r src a s := fun _ _ _ => rfl
@[simp] theorem exec_wdcomp (s : State) :
    ∀ r a d, exec (.wdcomp r a d) s = execWdcomp r a d s := fun _ _ _ => rfl
@[simp] theorem exec_wloado (s : State) :
    ∀ ro n r src, exec (.wloado ro n r src) s = execWloado ro n r src s := fun _ _ _ _ => rfl
@[simp] theorem exec_wstat (s : State) :
    ∀ b d, exec (.wstat b d) s = execWstat b d s := fun _ _ => rfl
@[simp] theorem exec_wcancel (s : State) :
    ∀ b, exec (.wcancel b) s = execWcancel b s := fun _ => rfl
@[simp] theorem exec_frs (s : State) :
    ∀ r a, exec (.frs r a) s = execFrs r a s := fun _ _ => rfl
@[simp] theorem exec_fag (s : State) :
    ∀ r a, exec (.fag r a) s = execFag r a s := fun _ _ => rfl
@[simp] theorem exec_far (s : State) :
    ∀ r a, exec (.far r a) s = execFar r a s := fun _ _ => rfl
@[simp] theorem exec_fa2a (s : State) :
    ∀ r a, exec (.fa2a r a) s = execFa2a r a s := fun _ _ => rfl
@[simp] theorem exec_fbc (s : State) :
    ∀ r a, exec (.fbc r a) s = execFbc r a s := fun _ _ => rfl
@[simp] theorem exec_fupd (s : State) :
    ∀ r b a, exec (.fupd r b a) s = execFupd r b a s := fun _ _ _ => rfl
@[simp] theorem exec_fshard (s : State) :
    ∀ a, exec (.fshard a) s = execFshard a s := fun _ => rfl
@[simp] theorem exec_oclaim (s : State) :
    ∀ c b d, exec (.oclaim c b d) s = execOclaim c b d s := fun _ _ _ => rfl
@[simp] theorem exec_orel (s : State) :
    ∀ c b, exec (.orel c b) s = execOrel c b s := fun _ _ => rfl
@[simp] theorem exec_oput (s : State) :
    ∀ n b a, exec (.oput n b a) s = execOput n b a s := fun _ _ _ => rfl
@[simp] theorem exec_oget (s : State) :
    ∀ n b d, exec (.oget n b d) s = execOget n b d s := fun _ _ _ => rfl
@[simp] theorem exec_aclaim (s : State) :
    ∀ c b d, exec (.aclaim c b d) s = execAclaim c b d s := fun _ _ _ => rfl
@[simp] theorem exec_arel (s : State) :
    ∀ c b, exec (.arel c b) s = execArel c b s := fun _ _ => rfl
@[simp] theorem exec_mma (s : State) :
    ∀ t f m k, exec (.mma t f m k) s = execMma t f m k s := fun _ _ _ _ => rfl
@[simp] theorem exec_mmas (s : State) :
    ∀ t f m k, exec (.mmas t f m k) s = execMmas t f m k s := fun _ _ _ _ => rfl
@[simp] theorem exec_afence (s : State) :
    ∀ d, exec (.afence d) s = execAfence d s := fun _ => rfl
@[simp] theorem exec_azero (s : State) :
    ∀ y t, exec (.azero y t) s = execAzero y t s := fun _ _ => rfl
@[simp] theorem exec_gangset (s : State) :
    ∀ c, exec (.gangset c) s = execGangset c s := fun _ => rfl
@[simp] theorem exec_gangsetPair (s : State) :
    ∀ c, exec (.gangsetPair c) s = execGangsetPair c s := fun _ => rfl
@[simp] theorem exec_aguide (s : State) :
    ∀ a, exec (.aguide a) s = execAguide a s := fun _ => rfl
@[simp] theorem exec_adrainV (s : State) :
    ∀ t b d, exec (.adrainV t b d) s = execAdrainV t b d s := fun _ _ _ => rfl
@[simp] theorem exec_adrainO (s : State) :
    ∀ n src f b x, exec (.adrainO n src f b x) s = execAdrainO n src f b x s := fun _ _ _ _ _ => rfl
@[simp] theorem exec_adrainG (s : State) :
    ∀ t, exec (.adrainG t) s = execAdrainG t s := fun _ => rfl
@[simp] theorem exec_astash (s : State) :
    ∀ c b f r q p n, exec (.astash c b f r q p n) s = execAstash c b f r q p n s := fun _ _ _ _ _ _ _ => rfl
@[simp] theorem exec_lnch (s : State) :
    ∀ b d, exec (.lnch b d) s = execLnch b d s := fun _ _ => rfl
@[simp] theorem exec_lnchTry (s : State) :
    ∀ b d, exec (.lnchTry b d) s = execLnchTry b d s := fun _ _ => rfl
@[simp] theorem exec_trig (s : State) :
    exec (.trig) s = execTrig s := rfl
@[simp] theorem exec_rgrow (s : State) :
    ∀ a, exec (.rgrow a) s = execRgrow a s := fun _ => rfl
@[simp] theorem exec_rshrink (s : State) :
    ∀ a, exec (.rshrink a) s = execRshrink a s := fun _ => rfl
@[simp] theorem exec_prio (s : State) :
    ∀ b a, exec (.prio b a) s = execPrio b a s := fun _ _ => rfl
@[simp] theorem exec_cohort (s : State) :
    ∀ b d, exec (.cohort b d) s = execCohort b d s := fun _ _ => rfl
@[simp] theorem exec_cohortSelf (s : State) :
    ∀ d, exec (.cohortSelf d) s = execCohortSelf d s := fun _ => rfl
@[simp] theorem exec_trap (s : State) :
    ∀ n, exec (.trap n) s = execTrap n s := fun _ => rfl
@[simp] theorem exec_rte (s : State) :
    exec (.rte) s = execRte s := rfl
@[simp] theorem exec_rteSkip (s : State) :
    exec (.rteSkip) s = execRteSkip s := rfl
@[simp] theorem exec_rteR (s : State) :
    ∀ a, exec (.rteR a) s = execRteR a s := fun _ => rfl
@[simp] theorem exec_bkpt (s : State) :
    ∀ n, exec (.bkpt n) s = execBkpt n s := fun _ => rfl
@[simp] theorem exec_trace (s : State) :
    ∀ b a, exec (.trace b a) s = execTrace b a s := fun _ _ => rfl
@[simp] theorem exec_halt (s : State) :
    exec (.halt) s = execHalt s := rfl
@[simp] theorem exec_tstamp (s : State) :
    ∀ d, exec (.tstamp d) s = execTstamp d s := fun _ => rfl
@[simp] theorem exec_perf (s : State) :
    ∀ b d, exec (.perf b d) s = execPerf b d s := fun _ _ => rfl
@[simp] theorem exec_clauseWaitSatisfied (s : State) :
    ∀ age entry, exec (.clauseWaitSatisfied age entry) s = execClauseWaitSatisfied age entry s := fun _ _ => rfl
@[simp] theorem exec_subcoreIssueCycle (s : State) :
    ∀ core sub, exec (.subcoreIssueCycle core sub) s = execSubcoreIssueCycle core sub s := fun _ _ => rfl
@[simp] theorem exec_splitEntryHoldEvict (s : State) :
    ∀ core sub, exec (.splitEntryHoldEvict core sub) s = execSplitEntryHoldEvict core sub s := fun _ _ => rfl
@[simp] theorem exec_yieldPauseEnd (s : State) :
    ∀ age entry, exec (.yieldPauseEnd age entry) s = execYieldPauseEnd age entry s := fun _ _ => rfl
@[simp] theorem exec_resultWriteback (s : State) :
    ∀ op, exec (.resultWriteback op) s = execResultWriteback op s := fun _ => rfl
@[simp] theorem exec_edgeLatchDeposit (s : State) :
    ∀ age entry, exec (.edgeLatchDeposit age entry) s = execEdgeLatchDeposit age entry s := fun _ _ => rfl
@[simp] theorem exec_rendezvousTransfer (s : State) :
    ∀ wg slot, exec (.rendezvousTransfer wg slot) s = execRendezvousTransfer wg slot s := fun _ _ => rfl
@[simp] theorem exec_rightsWalkComplete (s : State) :
    ∀ core ctx addr, exec (.rightsWalkComplete core ctx addr) s = execRightsWalkComplete core ctx addr s := fun _ _ _ => rfl
@[simp] theorem exec_translationWalk (s : State) :
    ∀ ctx addr, exec (.translationWalk ctx addr) s = execTranslationWalk ctx addr s := fun _ _ => rfl
@[simp] theorem exec_loadDataArrive (s : State) :
    ∀ op, exec (.loadDataArrive op) s = execLoadDataArrive op s := fun _ => rfl
@[simp] theorem exec_loadFaultPark (s : State) :
    ∀ op, exec (.loadFaultPark op) s = execLoadFaultPark op s := fun _ => rfl
@[simp] theorem exec_faultRecordRetry (s : State) :
    exec (.faultRecordRetry) s = execFaultRecordRetry s := rfl
@[simp] theorem exec_faultQueueRegWrite (s : State) :
    ∀ off value, exec (.faultQueueRegWrite off value) s = execFaultQueueRegWrite off value s := fun _ _ => rfl
@[simp] theorem exec_faultrespResume (s : State) :
    ∀ token, exec (.faultrespResume token) s = execFaultrespResume token s := fun _ => rfl
@[simp] theorem exec_faultrespDecline (s : State) :
    ∀ token, exec (.faultrespDecline token) s = execFaultrespDecline token s := fun _ => rfl
@[simp] theorem exec_landingProbeAnswer (s : State) :
    ∀ core ctx page, exec (.landingProbeAnswer core ctx page) s = execLandingProbeAnswer core ctx page s := fun _ _ _ => rfl
@[simp] theorem exec_llcHbmWriteback (s : State) :
    ∀ ctx line, exec (.llcHbmWriteback ctx line) s = execLlcHbmWriteback ctx line s := fun _ _ => rfl
@[simp] theorem exec_shootdownStart (s : State) :
    exec (.shootdownStart) s = execShootdownStart s := rfl
@[simp] theorem exec_shootdownDrainDone (s : State) :
    exec (.shootdownDrainDone) s = execShootdownDrainDone s := rfl
@[simp] theorem exec_shootdownMgtRequest (s : State) :
    ∀ src base len mode, exec (.shootdownMgtRequest src base len mode) s = execShootdownMgtRequest src base len mode s := fun _ _ _ _ => rfl
@[simp] theorem exec_shootdownPackageAnswer (s : State) :
    ∀ pkg, exec (.shootdownPackageAnswer pkg) s = execShootdownPackageAnswer pkg s := fun _ => rfl
@[simp] theorem exec_sdctlGo (s : State) :
    ∀ value, exec (.sdctlGo value) s = execSdctlGo value s := fun _ => rfl
@[simp] theorem exec_releaseRecall (s : State) :
    ∀ core entry, exec (.releaseRecall core entry) s = execReleaseRecall core entry s := fun _ _ => rfl
@[simp] theorem exec_recallAnswer (s : State) :
    ∀ core entry, exec (.recallAnswer core entry) s = execRecallAnswer core entry s := fun _ _ => rfl
@[simp] theorem exec_watchFire (s : State) :
    ∀ addr, exec (.watchFire addr) s = execWatchFire addr s := fun _ => rfl
@[simp] theorem exec_mwaitTimeout (s : State) :
    ∀ age entry, exec (.mwaitTimeout age entry) s = execMwaitTimeout age entry s := fun _ _ => rfl
@[simp] theorem exec_remoteAtomicRequest (s : State) :
    ∀ req, exec (.remoteAtomicRequest req) s = execRemoteAtomicRequest req s := fun _ => rfl
@[simp] theorem exec_remoteAtomicAck (s : State) :
    ∀ sub olds flags, exec (.remoteAtomicAck sub olds flags) s = execRemoteAtomicAck sub olds flags s := fun _ _ _ => rfl
@[simp] theorem exec_remoteAtomicRnr (s : State) :
    ∀ sub detail, exec (.remoteAtomicRnr sub detail) s = execRemoteAtomicRnr sub detail s := fun _ _ => rfl
@[simp] theorem exec_remoteRetryTimer (s : State) :
    ∀ sub, exec (.remoteRetryTimer sub) s = execRemoteRetryTimer sub s := fun _ => rfl
@[simp] theorem exec_wherryCommandStart (s : State) :
    ∀ core, exec (.wherryCommandStart core) s = execWherryCommandStart core s := fun _ => rfl
@[simp] theorem exec_wherryCountUpdate (s : State) :
    ∀ cmd bytes, exec (.wherryCountUpdate cmd bytes) s = execWherryCountUpdate cmd bytes s := fun _ _ => rfl
@[simp] theorem exec_wherryCommandComplete (s : State) :
    ∀ cmd, exec (.wherryCommandComplete cmd) s = execWherryCommandComplete cmd s := fun _ => rfl
@[simp] theorem exec_engineXlateFault (s : State) :
    ∀ cmd, exec (.engineXlateFault cmd) s = execEngineXlateFault cmd s := fun _ => rfl
@[simp] theorem exec_wherryRemotePacket (s : State) :
    ∀ src stream runs, exec (.wherryRemotePacket src stream runs) s = execWherryRemotePacket src stream runs s := fun _ _ _ => rfl
@[simp] theorem exec_ferryMatch (s : State) :
    ∀ cmd partners, exec (.ferryMatch cmd partners) s = execFerryMatch cmd partners s := fun _ _ => rfl
@[simp] theorem exec_ferryComplete (s : State) :
    ∀ cmd, exec (.ferryComplete cmd) s = execFerryComplete cmd s := fun _ => rfl
@[simp] theorem exec_claimZeroingDone (s : State) :
    ∀ age entry, exec (.claimZeroingDone age entry) s = execClaimZeroingDone age entry s := fun _ _ => rfl
@[simp] theorem exec_objectRelease (s : State) :
    ∀ core tile index, exec (.objectRelease core tile index) s = execObjectRelease core tile index s := fun _ _ _ => rfl
@[simp] theorem exec_gangLatchOpen (s : State) :
    ∀ wg cohort, exec (.gangLatchOpen wg cohort) s = execGangLatchOpen wg cohort s := fun _ _ => rfl
@[simp] theorem exec_arrayKStep (s : State) :
    ∀ core, exec (.arrayKStep core) s = execArrayKStep core s := fun _ => rfl
@[simp] theorem exec_arrayQueueEntry (s : State) :
    ∀ age entry, exec (.arrayQueueEntry age entry) s = execArrayQueueEntry age entry s := fun _ _ => rfl
@[simp] theorem exec_batchComplete (s : State) :
    ∀ age, exec (.batchComplete age) s = execBatchComplete age s := fun _ => rfl
@[simp] theorem exec_guidedDrain (s : State) :
    ∀ core, exec (.guidedDrain core) s = execGuidedDrain core s := fun _ => rfl
@[simp] theorem exec_rgrowGrant (s : State) :
    ∀ core, exec (.rgrowGrant core) s = execRgrowGrant core s := fun _ => rfl
@[simp] theorem exec_rgrowStallEvict (s : State) :
    ∀ core, exec (.rgrowStallEvict core) s = execRgrowStallEvict core s := fun _ => rfl
@[simp] theorem exec_launchPortWrite (s : State) :
    ∀ port off size value, exec (.launchPortWrite port off size value) s = execLaunchPortWrite port off size value s := fun _ _ _ _ => rfl
@[simp] theorem exec_queueReset (s : State) :
    ∀ queue, exec (.queueReset queue) s = execQueueReset queue s := fun _ => rfl
@[simp] theorem exec_queueResetComplete (s : State) :
    ∀ queue, exec (.queueResetComplete queue) s = execQueueResetComplete queue s := fun _ => rfl
@[simp] theorem exec_qresWrite (s : State) :
    ∀ queue value, exec (.qresWrite queue value) s = execQresWrite queue value s := fun _ _ => rfl
@[simp] theorem exec_launchStart (s : State) :
    ∀ queue, exec (.launchStart queue) s = execLaunchStart queue s := fun _ => rfl
@[simp] theorem exec_workgroupPlace (s : State) :
    ∀ queue, exec (.workgroupPlace queue) s = execWorkgroupPlace queue s := fun _ => rfl
@[simp] theorem exec_groupRestore (s : State) :
    ∀ age, exec (.groupRestore age) s = execGroupRestore age s := fun _ => rfl
@[simp] theorem exec_groupSave (s : State) :
    ∀ age reason, exec (.groupSave age reason) s = execGroupSave age reason s := fun _ _ => rfl
@[simp] theorem exec_saveAgentApply (s : State) :
    ∀ op, exec (.saveAgentApply op) s = execSaveAgentApply op s := fun _ => rfl
@[simp] theorem exec_workgroupRetire (s : State) :
    ∀ wg, exec (.workgroupRetire wg) s = execWorkgroupRetire wg s := fun _ => rfl
@[simp] theorem exec_registerFileScrub (s : State) :
    ∀ core, exec (.registerFileScrub core) s = execRegisterFileScrub core s := fun _ => rfl
@[simp] theorem exec_dbgcmdHalt (s : State) :
    exec (.dbgcmdHalt) s = execDbgcmdHalt s := rfl
@[simp] theorem exec_dbgcmdResume (s : State) :
    exec (.dbgcmdResume) s = execDbgcmdResume s := rfl
@[simp] theorem exec_dbgcmdStep (s : State) :
    exec (.dbgcmdStep) s = execDbgcmdStep s := rfl
@[simp] theorem exec_dbgcmdSave (s : State) :
    exec (.dbgcmdSave) s = execDbgcmdSave s := rfl
@[simp] theorem exec_debugImageWrite (s : State) :
    ∀ off value, exec (.debugImageWrite off value) s = execDebugImageWrite off value s := fun _ _ => rfl
@[simp] theorem exec_registerWrite (s : State) :
    ∀ reg value, exec (.registerWrite reg value) s = execRegisterWrite reg value s := fun _ _ => rfl
@[simp] theorem exec_hallmarkRequest (s : State) :
    exec (.hallmarkRequest) s = execHallmarkRequest s := rfl
@[simp] theorem exec_hallmarkComplete (s : State) :
    exec (.hallmarkComplete) s = execHallmarkComplete s := rfl
@[simp] theorem exec_controlCoreAccess (s : State) :
    ∀ pa size op, exec (.controlCoreAccess pa size op) s = execControlCoreAccess pa size op s := fun _ _ _ => rfl
@[simp] theorem exec_controlHomeRequest (s : State) :
    ∀ req, exec (.controlHomeRequest req) s = execControlHomeRequest req s := fun _ => rfl
@[simp] theorem exec_flitCrcFail (s : State) :
    ∀ port, exec (.flitCrcFail port) s = execFlitCrcFail port s := fun _ => rfl
@[simp] theorem exec_linkDown (s : State) :
    ∀ port, exec (.linkDown port) s = execLinkDown port s := fun _ => rfl
@[simp] theorem exec_heartbeatSend (s : State) :
    exec (.heartbeatSend) s = execHeartbeatSend s := rfl
@[simp] theorem exec_heartbeatReceive (s : State) :
    ∀ pkg, exec (.heartbeatReceive pkg) s = execHeartbeatReceive pkg s := fun _ => rfl
@[simp] theorem exec_peerSuspect (s : State) :
    ∀ pkg, exec (.peerSuspect pkg) s = execPeerSuspect pkg s := fun _ => rfl
@[simp] theorem exec_packageIsolated (s : State) :
    exec (.packageIsolated) s = execPackageIsolated s := rfl
@[simp] theorem exec_lossNotice (s : State) :
    ∀ pkg, exec (.lossNotice pkg) s = execLossNotice pkg s := fun _ => rfl
@[simp] theorem exec_lossRebuildComplete (s : State) :
    exec (.lossRebuildComplete) s = execLossRebuildComplete s := rfl
@[simp] theorem exec_timeSyncMessage (s : State) :
    ∀ offset, exec (.timeSyncMessage offset) s = execTimeSyncMessage offset s := fun _ => rfl
@[simp] theorem exec_pcieInboundRead (s : State) :
    ∀ port addr size, exec (.pcieInboundRead port addr size) s = execPcieInboundRead port addr size s := fun _ _ _ => rfl
@[simp] theorem exec_pcieInboundWrite (s : State) :
    ∀ port addr data, exec (.pcieInboundWrite port addr data) s = execPcieInboundWrite port addr data s := fun _ _ _ => rfl
@[simp] theorem exec_pcieAtomicop (s : State) :
    ∀ port addr size op a c, exec (.pcieAtomicop port addr size op a c) s = execPcieAtomicop port addr size op a c s := fun _ _ _ _ _ _ => rfl
@[simp] theorem exec_bootVerify (s : State) :
    ∀ image, exec (.bootVerify image) s = execBootVerify image s := fun _ => rfl
@[simp] theorem exec_rackAssignmentRecord (s : State) :
    ∀ bytes, exec (.rackAssignmentRecord bytes) s = execRackAssignmentRecord bytes s := fun _ => rfl
@[simp] theorem exec_droopDetect (s : State) :
    ∀ core, exec (.droopDetect core) s = execDroopDetect core s := fun _ => rfl
@[simp] theorem exec_droopRestore (s : State) :
    ∀ core, exec (.droopRestore core) s = execDroopRestore core s := fun _ => rfl
@[simp] theorem exec_powerLimitStep (s : State) :
    ∀ watts, exec (.powerLimitStep watts) s = execPowerLimitStep watts s := fun _ => rfl
@[simp] theorem exec_inputUndervoltage (s : State) :
    exec (.inputUndervoltage) s = execInputUndervoltage s := rfl
@[simp] theorem exec_assaySample (s : State) :
    ∀ core needMv, exec (.assaySample core needMv) s = execAssaySample core needMv s := fun _ _ => rfl
@[simp] theorem exec_marginReplan (s : State) :
    ∀ core, exec (.marginReplan core) s = execMarginReplan core s := fun _ => rfl
@[simp] theorem exec_rasErrorEvent (s : State) :
    ∀ err, exec (.rasErrorEvent err) s = execRasErrorEvent err s := fun _ => rfl
@[simp] theorem exec_ferryShardArrival (s : State) :
    ∀ cmd position, exec (.ferryShardArrival cmd position) s = execFerryShardArrival cmd position s := fun _ _ => rfl
@[simp] theorem exec_pcieErrorReported (s : State) :
    ∀ port correctable, exec (.pcieErrorReported port correctable) s = execPcieErrorReported port correctable s := fun _ _ => rfl

end Sys2Proof.Machine
end

