-- ==== Sys2Proof/Laws/Memory.lean ====
section
/-! SUPPORT. What the operations on memory can do, said once: which of them write physical memory, that they keep its
canonical form, and what each leaves of the state. -/

namespace Sys2Proof.Machine

/-! ## Physical memory keeps its canonical form -/

theorem Memory.wf_iff (m : Memory) : m.wf = true ↔ Map.canonical 0 m.phys = true := Iff.rfl

/-- Memories with the same physical bytes have the form together. -/
theorem Memory.wf_of_phys {m m' : Memory} (h : m'.phys = m.phys) (w : m.wf = true) : m'.wf = true := by
  rw [Memory.wf_iff] at *; rw [h]; exact w

/-- Equal physical bytes at every address are equal data. -/
theorem Memory.phys_ext {m m' : Memory} (h : m.wf = true) (h' : m'.wf = true)
    (e : ∀ k, Map.get 0 m.phys k = Map.get 0 m'.phys k) : m.phys = m'.phys := Map.canonical_ext h h' e

theorem State.reset_mem_wf : State.reset.mem.wf = true := by decide

theorem canonical_foldl_set {m : Cells Byte} (h : Map.canonical 0 m = true) (f : Nat × Byte → Nat) (l : List (Nat × Byte)) :
    Map.canonical 0 (l.foldl (fun p e => Map.set 0 p (f e) e.2) m) = true := by
  induction l generalizing m with
  | nil => exact h
  | cons e l ih => exact ih (Map.canonical_set h _ _)

/-! ## Watches -/

theorem find?_mapVals {α : Type} (m : Cells α) (f : α → α) (k : Nat) :
    Map.find? (m.map fun p => (p.1, f p.2)) k = (Map.find? m k).map f := by
  induction m with
  | nil => rfl
  | cons p m ih => simp only [List.map_cons, Map.find?_cons, ih]; split <;> rfl

/-- The group with another watch. -/
def Group.withWatch (g : Group) (w : Option Watch) : Group := { g with work := { g.work with watch := w } }

@[simp] theorem Group.withWatch_id (g : Group) (w : Option Watch) : (g.withWatch w).id = g.id := rfl
@[simp] theorem Group.withWatch_regs (g : Group) (w : Option Watch) : (g.withWatch w).regs = g.regs := rfl
@[simp] theorem Group.withWatch_sys (g : Group) (w : Option Watch) : (g.withWatch w).sys = g.sys := rfl
@[simp] theorem Group.withWatch_flow (g : Group) (w : Option Watch) : (g.withWatch w).flow = g.flow := rfl
@[simp] theorem Group.withWatch_saved (g : Group) (w : Option Watch) : (g.withWatch w).saved = g.saved := rfl
theorem Group.withWatch_sameRegisters (g : Group) (w : Option Watch) : (g.withWatch w).SameRegisters g := ⟨rfl, rfl, rfl⟩

/-- The groups are as they were, but for what they watch. -/
def WatchOnly (gs' gs : Cells Group) : Prop := ∃ f : Group → Option Watch, gs' = gs.map fun p => (p.1, p.2.withWatch (f p.2))

theorem WatchOnly.refl (gs : Cells Group) : WatchOnly gs gs :=
  ⟨fun g => g.work.watch, by simp [Group.withWatch]⟩

theorem WatchOnly.comp {a b c : Cells Group} (h : WatchOnly a b) (k : WatchOnly b c) : WatchOnly a c := by
  obtain ⟨f, rfl⟩ := h
  obtain ⟨g, rfl⟩ := k
  exact ⟨fun x => f (x.withWatch (g x)), by simp [List.map_map, Function.comp_def, Group.withWatch]⟩

/-- A group is still there, and is as it was but for what it watches. -/
theorem WatchOnly.find? {a b : Cells Group} (h : WatchOnly a b) (age : Nat) :
    ∃ f : Group → Option Watch, Map.find? a age = (Map.find? b age).map fun g => g.withWatch (f g) := by
  obtain ⟨f, rfl⟩ := h
  exact ⟨f, find?_mapVals b (fun g => g.withWatch (f g)) age⟩

theorem State.fireWatch_eq (s : State) (core : Option Nat) (line : Nat) :
    s.fireWatch core line = { s with groups := (s.fireWatch core line).groups } := rfl

theorem State.fireWatch_groups (s : State) (core : Option Nat) (line : Nat) :
    WatchOnly (s.fireWatch core line).groups s.groups := ⟨fun g => (g.fireWatch core line).work.watch, rfl⟩

/-- Firing the watches of several lines. -/
theorem State.fireWatches_eq (s : State) (core : Option Nat) (lines : List Nat) :
    lines.foldl (fun t line => t.fireWatch core line) s =
      { s with groups := (lines.foldl (fun t line => t.fireWatch core line) s).groups } ∧
    WatchOnly (lines.foldl (fun t line => t.fireWatch core line) s).groups s.groups := by
  induction lines generalizing s with
  | nil => exact ⟨rfl, .refl _⟩
  | cons l ls ih =>
    obtain ⟨h, k⟩ := ih (s.fireWatch core l)
    exact ⟨h, k.comp (s.fireWatch_groups core l)⟩

/-! ## Translation, the LLC and the control cache -/

/-- A translation is what is installed, or is installed with its owners. -/
theorem State.translate_eq {s s1 : State} {vk k : Nat} (h : s.translate vk = .ok (k, s1)) :
    ∃ x o, s1 = { s with mem := { s.mem with xlate := x, owners := o } } := by
  unfold State.translate at h
  split at h
  · cases h
  · split at h
    · cases h; exact ⟨s.mem.xlate, s.mem.owners, rfl⟩
    · split at h
      · cases h
      · next r _ =>
        split at h
        · cases h; exact ⟨(s.mem.install (Sys2Proof.Machine.unitOf vk) r).xlate, (s.mem.install (Sys2Proof.Machine.unitOf vk) r).owners, rfl⟩
        · cases h

/-- The state is as it was, but for translations, the LLC, poison, and what is asked of other packages: no byte behind the
LLC has changed, and no mark. -/
def State.Filled (t s : State) : Prop :=
  ∃ (m : Memory) (o : List Message), t = { s with mem := m, outbox := o } ∧ m.phys = s.mem.phys ∧ m.marks = s.mem.marks

theorem State.Filled.refl (s : State) : s.Filled s := ⟨s.mem, s.outbox, rfl, rfl, rfl⟩

theorem State.Filled.comp {a b c : State} (h : a.Filled b) (k : b.Filled c) : a.Filled c := by
  obtain ⟨m, o, rfl, hp, hm⟩ := h
  obtain ⟨n, p, rfl, kp, km⟩ := k
  exact ⟨m, o, rfl, hp.trans kp, hm.trans km⟩

theorem State.Filled.phys {a b : State} (h : a.Filled b) : a.mem.phys = b.mem.phys := by
  obtain ⟨m, o, rfl, hp, _⟩ := h; exact hp

theorem State.translate_filled {s s1 : State} {vk k : Nat} (h : s.translate vk = .ok (k, s1)) : s1.Filled s := by
  obtain ⟨x, o, rfl⟩ := State.translate_eq h; exact ⟨_, s.outbox, rfl, rfl, rfl⟩

theorem Memory.fill_phys (m : Memory) (line pk : Nat) (far : Bool) : (m.fill line pk far).phys = m.phys := by
  unfold Memory.fill; rfl

theorem Memory.fill_marks (m : Memory) (line pk : Nat) (far : Bool) : (m.fill line pk far).marks = m.marks := by
  unfold Memory.fill; rfl

theorem State.fillLine_filled (s : State) (line pk : Nat) : (s.fillLine line pk).Filled s := by
  unfold State.fillLine
  dsimp only
  split
  · exact ⟨_, _, rfl, Memory.fill_phys _ _ _ _, Memory.fill_marks _ _ _ _⟩
  · exact ⟨_, s.outbox, rfl, Memory.fill_phys _ _ _ _, Memory.fill_marks _ _ _ _⟩

theorem State.llcPresent_filled {s s1 : State} {vk : Nat} (h : s.llcPresent vk = .ok s1) : s1.Filled s := by
  unfold State.llcPresent at h
  split at h
  · cases h; exact .refl _
  · split at h
    · cases h
    · next t => cases h; exact (State.fillLine_filled _ _ _).comp (State.translate_filled t)

theorem State.llcRead_filled {s s1 : State} {vk : Nat} {b : Byte} (h : s.llcRead vk = .ok (b, s1)) : s1.Filled s := by
  unfold State.llcRead at h
  split at h
  · cases h
  · next p =>
    split at h
    · cases h
    · cases h; exact State.llcPresent_filled p

theorem State.llcReads_filled {s s1 : State} {vk n : Nat} {l : List Byte} (h : s.llcReads vk n = .ok (l, s1)) :
    s1.Filled s ∧ l.length = n := by
  induction n generalizing s vk l with
  | zero => cases h; exact ⟨.refl _, rfl⟩
  | succ n ih =>
    unfold State.llcReads at h
    split at h
    · cases h
    · next r =>
      split at h
      · cases h
      · next q =>
        cases h
        obtain ⟨e, len⟩ := ih q
        exact ⟨e.comp (State.llcRead_filled r), by simp [len]⟩

/-- A write at the LLC changes the LLC, its poison, its records of what was written, and watches. -/
theorem State.llcWrite_eq (s : State) (l : List (Nat × Byte)) :
    s.llcWrite l = { s with
      groups := (s.llcWrite l).groups,
      mem := { s.mem with
        llc := (s.llcWrite l).mem.llc, poison := (s.llcWrite l).mem.poison, writes := (s.llcWrite l).mem.writes,
        past := (s.llcWrite l).mem.past, unmirrored := (s.llcWrite l).mem.unmirrored } } ∧
    WatchOnly (s.llcWrite l).groups s.groups ∧
    (s.llcWrite l).mem.llc = l.foldl (fun c p => Map.insert c p.1 { val := p.2, dirty := true }) s.mem.llc := by
  unfold State.llcWrite
  refine ⟨?_, (State.fireWatches_eq _ _ _).2, ?_⟩ <;> rw [(State.fireWatches_eq _ _ _).1]

/-- Writing a line back to memory keeps the form of physical memory, and changes only memory. -/
theorem State.llcWriteback_eq (s : State) (line : Nat) :
    s.llcWriteback line = { s with
      outbox := (s.llcWriteback line).outbox,
      mem := { (s.llcWriteback line).mem with marks := s.mem.marks, llcLanded := s.mem.llcLanded } } ∧
    (s.mem.wf = true → (s.llcWriteback line).mem.wf = true) := by
  unfold State.llcWriteback
  split
  · exact ⟨rfl, id⟩
  · split
    · exact ⟨rfl, id⟩
    · next t =>
      obtain ⟨x, o, rfl⟩ := State.translate_eq t
      exact ⟨rfl, fun h => canonical_foldl_set h _ _⟩

/-! ## Caches: what leaves physical memory alone -/

/-- The state is as it was, but for the memory system above physical memory: translations, the LLC, cores, poison, stamps, watches
and what is asked of other packages. -/
def State.CachesOnly (t s : State) : Prop :=
  ∃ (m : Memory) (cs : Cells Core) (gs : Cells Group) (w : Nat) (o : List Message),
    t = { s with mem := m, cores := cs, groups := gs, wstamp := w, outbox := o } ∧ m.phys = s.mem.phys ∧ WatchOnly gs s.groups

theorem State.CachesOnly.refl (s : State) : s.CachesOnly s :=
  ⟨s.mem, s.cores, s.groups, s.wstamp, s.outbox, rfl, rfl, .refl _⟩

theorem State.CachesOnly.comp {a b c : State} (h : a.CachesOnly b) (k : b.CachesOnly c) : a.CachesOnly c := by
  obtain ⟨m, cs, gs, w, o, rfl, hp, hw⟩ := h
  obtain ⟨n, ds, hs, v, p, rfl, kp, kw⟩ := k
  exact ⟨m, cs, gs, w, o, rfl, hp.trans kp, hw.comp kw⟩

theorem State.CachesOnly.phys {t s : State} (h : t.CachesOnly s) : t.mem.phys = s.mem.phys := by
  obtain ⟨m, cs, gs, w, o, rfl, hp, _⟩ := h; exact hp

theorem State.CachesOnly.wf {t s : State} (h : t.CachesOnly s) (w : s.mem.wf = true) : t.mem.wf = true :=
  Memory.wf_of_phys h.phys w

theorem State.CachesOnly.wgs {t s : State} (h : t.CachesOnly s) : t.wgs = s.wgs := by
  obtain ⟨m, cs, gs, w, o, rfl, _, _⟩ := h; rfl

theorem State.CachesOnly.watches {t s : State} (h : t.CachesOnly s) : WatchOnly t.groups s.groups := by
  obtain ⟨m, cs, gs, w, o, rfl, _, hw⟩ := h; exact hw

theorem State.CachesOnly.foldl {α : Type} {f : State → α → State} (h : ∀ t a, (f t a).CachesOnly t) (l : List α) (s : State) :
    (l.foldl f s).CachesOnly s := by
  induction l generalizing s with
  | nil => exact .refl s
  | cons a l ih => exact (ih (f s a)).comp (h s a)

theorem State.Filled.caches {t s : State} (h : t.Filled s) : t.CachesOnly s := by
  obtain ⟨m, o, rfl, hp, _⟩ := h
  exact ⟨m, s.cores, s.groups, s.wstamp, o, rfl, hp, .refl _⟩

theorem State.withMem_caches (t : State) (m : Memory) (h : m.phys = t.mem.phys) : ({ t with mem := m } : State).CachesOnly t :=
  ⟨m, t.cores, t.groups, t.wstamp, t.outbox, rfl, h, .refl _⟩

theorem State.onCore_caches (s : State) (core : Nat) (f : Core → Core) : (s.onCore core f).CachesOnly s :=
  ⟨s.mem, (s.onCore core f).cores, s.groups, s.wstamp, s.outbox, rfl, rfl, .refl _⟩

theorem State.setCore_caches (s : State) (core : Nat) (k : Core) : (s.setCore core k).CachesOnly s :=
  ⟨s.mem, (s.setCore core k).cores, s.groups, s.wstamp, s.outbox, rfl, rfl, .refl _⟩

theorem State.llcWrite_caches (s : State) (l : List (Nat × Byte)) : (s.llcWrite l).CachesOnly s := by
  obtain ⟨e, w, _⟩ := s.llcWrite_eq l
  exact ⟨_, s.cores, _, s.wstamp, s.outbox, e, rfl, w⟩

theorem State.fireWatches_caches (s : State) (core : Option Nat) (lines : List Nat) :
    (lines.foldl (fun t line => t.fireWatch core line) s).CachesOnly s := by
  obtain ⟨e, w⟩ := s.fireWatches_eq core lines
  exact ⟨s.mem, s.cores, _, s.wstamp, s.outbox, e, rfl, w⟩

theorem State.l1Write_caches (s : State) (core : Nat) (nc : Bool) (l : List (Nat × Byte)) : (s.l1Write core nc l).CachesOnly s := by
  unfold State.l1Write
  refine (State.fireWatches_caches _ _ _).comp ?_
  exact ⟨{ s.mem with poison := s.mem.clearL1 core (l.map fun p => p.1) }, _, s.groups, s.wstamp + 1, s.outbox, rfl, rfl, .refl _⟩

theorem State.l1Update_caches (s : State) (core : Nat) (l : List (Nat × Byte)) : (s.l1Update core l).CachesOnly s :=
  s.onCore_caches core _

theorem Memory.carryPoison_phys (m : Memory) (core : Nat) (before keys : List Nat) :
    (m.carryPoison core before keys).phys = m.phys := by
  unfold Memory.carryPoison; split <;> rfl

theorem State.l1Writeback_caches (s : State) (core : Nat) (sel : Nat → L1Byte → Bool) : (s.l1Writeback core sel).CachesOnly s := by
  unfold State.l1Writeback
  dsimp only
  split
  · exact .refl s
  · refine (State.withMem_caches _ _ ?_).comp ((State.llcWrite_caches _ _).comp (s.setCore_caches _ _))
    exact Memory.carryPoison_phys _ _ _ _

theorem State.l1Drop_caches (s : State) (core : Nat) (sel : Nat → L1Byte → Bool) : (s.l1Drop core sel).CachesOnly s := by
  unfold State.l1Drop
  refine (State.onCore_caches _ _ _).comp ?_
  exact ⟨_, s.cores, s.groups, s.wstamp, s.outbox, rfl, rfl, .refl _⟩

theorem State.l1Fill_caches (s : State) (core line : Nat) (nc : Bool) : (s.l1Fill core line nc).CachesOnly s := by
  unfold State.l1Fill
  exact s.setCore_caches _ _

theorem State.l1Read_caches {s t : State} {core vk : Nat} {nc alloc : Bool} {b : Byte}
    (h : s.l1Read core vk nc alloc = .ok (b, t)) : t.CachesOnly s := by
  unfold State.l1Read at h
  split at h
  · cases h; exact State.CachesOnly.refl _
  · split at h
    · cases h
    · next r =>
      have := (State.llcRead_filled r).caches
      cases h
      split
      · exact (State.l1Fill_caches _ _ _ _).comp this
      · exact this

theorem State.l1Reads_caches {s t : State} {core vk n : Nat} {nc alloc : Bool} {l : List Byte}
    (h : s.l1Reads core vk nc alloc n = .ok (l, t)) : t.CachesOnly s := by
  induction n generalizing s vk l with
  | zero => cases h; exact .refl _
  | succ n ih =>
    unfold State.l1Reads at h
    split at h
    · cases h
    · next r =>
      split at h
      · cases h
      · next q => cases h; exact (ih q).comp (State.l1Read_caches r)

theorem State.controlLoad_filled {s t : State} {off n v : Nat} (h : s.controlLoad off n = some (v, t)) : t.Filled s := by
  unfold State.controlLoad at h
  split at h
  · next r => cases h; exact (State.llcReads_filled r).1
  · cases h

theorem rightsLevels_filled (control : Bool) (key fuel level table : Nat) (s : State) :
    (rightsLevels control key fuel level table s).2.Filled s := by
  induction fuel generalizing level table s with
  | zero => exact .refl s
  | succ fuel ih =>
    unfold rightsLevels
    split
    · exact .refl s
    · next r =>
      have := State.controlLoad_filled r
      split
      · exact this
      · split
        · exact this
        · split
          · exact this
          · exact (ih _ _ _).comp this

theorem State.rightsWalk_filled (s : State) (ctx : Nat) (a : Word) : (s.rightsWalk ctx a).2.Filled s := by
  unfold State.rightsWalk
  dsimp only
  split
  · exact .refl s
  · next r => exact (rightsLevels_filled _ _ _ _ _ _).comp (State.controlLoad_filled r)

/-- Rights are cached in the core, and the lines of the tables where a walk read them; nothing else changes. -/
theorem State.rights_caches (s : State) (core ctx : Nat) (a : Word) : (s.rights core ctx a).2.CachesOnly s := by
  unfold State.rights
  dsimp only
  cases (s.core core).perm? ctx (pageOf a.toNat) with
  | some r => exact .refl s
  | none =>
    exact (State.onCore_caches _ core fun c => { c.count 0x0303 1 with
      perms := if s.walkRights ctx a = noRights then c.perms
               else { ctx := ctx, page := pageOf a.toNat, rights := s.walkRights ctx a } :: c.perms }).comp
        (s.rightsWalk_filled ctx a).caches

theorem State.cacheRights_caches (s : State) (core ctx : Nat) (accs : List Access) : (s.cacheRights core ctx accs).CachesOnly s := by
  unfold State.cacheRights
  exact .foldl (fun t a => t.rights_caches core ctx a) _ s

/-- A write of shared memory changes its workgroup, poison and watches. -/
theorem State.sharedWrite_caches (s : State) (wg off : Nat) (l : List Byte) :
    (s.sharedWrite wg off l).CachesOnly (s.onWg wg fun w => { w with shared := Map.setRun 0 w.shared off l }) := by
  unfold State.sharedWrite
  refine (State.fireWatches_caches _ _ _).comp ?_
  exact ⟨_, s.cores, s.groups, s.wstamp, s.outbox, rfl, rfl, .refl _⟩

/-! ## Recalls, landing and maintenance -/

theorem State.recall_caches (s : State) (core entry : Nat) : (s.recall core entry).CachesOnly s := by
  unfold State.recall
  split
  · exact .refl s
  · exact (State.onCore_caches _ _ _).comp (s.l1Writeback_caches _ _)

theorem State.clearMarks_caches (s : State) (core entry : Nat) : (s.clearMarks core entry).CachesOnly s :=
  ⟨_, s.cores, s.groups, s.wstamp, s.outbox, rfl, rfl, .refl _⟩

theorem State.recallLine_caches (s : State) (line : Nat) : (s.recallLine line).CachesOnly s := by
  unfold State.recallLine
  split
  · exact .refl s
  · exact (State.onCore_caches _ _ _).comp ((State.clearMarks_caches _ _ _).comp (s.recall_caches _ _))

theorem State.recordEntry_caches (s : State) (core : Nat) : (s.recordEntry core).2.CachesOnly s := by
  unfold State.recordEntry
  dsimp only
  refine (State.onCore_caches _ _ _).comp ?_
  split
  · split
    · exact s.recall_caches _ _
    · exact .refl s
  · exact .refl s

theorem State.flushNc_caches (s : State) (core : Nat) : (s.flushNc core).CachesOnly s := s.l1Writeback_caches _ _

/-- The write-back of a line to memory is the one way of a flush to physical memory, and keeps its form. -/
theorem State.flushLine_wf (s : State) (core line : Nat) (inv llc : Bool) (h : s.mem.wf = true) :
    (s.flushLine core inv llc line).mem.wf = true := by
  have h1 : (s.l1Writeback core fun k _ => lineOf k == line).mem.wf = true := (s.l1Writeback_caches _ _).wf h
  unfold State.flushLine
  dsimp only
  split
  · exact h
  generalize s.l1Writeback core (fun k _ => lineOf k == line) = s1 at *
  have h2 : (if llc then s1.llcWriteback line else s1).mem.wf = true := by
    split
    · exact (s1.llcWriteback_eq line).2 h1
    · exact h1
  generalize (if llc then s1.llcWriteback line else s1) = s2 at *
  have h3 : (if inv then s2.l1Drop core fun k _ => lineOf k == line else s2).mem.wf = true := by
    split
    · exact (s2.l1Drop_caches _ _).wf h2
    · exact h2
  generalize (if inv then s2.l1Drop core fun k _ => lineOf k == line else s2) = s3 at *
  split
  · split
    · have h4 := (s3.recallLine_caches line).wf h3
      split
      · exact Memory.wf_of_phys rfl h4
      · exact h4
    · exact h3
  · exact h3

theorem State.flushLines_wf (s : State) (core : Nat) (inv llc : Bool) (lines : List Nat) (h : s.mem.wf = true) :
    (s.flushLines core inv llc lines).mem.wf = true := by
  unfold State.flushLines
  induction lines generalizing s with
  | nil => exact h
  | cons l ls ih => exact ih _ (s.flushLine_wf core l inv llc h)

end Sys2Proof.Machine
end

