-- ==== Sys2Proof/Laws/PerInstr.lean ====
section
/-! SUPPORT. The shape of an instruction's word: its length, and that bit 0 gives it (R31, R44). -/

namespace Sys2Proof.Laws.Encoded

/-- The word of an instruction has its length in bits, and bit 0 is set exactly where it is 32 bits. -/
def Statement (i : Instr) : Prop :=
  ∀ n w, encode i = some (n, w) → (n = 16 ∨ n = 32) ∧ w < 2 ^ n ∧ (w % 2 = 1 ↔ n = 32)

theorem bool_lt (b : Bool) : b.toNat < 2 := by cases b <;> decide

theorem clauseHeader (g e : Bool) (m : BitVec 3) (b a : BitVec 4) (w : BitVec 12) : Statement (.clauseHeader g e m b a w) := by
  intro n_ w_ h_; cases h_; have := bool_lt g; have := bool_lt e; have := m.isLt; have := b.isLt; have := a.isLt; have := w.isLt; simp only [pack]; exact ⟨by decide, by omega, ⟨fun _ => by trivial, fun _ => by omega⟩⟩

theorem vmov16 (x : Bool) (s d : BitVec 5) : Statement (.vmov16 x s d) := by
  intro n_ w_ h_; cases h_; have := bool_lt x; have := s.isLt; have := d.isLt; simp only [pack]; exact ⟨by decide, by omega, by omega⟩

theorem vadd16 (x : Bool) (s d : BitVec 5) : Statement (.vadd16 x s d) := by
  intro n_ w_ h_; cases h_; have := bool_lt x; have := s.isLt; have := d.isLt; simp only [pack]; exact ⟨by decide, by omega, by omega⟩

theorem vsub16 (x : Bool) (s d : BitVec 5) : Statement (.vsub16 x s d) := by
  intro n_ w_ h_; cases h_; have := bool_lt x; have := s.isLt; have := d.isLt; simp only [pack]; exact ⟨by decide, by omega, by omega⟩

theorem vmul16 (x : Bool) (s d : BitVec 5) : Statement (.vmul16 x s d) := by
  intro n_ w_ h_; cases h_; have := bool_lt x; have := s.isLt; have := d.isLt; simp only [pack]; exact ⟨by decide, by omega, by omega⟩

theorem vand16 (x : Bool) (s d : BitVec 5) : Statement (.vand16 x s d) := by
  intro n_ w_ h_; cases h_; have := bool_lt x; have := s.isLt; have := d.isLt; simp only [pack]; exact ⟨by decide, by omega, by omega⟩

theorem vor16 (x : Bool) (s d : BitVec 5) : Statement (.vor16 x s d) := by
  intro n_ w_ h_; cases h_; have := bool_lt x; have := s.isLt; have := d.isLt; simp only [pack]; exact ⟨by decide, by omega, by omega⟩

theorem vxor16 (x : Bool) (s d : BitVec 5) : Statement (.vxor16 x s d) := by
  intro n_ w_ h_; cases h_; have := bool_lt x; have := s.isLt; have := d.isLt; simp only [pack]; exact ⟨by decide, by omega, by omega⟩

theorem vshl16 (x : Bool) (s d : BitVec 5) : Statement (.vshl16 x s d) := by
  intro n_ w_ h_; cases h_; have := bool_lt x; have := s.isLt; have := d.isLt; simp only [pack]; exact ⟨by decide, by omega, by omega⟩

theorem vshr16 (x : Bool) (s d : BitVec 5) : Statement (.vshr16 x s d) := by
  intro n_ w_ h_; cases h_; have := bool_lt x; have := s.isLt; have := d.isLt; simp only [pack]; exact ⟨by decide, by omega, by omega⟩

theorem vsra16 (x : Bool) (s d : BitVec 5) : Statement (.vsra16 x s d) := by
  intro n_ w_ h_; cases h_; have := bool_lt x; have := s.isLt; have := d.isLt; simp only [pack]; exact ⟨by decide, by omega, by omega⟩

theorem vfadd16 (x : Bool) (s d : BitVec 5) : Statement (.vfadd16 x s d) := by
  intro n_ w_ h_; cases h_; have := bool_lt x; have := s.isLt; have := d.isLt; simp only [pack]; exact ⟨by decide, by omega, by omega⟩

theorem vfsub16 (x : Bool) (s d : BitVec 5) : Statement (.vfsub16 x s d) := by
  intro n_ w_ h_; cases h_; have := bool_lt x; have := s.isLt; have := d.isLt; simp only [pack]; exact ⟨by decide, by omega, by omega⟩

theorem vfmul16 (x : Bool) (s d : BitVec 5) : Statement (.vfmul16 x s d) := by
  intro n_ w_ h_; cases h_; have := bool_lt x; have := s.isLt; have := d.isLt; simp only [pack]; exact ⟨by decide, by omega, by omega⟩

theorem vfmin16 (x : Bool) (s d : BitVec 5) : Statement (.vfmin16 x s d) := by
  intro n_ w_ h_; cases h_; have := bool_lt x; have := s.isLt; have := d.isLt; simp only [pack]; exact ⟨by decide, by omega, by omega⟩

theorem vfmax16 (x : Bool) (s d : BitVec 5) : Statement (.vfmax16 x s d) := by
  intro n_ w_ h_; cases h_; have := bool_lt x; have := s.isLt; have := d.isLt; simp only [pack]; exact ⟨by decide, by omega, by omega⟩

theorem vaddi16 (i d : BitVec 5) : Statement (.vaddi16 i d) := by
  intro n_ w_ h_; cases h_; have := i.isLt; have := d.isLt; simp only [pack]; exact ⟨by decide, by omega, by omega⟩

theorem sadd (b a d : BitVec 6) : Statement (.sadd b a d) := by
  intro n_ w_ h_; cases h_; have := b.isLt; have := a.isLt; have := d.isLt; simp only [pack]; exact ⟨by decide, by omega, ⟨fun _ => by trivial, fun _ => by omega⟩⟩

theorem ssub (b a d : BitVec 6) : Statement (.ssub b a d) := by
  intro n_ w_ h_; cases h_; have := b.isLt; have := a.isLt; have := d.isLt; simp only [pack]; exact ⟨by decide, by omega, ⟨fun _ => by trivial, fun _ => by omega⟩⟩

theorem smul (b a d : BitVec 6) : Statement (.smul b a d) := by
  intro n_ w_ h_; cases h_; have := b.isLt; have := a.isLt; have := d.isLt; simp only [pack]; exact ⟨by decide, by omega, ⟨fun _ => by trivial, fun _ => by omega⟩⟩

theorem smulhI64 (b a d : BitVec 6) : Statement (.smulhI64 b a d) := by
  intro n_ w_ h_; cases h_; have := b.isLt; have := a.isLt; have := d.isLt; simp only [pack]; exact ⟨by decide, by omega, ⟨fun _ => by trivial, fun _ => by omega⟩⟩

theorem smulhN64 (b a d : BitVec 6) : Statement (.smulhN64 b a d) := by
  intro n_ w_ h_; cases h_; have := b.isLt; have := a.isLt; have := d.isLt; simp only [pack]; exact ⟨by decide, by omega, ⟨fun _ => by trivial, fun _ => by omega⟩⟩

theorem sdivn (b a d : BitVec 6) : Statement (.sdivn b a d) := by
  intro n_ w_ h_; cases h_; have := b.isLt; have := a.isLt; have := d.isLt; simp only [pack]; exact ⟨by decide, by omega, ⟨fun _ => by trivial, fun _ => by omega⟩⟩

theorem sand (b a d : BitVec 6) : Statement (.sand b a d) := by
  intro n_ w_ h_; cases h_; have := b.isLt; have := a.isLt; have := d.isLt; simp only [pack]; exact ⟨by decide, by omega, ⟨fun _ => by trivial, fun _ => by omega⟩⟩

theorem sor (b a d : BitVec 6) : Statement (.sor b a d) := by
  intro n_ w_ h_; cases h_; have := b.isLt; have := a.isLt; have := d.isLt; simp only [pack]; exact ⟨by decide, by omega, ⟨fun _ => by trivial, fun _ => by omega⟩⟩

theorem sxor (b a d : BitVec 6) : Statement (.sxor b a d) := by
  intro n_ w_ h_; cases h_; have := b.isLt; have := a.isLt; have := d.isLt; simp only [pack]; exact ⟨by decide, by omega, ⟨fun _ => by trivial, fun _ => by omega⟩⟩

theorem sshl (b a d : BitVec 6) : Statement (.sshl b a d) := by
  intro n_ w_ h_; cases h_; have := b.isLt; have := a.isLt; have := d.isLt; simp only [pack]; exact ⟨by decide, by omega, ⟨fun _ => by trivial, fun _ => by omega⟩⟩

theorem sshr (b a d : BitVec 6) : Statement (.sshr b a d) := by
  intro n_ w_ h_; cases h_; have := b.isLt; have := a.isLt; have := d.isLt; simp only [pack]; exact ⟨by decide, by omega, ⟨fun _ => by trivial, fun _ => by omega⟩⟩

theorem ssra (b a d : BitVec 6) : Statement (.ssra b a d) := by
  intro n_ w_ h_; cases h_; have := b.isLt; have := a.isLt; have := d.isLt; simp only [pack]; exact ⟨by decide, by omega, ⟨fun _ => by trivial, fun _ => by omega⟩⟩

theorem sminI64 (b a d : BitVec 6) : Statement (.sminI64 b a d) := by
  intro n_ w_ h_; cases h_; have := b.isLt; have := a.isLt; have := d.isLt; simp only [pack]; exact ⟨by decide, by omega, ⟨fun _ => by trivial, fun _ => by omega⟩⟩

theorem sminN64 (b a d : BitVec 6) : Statement (.sminN64 b a d) := by
  intro n_ w_ h_; cases h_; have := b.isLt; have := a.isLt; have := d.isLt; simp only [pack]; exact ⟨by decide, by omega, ⟨fun _ => by trivial, fun _ => by omega⟩⟩

theorem smaxI64 (b a d : BitVec 6) : Statement (.smaxI64 b a d) := by
  intro n_ w_ h_; cases h_; have := b.isLt; have := a.isLt; have := d.isLt; simp only [pack]; exact ⟨by decide, by omega, ⟨fun _ => by trivial, fun _ => by omega⟩⟩

theorem smaxN64 (b a d : BitVec 6) : Statement (.smaxN64 b a d) := by
  intro n_ w_ h_; cases h_; have := b.isLt; have := a.isLt; have := d.isLt; simp only [pack]; exact ⟨by decide, by omega, ⟨fun _ => by trivial, fun _ => by omega⟩⟩

theorem ssel (c : BitVec 2) (b a d : BitVec 6) : Statement (.ssel c b a d) := by
  intro n_ w_ h_; cases h_; have := c.isLt; have := b.isLt; have := a.isLt; have := d.isLt; simp only [pack]; exact ⟨by decide, by omega, ⟨fun _ => by trivial, fun _ => by omega⟩⟩

theorem sclz (a d : BitVec 6) : Statement (.sclz a d) := by
  intro n_ w_ h_; cases h_; have := a.isLt; have := d.isLt; simp only [pack]; exact ⟨by decide, by omega, ⟨fun _ => by trivial, fun _ => by omega⟩⟩

theorem spopc (a d : BitVec 6) : Statement (.spopc a d) := by
  intro n_ w_ h_; cases h_; have := a.isLt; have := d.isLt; simp only [pack]; exact ⟨by decide, by omega, ⟨fun _ => by trivial, fun _ => by omega⟩⟩

theorem sbfxN64 (b a d : BitVec 6) : Statement (.sbfxN64 b a d) := by
  intro n_ w_ h_; cases h_; have := b.isLt; have := a.isLt; have := d.isLt; simp only [pack]; exact ⟨by decide, by omega, ⟨fun _ => by trivial, fun _ => by omega⟩⟩

theorem sbfxI64 (b a d : BitVec 6) : Statement (.sbfxI64 b a d) := by
  intro n_ w_ h_; cases h_; have := b.isLt; have := a.isLt; have := d.isLt; simp only [pack]; exact ⟨by decide, by omega, ⟨fun _ => by trivial, fun _ => by omega⟩⟩

theorem sbfi (b a d : BitVec 6) : Statement (.sbfi b a d) := by
  intro n_ w_ h_; cases h_; have := b.isLt; have := a.isLt; have := d.isLt; simp only [pack]; exact ⟨by decide, by omega, ⟨fun _ => by trivial, fun _ => by omega⟩⟩

theorem scmp (b a : BitVec 6) (k : BitVec 4) (c : BitVec 2) : Statement (.scmp b a k c) := by
  intro n_ w_ h_; cases h_; have := b.isLt; have := a.isLt; have := k.isLt; have := c.isLt; simp only [pack]; exact ⟨by decide, by omega, ⟨fun _ => by trivial, fun _ => by omega⟩⟩

theorem smov (a d : BitVec 6) : Statement (.smov a d) := by
  intro n_ w_ h_; cases h_; have := a.isLt; have := d.isLt; simp only [pack]; exact ⟨by decide, by omega, ⟨fun _ => by trivial, fun _ => by omega⟩⟩

theorem saddImm (i : BitVec 9) (a d : BitVec 6) : Statement (.saddImm i a d) := by
  intro n_ w_ h_; cases h_; have := i.isLt; have := a.isLt; have := d.isLt; simp only [pack]; exact ⟨by decide, by omega, ⟨fun _ => by trivial, fun _ => by omega⟩⟩

theorem smulImm (i : BitVec 9) (a d : BitVec 6) : Statement (.smulImm i a d) := by
  intro n_ w_ h_; cases h_; have := i.isLt; have := a.isLt; have := d.isLt; simp only [pack]; exact ⟨by decide, by omega, ⟨fun _ => by trivial, fun _ => by omega⟩⟩

theorem sandImm (i : BitVec 9) (a d : BitVec 6) : Statement (.sandImm i a d) := by
  intro n_ w_ h_; cases h_; have := i.isLt; have := a.isLt; have := d.isLt; simp only [pack]; exact ⟨by decide, by omega, ⟨fun _ => by trivial, fun _ => by omega⟩⟩

theorem sorImm (i : BitVec 9) (a d : BitVec 6) : Statement (.sorImm i a d) := by
  intro n_ w_ h_; cases h_; have := i.isLt; have := a.isLt; have := d.isLt; simp only [pack]; exact ⟨by decide, by omega, ⟨fun _ => by trivial, fun _ => by omega⟩⟩

theorem sxorImm (i : BitVec 9) (a d : BitVec 6) : Statement (.sxorImm i a d) := by
  intro n_ w_ h_; cases h_; have := i.isLt; have := a.isLt; have := d.isLt; simp only [pack]; exact ⟨by decide, by omega, ⟨fun _ => by trivial, fun _ => by omega⟩⟩

theorem sshlImm (i a d : BitVec 6) : Statement (.sshlImm i a d) := by
  intro n_ w_ h_; cases h_; have := i.isLt; have := a.isLt; have := d.isLt; simp only [pack]; exact ⟨by decide, by omega, ⟨fun _ => by trivial, fun _ => by omega⟩⟩

theorem sshrImm (i a d : BitVec 6) : Statement (.sshrImm i a d) := by
  intro n_ w_ h_; cases h_; have := i.isLt; have := a.isLt; have := d.isLt; simp only [pack]; exact ⟨by decide, by omega, ⟨fun _ => by trivial, fun _ => by omega⟩⟩

theorem ssraImm (i a d : BitVec 6) : Statement (.ssraImm i a d) := by
  intro n_ w_ h_; cases h_; have := i.isLt; have := a.isLt; have := d.isLt; simp only [pack]; exact ⟨by decide, by omega, ⟨fun _ => by trivial, fun _ => by omega⟩⟩

theorem sminImm (i : BitVec 9) (a d : BitVec 6) : Statement (.sminImm i a d) := by
  intro n_ w_ h_; cases h_; have := i.isLt; have := a.isLt; have := d.isLt; simp only [pack]; exact ⟨by decide, by omega, ⟨fun _ => by trivial, fun _ => by omega⟩⟩

theorem smaxImm (i : BitVec 9) (a d : BitVec 6) : Statement (.smaxImm i a d) := by
  intro n_ w_ h_; cases h_; have := i.isLt; have := a.isLt; have := d.isLt; simp only [pack]; exact ⟨by decide, by omega, ⟨fun _ => by trivial, fun _ => by omega⟩⟩

theorem scmpImm (i : BitVec 9) (a : BitVec 6) (k : BitVec 4) (c : BitVec 2) : Statement (.scmpImm i a k c) := by
  intro n_ w_ h_; cases h_; have := i.isLt; have := a.isLt; have := k.isLt; have := c.isLt; simp only [pack]; exact ⟨by decide, by omega, ⟨fun _ => by trivial, fun _ => by omega⟩⟩

theorem sli (i : BitVec 18) (d : BitVec 6) : Statement (.sli i d) := by
  intro n_ w_ h_; cases h_; have := i.isLt; have := d.isLt; simp only [pack]; exact ⟨by decide, by omega, ⟨fun _ => by trivial, fun _ => by omega⟩⟩

theorem slih (h : BitVec 2) (i : BitVec 16) (d : BitVec 6) : Statement (.slih h i d) := by
  intro n_ w_ h_; cases h_; have := h.isLt; have := i.isLt; have := d.isLt; simp only [pack]; exact ⟨by decide, by omega, ⟨fun _ => by trivial, fun _ => by omega⟩⟩

theorem bra (o : BitVec 21) : Statement (.bra o) := by
  intro n_ w_ h_; cases h_; have := o.isLt; simp only [pack]; exact ⟨by decide, by omega, ⟨fun _ => by trivial, fun _ => by omega⟩⟩

theorem bcT (o : BitVec 21) (c : BitVec 2) : Statement (.bcT o c) := by
  intro n_ w_ h_; cases h_; have := o.isLt; have := c.isLt; simp only [pack]; exact ⟨by decide, by omega, ⟨fun _ => by trivial, fun _ => by omega⟩⟩

theorem bcF (o : BitVec 21) (c : BitVec 2) : Statement (.bcF o c) := by
  intro n_ w_ h_; cases h_; have := o.isLt; have := c.isLt; simp only [pack]; exact ⟨by decide, by omega, ⟨fun _ => by trivial, fun _ => by omega⟩⟩

theorem bdiv (o : BitVec 21) (m : BitVec 2) : Statement (.bdiv o m) := by
  intro n_ w_ h_; cases h_; have := o.isLt; have := m.isLt; simp only [pack]; exact ⟨by decide, by omega, ⟨fun _ => by trivial, fun _ => by omega⟩⟩

theorem bvoteAny (o : BitVec 21) (m : BitVec 2) : Statement (.bvoteAny o m) := by
  intro n_ w_ h_; cases h_; have := o.isLt; have := m.isLt; simp only [pack]; exact ⟨by decide, by omega, ⟨fun _ => by trivial, fun _ => by omega⟩⟩

theorem bvoteAll (o : BitVec 21) (m : BitVec 2) : Statement (.bvoteAll o m) := by
  intro n_ w_ h_; cases h_; have := o.isLt; have := m.isLt; simp only [pack]; exact ⟨by decide, by omega, ⟨fun _ => by trivial, fun _ => by omega⟩⟩

theorem bvoteNone (o : BitVec 21) (m : BitVec 2) : Statement (.bvoteNone o m) := by
  intro n_ w_ h_; cases h_; have := o.isLt; have := m.isLt; simp only [pack]; exact ⟨by decide, by omega, ⟨fun _ => by trivial, fun _ => by omega⟩⟩

theorem call (o : BitVec 18) : Statement (.call o) := by
  intro n_ w_ h_; cases h_; have := o.isLt; simp only [pack]; exact ⟨by decide, by omega, ⟨fun _ => by trivial, fun _ => by omega⟩⟩

theorem callR (a : BitVec 6) : Statement (.callR a) := by
  intro n_ w_ h_; cases h_; have := a.isLt; simp only [pack]; exact ⟨by decide, by omega, ⟨fun _ => by trivial, fun _ => by omega⟩⟩

theorem ret : Statement (.ret) := by
  intro n_ w_ h_; cases h_; decide

theorem jmpi (a : BitVec 6) : Statement (.jmpi a) := by
  intro n_ w_ h_; cases h_; have := a.isLt; simp only [pack]; exact ⟨by decide, by omega, ⟨fun _ => by trivial, fun _ => by omega⟩⟩

theorem join (j : BitVec 3) : Statement (.join j) := by
  intro n_ w_ h_; cases h_; have := j.isLt; simp only [pack]; exact ⟨by decide, by omega, ⟨fun _ => by trivial, fun _ => by omega⟩⟩

theorem park (j : BitVec 3) : Statement (.park j) := by
  intro n_ w_ h_; cases h_; have := j.isLt; simp only [pack]; exact ⟨by decide, by omega, ⟨fun _ => by trivial, fun _ => by omega⟩⟩

theorem strike (j : BitVec 3) : Statement (.strike j) := by
  intro n_ w_ h_; cases h_; have := j.isLt; simp only [pack]; exact ⟨by decide, by omega, ⟨fun _ => by trivial, fun _ => by omega⟩⟩

theorem regang : Statement (.regang) := by
  intro n_ w_ h_; cases h_; decide

theorem exit : Statement (.exit) := by
  intro n_ w_ h_; cases h_; decide

theorem nop : Statement (.nop) := by
  intro n_ w_ h_; cases h_; decide

theorem yield : Statement (.yield) := by
  intro n_ w_ h_; cases h_; decide

theorem srd (n : BitVec 12) (a : BitVec 6) : Statement (.srd n a) := by
  intro n_ w_ h_; cases h_; have := n.isLt; have := a.isLt; simp only [pack]; exact ⟨by decide, by omega, ⟨fun _ => by trivial, fun _ => by omega⟩⟩

theorem swr (n : BitVec 12) (a : BitVec 6) : Statement (.swr n a) := by
  intro n_ w_ h_; cases h_; have := n.isLt; have := a.isLt; simp only [pack]; exact ⟨by decide, by omega, ⟨fun _ => by trivial, fun _ => by omega⟩⟩

theorem vadd (x : Bool) (b a d : BitVec 7) : Statement (.vadd x b a d) := by
  intro n_ w_ h_; cases h_; have := bool_lt x; have := b.isLt; have := a.isLt; have := d.isLt; simp only [pack]; exact ⟨by decide, by omega, ⟨fun _ => by trivial, fun _ => by omega⟩⟩

theorem vsub (x : Bool) (b a d : BitVec 7) : Statement (.vsub x b a d) := by
  intro n_ w_ h_; cases h_; have := bool_lt x; have := b.isLt; have := a.isLt; have := d.isLt; simp only [pack]; exact ⟨by decide, by omega, ⟨fun _ => by trivial, fun _ => by omega⟩⟩

theorem vmul (x : Bool) (b a d : BitVec 7) : Statement (.vmul x b a d) := by
  intro n_ w_ h_; cases h_; have := bool_lt x; have := b.isLt; have := a.isLt; have := d.isLt; simp only [pack]; exact ⟨by decide, by omega, ⟨fun _ => by trivial, fun _ => by omega⟩⟩

theorem vmulh (x : Bool) (b a d : BitVec 7) : Statement (.vmulh x b a d) := by
  intro n_ w_ h_; cases h_; have := bool_lt x; have := b.isLt; have := a.isLt; have := d.isLt; simp only [pack]; exact ⟨by decide, by omega, ⟨fun _ => by trivial, fun _ => by omega⟩⟩

theorem vmin (x : Bool) (b a d : BitVec 7) : Statement (.vmin x b a d) := by
  intro n_ w_ h_; cases h_; have := bool_lt x; have := b.isLt; have := a.isLt; have := d.isLt; simp only [pack]; exact ⟨by decide, by omega, ⟨fun _ => by trivial, fun _ => by omega⟩⟩

theorem vmax (x : Bool) (b a d : BitVec 7) : Statement (.vmax x b a d) := by
  intro n_ w_ h_; cases h_; have := bool_lt x; have := b.isLt; have := a.isLt; have := d.isLt; simp only [pack]; exact ⟨by decide, by omega, ⟨fun _ => by trivial, fun _ => by omega⟩⟩

theorem vabsd (x : Bool) (b a d : BitVec 7) : Statement (.vabsd x b a d) := by
  intro n_ w_ h_; cases h_; have := bool_lt x; have := b.isLt; have := a.isLt; have := d.isLt; simp only [pack]; exact ⟨by decide, by omega, ⟨fun _ => by trivial, fun _ => by omega⟩⟩

theorem vdot4 (x : Bool) (b a d : BitVec 7) : Statement (.vdot4 x b a d) := by
  intro n_ w_ h_; cases h_; have := bool_lt x; have := b.isLt; have := a.isLt; have := d.isLt; simp only [pack]; exact ⟨by decide, by omega, ⟨fun _ => by trivial, fun _ => by omega⟩⟩

theorem vand (x : Bool) (b a d : BitVec 7) : Statement (.vand x b a d) := by
  intro n_ w_ h_; cases h_; have := bool_lt x; have := b.isLt; have := a.isLt; have := d.isLt; simp only [pack]; exact ⟨by decide, by omega, ⟨fun _ => by trivial, fun _ => by omega⟩⟩

theorem vor (x : Bool) (b a d : BitVec 7) : Statement (.vor x b a d) := by
  intro n_ w_ h_; cases h_; have := bool_lt x; have := b.isLt; have := a.isLt; have := d.isLt; simp only [pack]; exact ⟨by decide, by omega, ⟨fun _ => by trivial, fun _ => by omega⟩⟩

theorem vxor (x : Bool) (b a d : BitVec 7) : Statement (.vxor x b a d) := by
  intro n_ w_ h_; cases h_; have := bool_lt x; have := b.isLt; have := a.isLt; have := d.isLt; simp only [pack]; exact ⟨by decide, by omega, ⟨fun _ => by trivial, fun _ => by omega⟩⟩

theorem vshl (x : Bool) (b a d : BitVec 7) : Statement (.vshl x b a d) := by
  intro n_ w_ h_; cases h_; have := bool_lt x; have := b.isLt; have := a.isLt; have := d.isLt; simp only [pack]; exact ⟨by decide, by omega, ⟨fun _ => by trivial, fun _ => by omega⟩⟩

theorem vshr (x : Bool) (b a d : BitVec 7) : Statement (.vshr x b a d) := by
  intro n_ w_ h_; cases h_; have := bool_lt x; have := b.isLt; have := a.isLt; have := d.isLt; simp only [pack]; exact ⟨by decide, by omega, ⟨fun _ => by trivial, fun _ => by omega⟩⟩

theorem vsra (x : Bool) (b a d : BitVec 7) : Statement (.vsra x b a d) := by
  intro n_ w_ h_; cases h_; have := bool_lt x; have := b.isLt; have := a.isLt; have := d.isLt; simp only [pack]; exact ⟨by decide, by omega, ⟨fun _ => by trivial, fun _ => by omega⟩⟩

theorem vfshl (x : Bool) (b a d : BitVec 7) : Statement (.vfshl x b a d) := by
  intro n_ w_ h_; cases h_; have := bool_lt x; have := b.isLt; have := a.isLt; have := d.isLt; simp only [pack]; exact ⟨by decide, by omega, ⟨fun _ => by trivial, fun _ => by omega⟩⟩

theorem vfshr (x : Bool) (b a d : BitVec 7) : Statement (.vfshr x b a d) := by
  intro n_ w_ h_; cases h_; have := bool_lt x; have := b.isLt; have := a.isLt; have := d.isLt; simp only [pack]; exact ⟨by decide, by omega, ⟨fun _ => by trivial, fun _ => by omega⟩⟩

theorem vpopc (a d : BitVec 7) : Statement (.vpopc a d) := by
  intro n_ w_ h_; cases h_; have := a.isLt; have := d.isLt; simp only [pack]; exact ⟨by decide, by omega, ⟨fun _ => by trivial, fun _ => by omega⟩⟩

theorem vclz (a d : BitVec 7) : Statement (.vclz a d) := by
  intro n_ w_ h_; cases h_; have := a.isLt; have := d.isLt; simp only [pack]; exact ⟨by decide, by omega, ⟨fun _ => by trivial, fun _ => by omega⟩⟩

theorem vbrev (a d : BitVec 7) : Statement (.vbrev a d) := by
  intro n_ w_ h_; cases h_; have := a.isLt; have := d.isLt; simp only [pack]; exact ⟨by decide, by omega, ⟨fun _ => by trivial, fun _ => by omega⟩⟩

theorem vnot (a d : BitVec 7) : Statement (.vnot a d) := by
  intro n_ w_ h_; cases h_; have := a.isLt; have := d.isLt; simp only [pack]; exact ⟨by decide, by omega, ⟨fun _ => by trivial, fun _ => by omega⟩⟩

theorem vbfxN32 (x : Bool) (b a d : BitVec 7) : Statement (.vbfxN32 x b a d) := by
  intro n_ w_ h_; cases h_; have := bool_lt x; have := b.isLt; have := a.isLt; have := d.isLt; simp only [pack]; exact ⟨by decide, by omega, ⟨fun _ => by trivial, fun _ => by omega⟩⟩

theorem vbfxI32 (x : Bool) (b a d : BitVec 7) : Statement (.vbfxI32 x b a d) := by
  intro n_ w_ h_; cases h_; have := bool_lt x; have := b.isLt; have := a.isLt; have := d.isLt; simp only [pack]; exact ⟨by decide, by omega, ⟨fun _ => by trivial, fun _ => by omega⟩⟩

theorem vbfi (x : Bool) (b a d : BitVec 7) : Statement (.vbfi x b a d) := by
  intro n_ w_ h_; cases h_; have := bool_lt x; have := b.isLt; have := a.isLt; have := d.isLt; simp only [pack]; exact ⟨by decide, by omega, ⟨fun _ => by trivial, fun _ => by omega⟩⟩

theorem vaddc (x : Bool) (b a d : BitVec 7) : Statement (.vaddc x b a d) := by
  intro n_ w_ h_; cases h_; have := bool_lt x; have := b.isLt; have := a.isLt; have := d.isLt; simp only [pack]; exact ⟨by decide, by omega, ⟨fun _ => by trivial, fun _ => by omega⟩⟩

theorem vsubb (x : Bool) (b a d : BitVec 7) : Statement (.vsubb x b a d) := by
  intro n_ w_ h_; cases h_; have := bool_lt x; have := b.isLt; have := a.isLt; have := d.isLt; simp only [pack]; exact ⟨by decide, by omega, ⟨fun _ => by trivial, fun _ => by omega⟩⟩

theorem vaddi (i : BitVec 8) (a d : BitVec 7) : Statement (.vaddi i a d) := by
  intro n_ w_ h_; cases h_; have := i.isLt; have := a.isLt; have := d.isLt; simp only [pack]; exact ⟨by decide, by omega, ⟨fun _ => by trivial, fun _ => by omega⟩⟩

theorem vandi (i : BitVec 8) (a d : BitVec 7) : Statement (.vandi i a d) := by
  intro n_ w_ h_; cases h_; have := i.isLt; have := a.isLt; have := d.isLt; simp only [pack]; exact ⟨by decide, by omega, ⟨fun _ => by trivial, fun _ => by omega⟩⟩

theorem vori (i : BitVec 8) (a d : BitVec 7) : Statement (.vori i a d) := by
  intro n_ w_ h_; cases h_; have := i.isLt; have := a.isLt; have := d.isLt; simp only [pack]; exact ⟨by decide, by omega, ⟨fun _ => by trivial, fun _ => by omega⟩⟩

theorem vxori (i : BitVec 8) (a d : BitVec 7) : Statement (.vxori i a d) := by
  intro n_ w_ h_; cases h_; have := i.isLt; have := a.isLt; have := d.isLt; simp only [pack]; exact ⟨by decide, by omega, ⟨fun _ => by trivial, fun _ => by omega⟩⟩

theorem vshli (i : BitVec 5) (a d : BitVec 7) : Statement (.vshli i a d) := by
  intro n_ w_ h_; cases h_; have := i.isLt; have := a.isLt; have := d.isLt; simp only [pack]; exact ⟨by decide, by omega, ⟨fun _ => by trivial, fun _ => by omega⟩⟩

theorem vshri (i : BitVec 5) (a d : BitVec 7) : Statement (.vshri i a d) := by
  intro n_ w_ h_; cases h_; have := i.isLt; have := a.isLt; have := d.isLt; simp only [pack]; exact ⟨by decide, by omega, ⟨fun _ => by trivial, fun _ => by omega⟩⟩

theorem vsrai (i : BitVec 5) (a d : BitVec 7) : Statement (.vsrai i a d) := by
  intro n_ w_ h_; cases h_; have := i.isLt; have := a.isLt; have := d.isLt; simp only [pack]; exact ⟨by decide, by omega, ⟨fun _ => by trivial, fun _ => by omega⟩⟩

theorem vli (imm : BitVec 15) (d : BitVec 7) : Statement (.vli imm d) := by
  intro n_ w_ h_; cases h_; have := imm.isLt; have := d.isLt; simp only [pack]; exact ⟨by decide, by omega, ⟨fun _ => by trivial, fun _ => by omega⟩⟩

theorem vlop3 (t : BitVec 8) (b a d : BitVec 6) : Statement (.vlop3 t b a d) := by
  intro n_ w_ h_; cases h_; have := t.isLt; have := b.isLt; have := a.isLt; have := d.isLt; simp only [pack]; exact ⟨by decide, by omega, ⟨fun _ => by trivial, fun _ => by omega⟩⟩

theorem vicmp (x : Bool) (b a : BitVec 7) (k : BitVec 4) (m : BitVec 3) : Statement (.vicmp x b a k m) := by
  intro n_ w_ h_; cases h_; have := bool_lt x; have := b.isLt; have := a.isLt; have := k.isLt; have := m.isLt; simp only [pack]; exact ⟨by decide, by omega, ⟨fun _ => by trivial, fun _ => by omega⟩⟩

theorem vsel (x : Bool) (b a d : BitVec 7) : Statement (.vsel x b a d) := by
  intro n_ w_ h_; cases h_; have := bool_lt x; have := b.isLt; have := a.isLt; have := d.isLt; simp only [pack]; exact ⟨by decide, by omega, ⟨fun _ => by trivial, fun _ => by omega⟩⟩

theorem vmovs (b : BitVec 6) (a : BitVec 7) (d : BitVec 6) : Statement (.vmovs b a d) := by
  intro n_ w_ h_; cases h_; have := b.isLt; have := a.isLt; have := d.isLt; simp only [pack]; exact ⟨by decide, by omega, ⟨fun _ => by trivial, fun _ => by omega⟩⟩

theorem vmovx (x : Bool) (b a d : BitVec 7) : Statement (.vmovx x b a d) := by
  intro n_ w_ h_; cases h_; have := bool_lt x; have := b.isLt; have := a.isLt; have := d.isLt; simp only [pack]; exact ⟨by decide, by omega, ⟨fun _ => by trivial, fun _ => by omega⟩⟩

theorem vmovxl (x : Bool) (b d : BitVec 7) : Statement (.vmovxl x b d) := by
  intro n_ w_ h_; cases h_; have := bool_lt x; have := b.isLt; have := d.isLt; simp only [pack]; exact ⟨by decide, by omega, ⟨fun _ => by trivial, fun _ => by omega⟩⟩

theorem vmovxw (x : Bool) (b a d : BitVec 7) : Statement (.vmovxw x b a d) := by
  intro n_ w_ h_; cases h_; have := bool_lt x; have := b.isLt; have := a.isLt; have := d.isLt; simp only [pack]; exact ⟨by decide, by omega, ⟨fun _ => by trivial, fun _ => by omega⟩⟩

theorem vmov (x : Bool) (b d : BitVec 7) : Statement (.vmov x b d) := by
  intro n_ w_ h_; cases h_; have := bool_lt x; have := b.isLt; have := d.isLt; simp only [pack]; exact ⟨by decide, by omega, ⟨fun _ => by trivial, fun _ => by omega⟩⟩

theorem mand (c b a : BitVec 3) : Statement (.mand c b a) := by
  intro n_ w_ h_; cases h_; have := c.isLt; have := b.isLt; have := a.isLt; simp only [pack]; exact ⟨by decide, by omega, ⟨fun _ => by trivial, fun _ => by omega⟩⟩

theorem mor (c b a : BitVec 3) : Statement (.mor c b a) := by
  intro n_ w_ h_; cases h_; have := c.isLt; have := b.isLt; have := a.isLt; simp only [pack]; exact ⟨by decide, by omega, ⟨fun _ => by trivial, fun _ => by omega⟩⟩

theorem mxor (c b a : BitVec 3) : Statement (.mxor c b a) := by
  intro n_ w_ h_; cases h_; have := c.isLt; have := b.isLt; have := a.isLt; simp only [pack]; exact ⟨by decide, by omega, ⟨fun _ => by trivial, fun _ => by omega⟩⟩

theorem mnot (b a : BitVec 3) : Statement (.mnot b a) := by
  intro n_ w_ h_; cases h_; have := b.isLt; have := a.isLt; simp only [pack]; exact ⟨by decide, by omega, ⟨fun _ => by trivial, fun _ => by omega⟩⟩

theorem mpop (b : BitVec 3) (d : BitVec 6) : Statement (.mpop b d) := by
  intro n_ w_ h_; cases h_; have := b.isLt; have := d.isLt; simp only [pack]; exact ⟨by decide, by omega, ⟨fun _ => by trivial, fun _ => by omega⟩⟩

theorem mfind (b : BitVec 3) (d : BitVec 6) : Statement (.mfind b d) := by
  intro n_ w_ h_; cases h_; have := b.isLt; have := d.isLt; simp only [pack]; exact ⟨by decide, by omega, ⟨fun _ => by trivial, fun _ => by omega⟩⟩

theorem mset (s : BitVec 6) (a : BitVec 3) : Statement (.mset s a) := by
  intro n_ w_ h_; cases h_; have := s.isLt; have := a.isLt; simp only [pack]; exact ⟨by decide, by omega, ⟨fun _ => by trivial, fun _ => by omega⟩⟩

theorem mget (b : BitVec 3) (d : BitVec 6) : Statement (.mget b d) := by
  intro n_ w_ h_; cases h_; have := b.isLt; have := d.isLt; simp only [pack]; exact ⟨by decide, by omega, ⟨fun _ => by trivial, fun _ => by omega⟩⟩

theorem mgetLanes (d : BitVec 6) : Statement (.mgetLanes d) := by
  intro n_ w_ h_; cases h_; have := d.isLt; simp only [pack]; exact ⟨by decide, by omega, ⟨fun _ => by trivial, fun _ => by omega⟩⟩

theorem vfadd (x : Bool) (b a d : BitVec 7) : Statement (.vfadd x b a d) := by
  intro n_ w_ h_; cases h_; have := bool_lt x; have := b.isLt; have := a.isLt; have := d.isLt; simp only [pack]; exact ⟨by decide, by omega, ⟨fun _ => by trivial, fun _ => by omega⟩⟩

theorem vfsub (x : Bool) (b a d : BitVec 7) : Statement (.vfsub x b a d) := by
  intro n_ w_ h_; cases h_; have := bool_lt x; have := b.isLt; have := a.isLt; have := d.isLt; simp only [pack]; exact ⟨by decide, by omega, ⟨fun _ => by trivial, fun _ => by omega⟩⟩

theorem vfmul (x : Bool) (b a d : BitVec 7) : Statement (.vfmul x b a d) := by
  intro n_ w_ h_; cases h_; have := bool_lt x; have := b.isLt; have := a.isLt; have := d.isLt; simp only [pack]; exact ⟨by decide, by omega, ⟨fun _ => by trivial, fun _ => by omega⟩⟩

theorem vfmin (x : Bool) (b a d : BitVec 7) : Statement (.vfmin x b a d) := by
  intro n_ w_ h_; cases h_; have := bool_lt x; have := b.isLt; have := a.isLt; have := d.isLt; simp only [pack]; exact ⟨by decide, by omega, ⟨fun _ => by trivial, fun _ => by omega⟩⟩

theorem vfmax (x : Bool) (b a d : BitVec 7) : Statement (.vfmax x b a d) := by
  intro n_ w_ h_; cases h_; have := bool_lt x; have := b.isLt; have := a.isLt; have := d.isLt; simp only [pack]; exact ⟨by decide, by omega, ⟨fun _ => by trivial, fun _ => by omega⟩⟩

theorem vfma (x : Bool) (b a d : BitVec 7) : Statement (.vfma x b a d) := by
  intro n_ w_ h_; cases h_; have := bool_lt x; have := b.isLt; have := a.isLt; have := d.isLt; simp only [pack]; exact ⟨by decide, by omega, ⟨fun _ => by trivial, fun _ => by omega⟩⟩

theorem vfscale (x : Bool) (b a d : BitVec 7) : Statement (.vfscale x b a d) := by
  intro n_ w_ h_; cases h_; have := bool_lt x; have := b.isLt; have := a.isLt; have := d.isLt; simp only [pack]; exact ⟨by decide, by omega, ⟨fun _ => by trivial, fun _ => by omega⟩⟩

theorem vfcpys (x : Bool) (b a d : BitVec 7) : Statement (.vfcpys x b a d) := by
  intro n_ w_ h_; cases h_; have := bool_lt x; have := b.isLt; have := a.isLt; have := d.isLt; simp only [pack]; exact ⟨by decide, by omega, ⟨fun _ => by trivial, fun _ => by omega⟩⟩

theorem vfmad (n : Bool) (c b a d : BitVec 6) : Statement (.vfmad n c b a d) := by
  intro n_ w_ h_; cases h_; have := bool_lt n; have := c.isLt; have := b.isLt; have := a.isLt; have := d.isLt; simp only [pack]; exact ⟨by decide, by omega, ⟨fun _ => by trivial, fun _ => by omega⟩⟩

theorem vfabs (a d : BitVec 7) : Statement (.vfabs a d) := by
  intro n_ w_ h_; cases h_; have := a.isLt; have := d.isLt; simp only [pack]; exact ⟨by decide, by omega, ⟨fun _ => by trivial, fun _ => by omega⟩⟩

theorem vfneg (a d : BitVec 7) : Statement (.vfneg a d) := by
  intro n_ w_ h_; cases h_; have := a.isLt; have := d.isLt; simp only [pack]; exact ⟨by decide, by omega, ⟨fun _ => by trivial, fun _ => by omega⟩⟩

theorem vfrnd (r : BitVec 2) (a d : BitVec 7) : Statement (.vfrnd r a d) := by
  intro n_ w_ h_; cases h_; have := r.isLt; have := a.isLt; have := d.isLt; simp only [pack]; exact ⟨by decide, by omega, ⟨fun _ => by trivial, fun _ => by omega⟩⟩

theorem vfclass (a d : BitVec 7) : Statement (.vfclass a d) := by
  intro n_ w_ h_; cases h_; have := a.isLt; have := d.isLt; simp only [pack]; exact ⟨by decide, by omega, ⟨fun _ => by trivial, fun _ => by omega⟩⟩

theorem vfexpo (a d : BitVec 7) : Statement (.vfexpo a d) := by
  intro n_ w_ h_; cases h_; have := a.isLt; have := d.isLt; simp only [pack]; exact ⟨by decide, by omega, ⟨fun _ => by trivial, fun _ => by omega⟩⟩

theorem vfcmp (x : Bool) (b a : BitVec 7) (k : BitVec 4) (m : BitVec 3) : Statement (.vfcmp x b a k m) := by
  intro n_ w_ h_; cases h_; have := bool_lt x; have := b.isLt; have := a.isLt; have := k.isLt; have := m.isLt; simp only [pack]; exact ⟨by decide, by omega, ⟨fun _ => by trivial, fun _ => by omega⟩⟩

theorem vpfadd (x : Bool) (b a d : BitVec 7) : Statement (.vpfadd x b a d) := by
  intro n_ w_ h_; cases h_; have := bool_lt x; have := b.isLt; have := a.isLt; have := d.isLt; simp only [pack]; exact ⟨by decide, by omega, ⟨fun _ => by trivial, fun _ => by omega⟩⟩

theorem vpfmul (x : Bool) (b a d : BitVec 7) : Statement (.vpfmul x b a d) := by
  intro n_ w_ h_; cases h_; have := bool_lt x; have := b.isLt; have := a.isLt; have := d.isLt; simp only [pack]; exact ⟨by decide, by omega, ⟨fun _ => by trivial, fun _ => by omega⟩⟩

theorem vpfma (x : Bool) (b a d : BitVec 7) : Statement (.vpfma x b a d) := by
  intro n_ w_ h_; cases h_; have := bool_lt x; have := b.isLt; have := a.isLt; have := d.isLt; simp only [pack]; exact ⟨by decide, by omega, ⟨fun _ => by trivial, fun _ => by omega⟩⟩

theorem vhaddBf16 (x : Bool) (b a d : BitVec 7) : Statement (.vhaddBf16 x b a d) := by
  intro n_ w_ h_; cases h_; have := bool_lt x; have := b.isLt; have := a.isLt; have := d.isLt; simp only [pack]; exact ⟨by decide, by omega, ⟨fun _ => by trivial, fun _ => by omega⟩⟩

theorem vhmulBf16 (x : Bool) (b a d : BitVec 7) : Statement (.vhmulBf16 x b a d) := by
  intro n_ w_ h_; cases h_; have := bool_lt x; have := b.isLt; have := a.isLt; have := d.isLt; simp only [pack]; exact ⟨by decide, by omega, ⟨fun _ => by trivial, fun _ => by omega⟩⟩

theorem vhfmaBf16 (x : Bool) (b a d : BitVec 7) : Statement (.vhfmaBf16 x b a d) := by
  intro n_ w_ h_; cases h_; have := bool_lt x; have := b.isLt; have := a.isLt; have := d.isLt; simp only [pack]; exact ⟨by decide, by omega, ⟨fun _ => by trivial, fun _ => by omega⟩⟩

theorem vhaddF16 (x : Bool) (b a d : BitVec 7) : Statement (.vhaddF16 x b a d) := by
  intro n_ w_ h_; cases h_; have := bool_lt x; have := b.isLt; have := a.isLt; have := d.isLt; simp only [pack]; exact ⟨by decide, by omega, ⟨fun _ => by trivial, fun _ => by omega⟩⟩

theorem vhmulF16 (x : Bool) (b a d : BitVec 7) : Statement (.vhmulF16 x b a d) := by
  intro n_ w_ h_; cases h_; have := bool_lt x; have := b.isLt; have := a.isLt; have := d.isLt; simp only [pack]; exact ⟨by decide, by omega, ⟨fun _ => by trivial, fun _ => by omega⟩⟩

theorem vhfmaF16 (x : Bool) (b a d : BitVec 7) : Statement (.vhfmaF16 x b a d) := by
  intro n_ w_ h_; cases h_; have := bool_lt x; have := b.isLt; have := a.isLt; have := d.isLt; simp only [pack]; exact ⟨by decide, by omega, ⟨fun _ => by trivial, fun _ => by omega⟩⟩

theorem vdadd (x : Bool) (b a d : BitVec 7) : Statement (.vdadd x b a d) := by
  intro n_ w_ h_; cases h_; have := bool_lt x; have := b.isLt; have := a.isLt; have := d.isLt; simp only [pack]; exact ⟨by decide, by omega, ⟨fun _ => by trivial, fun _ => by omega⟩⟩

theorem vdmul (x : Bool) (b a d : BitVec 7) : Statement (.vdmul x b a d) := by
  intro n_ w_ h_; cases h_; have := bool_lt x; have := b.isLt; have := a.isLt; have := d.isLt; simp only [pack]; exact ⟨by decide, by omega, ⟨fun _ => by trivial, fun _ => by omega⟩⟩

theorem vdfma (x : Bool) (b a d : BitVec 7) : Statement (.vdfma x b a d) := by
  intro n_ w_ h_; cases h_; have := bool_lt x; have := b.isLt; have := a.isLt; have := d.isLt; simp only [pack]; exact ⟨by decide, by omega, ⟨fun _ => by trivial, fun _ => by omega⟩⟩

theorem vdmin (x : Bool) (b a d : BitVec 7) : Statement (.vdmin x b a d) := by
  intro n_ w_ h_; cases h_; have := bool_lt x; have := b.isLt; have := a.isLt; have := d.isLt; simp only [pack]; exact ⟨by decide, by omega, ⟨fun _ => by trivial, fun _ => by omega⟩⟩

theorem vdmax (x : Bool) (b a d : BitVec 7) : Statement (.vdmax x b a d) := by
  intro n_ w_ h_; cases h_; have := bool_lt x; have := b.isLt; have := a.isLt; have := d.isLt; simp only [pack]; exact ⟨by decide, by omega, ⟨fun _ => by trivial, fun _ => by omega⟩⟩

theorem vrcp (a d : BitVec 7) : Statement (.vrcp a d) := by
  intro n_ w_ h_; cases h_; have := a.isLt; have := d.isLt; simp only [pack]; exact ⟨by decide, by omega, ⟨fun _ => by trivial, fun _ => by omega⟩⟩

theorem vrsqrt (a d : BitVec 7) : Statement (.vrsqrt a d) := by
  intro n_ w_ h_; cases h_; have := a.isLt; have := d.isLt; simp only [pack]; exact ⟨by decide, by omega, ⟨fun _ => by trivial, fun _ => by omega⟩⟩

theorem vsqrt (a d : BitVec 7) : Statement (.vsqrt a d) := by
  intro n_ w_ h_; cases h_; have := a.isLt; have := d.isLt; simp only [pack]; exact ⟨by decide, by omega, ⟨fun _ => by trivial, fun _ => by omega⟩⟩

theorem vexp2 (a d : BitVec 7) : Statement (.vexp2 a d) := by
  intro n_ w_ h_; cases h_; have := a.isLt; have := d.isLt; simp only [pack]; exact ⟨by decide, by omega, ⟨fun _ => by trivial, fun _ => by omega⟩⟩

theorem vlog2 (a d : BitVec 7) : Statement (.vlog2 a d) := by
  intro n_ w_ h_; cases h_; have := a.isLt; have := d.isLt; simp only [pack]; exact ⟨by decide, by omega, ⟨fun _ => by trivial, fun _ => by omega⟩⟩

theorem vsin (a d : BitVec 7) : Statement (.vsin a d) := by
  intro n_ w_ h_; cases h_; have := a.isLt; have := d.isLt; simp only [pack]; exact ⟨by decide, by omega, ⟨fun _ => by trivial, fun _ => by omega⟩⟩

theorem vcos (a d : BitVec 7) : Statement (.vcos a d) := by
  intro n_ w_ h_; cases h_; have := a.isLt; have := d.isLt; simp only [pack]; exact ⟨by decide, by omega, ⟨fun _ => by trivial, fun _ => by omega⟩⟩

theorem vtanh (a d : BitVec 7) : Statement (.vtanh a d) := by
  intro n_ w_ h_; cases h_; have := a.isLt; have := d.isLt; simp only [pack]; exact ⟨by decide, by omega, ⟨fun _ => by trivial, fun _ => by omega⟩⟩

theorem vsigm (a d : BitVec 7) : Statement (.vsigm a d) := by
  intro n_ w_ h_; cases h_; have := a.isLt; have := d.isLt; simp only [pack]; exact ⟨by decide, by omega, ⟨fun _ => by trivial, fun _ => by omega⟩⟩

theorem vfdivs (x : Bool) (b a d : BitVec 7) : Statement (.vfdivs x b a d) := by
  intro n_ w_ h_; cases h_; have := bool_lt x; have := b.isLt; have := a.isLt; have := d.isLt; simp only [pack]; exact ⟨by decide, by omega, ⟨fun _ => by trivial, fun _ => by omega⟩⟩

theorem vfdivx (x : Bool) (b a d : BitVec 7) : Statement (.vfdivx x b a d) := by
  intro n_ w_ h_; cases h_; have := bool_lt x; have := b.isLt; have := a.isLt; have := d.isLt; simp only [pack]; exact ⟨by decide, by omega, ⟨fun _ => by trivial, fun _ => by omega⟩⟩

theorem vcvt (r : BitVec 3) (p a d : BitVec 7) : Statement (.vcvt r p a d) := by
  intro n_ w_ h_; cases h_; have := r.isLt; have := p.isLt; have := a.isLt; have := d.isLt; simp only [pack]; exact ⟨by decide, by omega, ⟨fun _ => by trivial, fun _ => by omega⟩⟩

theorem vqntE4m3 (s : BitVec 6) (a d : BitVec 7) : Statement (.vqntE4m3 s a d) := by
  intro n_ w_ h_; cases h_; have := s.isLt; have := a.isLt; have := d.isLt; simp only [pack]; exact ⟨by decide, by omega, ⟨fun _ => by trivial, fun _ => by omega⟩⟩

theorem vqntE5m2 (s : BitVec 6) (a d : BitVec 7) : Statement (.vqntE5m2 s a d) := by
  intro n_ w_ h_; cases h_; have := s.isLt; have := a.isLt; have := d.isLt; simp only [pack]; exact ⟨by decide, by omega, ⟨fun _ => by trivial, fun _ => by omega⟩⟩

theorem vqntE2m1 (s : BitVec 6) (a d : BitVec 7) : Statement (.vqntE2m1 s a d) := by
  intro n_ w_ h_; cases h_; have := s.isLt; have := a.isLt; have := d.isLt; simp only [pack]; exact ⟨by decide, by omega, ⟨fun _ => by trivial, fun _ => by omega⟩⟩

theorem vqntLg6 (s : BitVec 6) (a d : BitVec 7) : Statement (.vqntLg6 s a d) := by
  intro n_ w_ h_; cases h_; have := s.isLt; have := a.isLt; have := d.isLt; simp only [pack]; exact ⟨by decide, by omega, ⟨fun _ => by trivial, fun _ => by omega⟩⟩

theorem vqntI8 (s : BitVec 6) (a d : BitVec 7) : Statement (.vqntI8 s a d) := by
  intro n_ w_ h_; cases h_; have := s.isLt; have := a.isLt; have := d.isLt; simp only [pack]; exact ⟨by decide, by omega, ⟨fun _ => by trivial, fun _ => by omega⟩⟩

theorem vdqnt (s : BitVec 6) (a d : BitVec 7) : Statement (.vdqnt s a d) := by
  intro n_ w_ h_; cases h_; have := s.isLt; have := a.isLt; have := d.isLt; simp only [pack]; exact ⟨by decide, by omega, ⟨fun _ => by trivial, fun _ => by omega⟩⟩

theorem vpack (w : BitVec 2) (a d : BitVec 7) : Statement (.vpack w a d) := by
  intro n_ w_ h_; cases h_; have := w.isLt; have := a.isLt; have := d.isLt; simp only [pack]; exact ⟨by decide, by omega, ⟨fun _ => by trivial, fun _ => by omega⟩⟩

theorem vunpack (w : BitVec 2) (a d : BitVec 7) : Statement (.vunpack w a d) := by
  intro n_ w_ h_; cases h_; have := w.isLt; have := a.isLt; have := d.isLt; simp only [pack]; exact ⟨by decide, by omega, ⟨fun _ => by trivial, fun _ => by omega⟩⟩

theorem vrandB32 (s : BitVec 6) (a d : BitVec 7) : Statement (.vrandB32 s a d) := by
  intro n_ w_ h_; cases h_; have := s.isLt; have := a.isLt; have := d.isLt; simp only [pack]; exact ⟨by decide, by omega, ⟨fun _ => by trivial, fun _ => by omega⟩⟩

theorem vrandF32 (s : BitVec 6) (a d : BitVec 7) : Statement (.vrandF32 s a d) := by
  intro n_ w_ h_; cases h_; have := s.isLt; have := a.isLt; have := d.isLt; simp only [pack]; exact ⟨by decide, by omega, ⟨fun _ => by trivial, fun _ => by omega⟩⟩

theorem vnblRing (a d : BitVec 7) : Statement (.vnblRing a d) := by
  intro n_ w_ h_; cases h_; have := a.isLt; have := d.isLt; simp only [pack]; exact ⟨by decide, by omega, ⟨fun _ => by trivial, fun _ => by omega⟩⟩

theorem vnbrRing (a d : BitVec 7) : Statement (.vnbrRing a d) := by
  intro n_ w_ h_; cases h_; have := a.isLt; have := d.isLt; simp only [pack]; exact ⟨by decide, by omega, ⟨fun _ => by trivial, fun _ => by omega⟩⟩

theorem vnblEdge (w : Bool) (a d : BitVec 7) : Statement (.vnblEdge w a d) := by
  intro n_ w_ h_; cases h_; have := bool_lt w; have := a.isLt; have := d.isLt; simp only [pack]; exact ⟨by decide, by omega, ⟨fun _ => by trivial, fun _ => by omega⟩⟩

theorem vnbrEdge (w : Bool) (a d : BitVec 7) : Statement (.vnbrEdge w a d) := by
  intro n_ w_ h_; cases h_; have := bool_lt w; have := a.isLt; have := d.isLt; simp only [pack]; exact ⟨by decide, by omega, ⟨fun _ => by trivial, fun _ => by omega⟩⟩

theorem vshuf (x : Bool) (b a d : BitVec 7) : Statement (.vshuf x b a d) := by
  intro n_ w_ h_; cases h_; have := bool_lt x; have := b.isLt; have := a.isLt; have := d.isLt; simp only [pack]; exact ⟨by decide, by omega, ⟨fun _ => by trivial, fun _ => by omega⟩⟩

theorem vbcastImm (n : BitVec 5) (a d : BitVec 7) : Statement (.vbcastImm n a d) := by
  intro n_ w_ h_; cases h_; have := n.isLt; have := a.isLt; have := d.isLt; simp only [pack]; exact ⟨by decide, by omega, ⟨fun _ => by trivial, fun _ => by omega⟩⟩

theorem vbcastScalar (s : BitVec 6) (a d : BitVec 7) : Statement (.vbcastScalar s a d) := by
  intro n_ w_ h_; cases h_; have := s.isLt; have := a.isLt; have := d.isLt; simp only [pack]; exact ⟨by decide, by omega, ⟨fun _ => by trivial, fun _ => by omega⟩⟩

theorem vred (o a d : BitVec 7) : Statement (.vred o a d) := by
  intro n_ w_ h_; cases h_; have := o.isLt; have := a.isLt; have := d.isLt; simp only [pack]; exact ⟨by decide, by omega, ⟨fun _ => by trivial, fun _ => by omega⟩⟩

theorem vscanIncl (o a d : BitVec 7) : Statement (.vscanIncl o a d) := by
  intro n_ w_ h_; cases h_; have := o.isLt; have := a.isLt; have := d.isLt; simp only [pack]; exact ⟨by decide, by omega, ⟨fun _ => by trivial, fun _ => by omega⟩⟩

theorem vscanExcl (o a d : BitVec 7) : Statement (.vscanExcl o a d) := by
  intro n_ w_ h_; cases h_; have := o.isLt; have := a.isLt; have := d.isLt; simp only [pack]; exact ⟨by decide, by omega, ⟨fun _ => by trivial, fun _ => by omega⟩⟩

theorem vvoteBallot (a : BitVec 7) (s : BitVec 6) : Statement (.vvoteBallot a s) := by
  intro n_ w_ h_; cases h_; have := a.isLt; have := s.isLt; simp only [pack]; exact ⟨by decide, by omega, ⟨fun _ => by trivial, fun _ => by omega⟩⟩

theorem vvoteEq (a : BitVec 7) (s : BitVec 6) : Statement (.vvoteEq a s) := by
  intro n_ w_ h_; cases h_; have := a.isLt; have := s.isLt; simp only [pack]; exact ⟨by decide, by omega, ⟨fun _ => by trivial, fun _ => by omega⟩⟩

theorem xsend (p : BitVec 6) (n : BitVec 2) (s : BitVec 4) (a : BitVec 6) : Statement (.xsend p n s a) := by
  intro n_ w_ h_; cases h_; have := p.isLt; have := n.isLt; have := s.isLt; have := a.isLt; simp only [pack]; exact ⟨by decide, by omega, ⟨fun _ => by trivial, fun _ => by omega⟩⟩

theorem xrecv (p : BitVec 6) (n : BitVec 2) (s : BitVec 4) (d : BitVec 6) : Statement (.xrecv p n s d) := by
  intro n_ w_ h_; cases h_; have := p.isLt; have := n.isLt; have := s.isLt; have := d.isLt; simp only [pack]; exact ⟨by decide, by omega, ⟨fun _ => by trivial, fun _ => by omega⟩⟩

theorem xedge (w : Bool) (a : BitVec 6) : Statement (.xedge w a) := by
  intro n_ w_ h_; cases h_; have := bool_lt w; have := a.isLt; simp only [pack]; exact ⟨by decide, by omega, ⟨fun _ => by trivial, fun _ => by omega⟩⟩

theorem ld (x : Bool) (s : BitVec 3) (m : Bool) (o : BitVec 7) (b : BitVec 6) (t : BitVec 7) : Statement (.ld x s m o b t) := by
  intro n_ w_ h_; cases h_; have := bool_lt x; have := s.isLt; have := bool_lt m; have := o.isLt; have := b.isLt; have := t.isLt; simp only [pack]; exact ⟨by decide, by omega, ⟨fun _ => by trivial, fun _ => by omega⟩⟩

theorem st (x : Bool) (s : BitVec 3) (m : Bool) (o : BitVec 7) (b : BitVec 6) (t : BitVec 7) : Statement (.st x s m o b t) := by
  intro n_ w_ h_; cases h_; have := bool_lt x; have := s.isLt; have := bool_lt m; have := o.isLt; have := b.isLt; have := t.isLt; simp only [pack]; exact ⟨by decide, by omega, ⟨fun _ => by trivial, fun _ => by omega⟩⟩

theorem lds (i : BitVec 13) (b d : BitVec 6) : Statement (.lds i b d) := by
  intro n_ w_ h_; cases h_; have := i.isLt; have := b.isLt; have := d.isLt; simp only [pack]; exact ⟨by decide, by omega, ⟨fun _ => by trivial, fun _ => by omega⟩⟩

theorem sts (i : BitVec 13) (b t : BitVec 6) : Statement (.sts i b t) := by
  intro n_ w_ h_; cases h_; have := i.isLt; have := b.isLt; have := t.isLt; simp only [pack]; exact ⟨by decide, by omega, ⟨fun _ => by trivial, fun _ => by omega⟩⟩

theorem ldacq (z : Bool) (s : BitVec 3) (o : BitVec 7) (b : BitVec 6) (t : BitVec 7) : Statement (.ldacq z s o b t) := by
  intro n_ w_ h_; cases h_; have := bool_lt z; have := s.isLt; have := o.isLt; have := b.isLt; have := t.isLt; simp only [pack]; exact ⟨by decide, by omega, ⟨fun _ => by trivial, fun _ => by omega⟩⟩

theorem strel (z : Bool) (s : BitVec 3) (o : BitVec 7) (b : BitVec 6) (t : BitVec 7) : Statement (.strel z s o b t) := by
  intro n_ w_ h_; cases h_; have := bool_lt z; have := s.isLt; have := o.isLt; have := b.isLt; have := t.isLt; simp only [pack]; exact ⟨by decide, by omega, ⟨fun _ => by trivial, fun _ => by omega⟩⟩

theorem pref (l x : Bool) (o : BitVec 7) (b : BitVec 6) : Statement (.pref l x o b) := by
  intro n_ w_ h_; cases h_; have := bool_lt l; have := bool_lt x; have := o.isLt; have := b.isLt; simp only [pack]; exact ⟨by decide, by omega, ⟨fun _ => by trivial, fun _ => by omega⟩⟩

theorem cflush (l x : Bool) (o : BitVec 7) (b : BitVec 6) : Statement (.cflush l x o b) := by
  intro n_ w_ h_; cases h_; have := bool_lt l; have := bool_lt x; have := o.isLt; have := b.isLt; simp only [pack]; exact ⟨by decide, by omega, ⟨fun _ => by trivial, fun _ => by omega⟩⟩

theorem cinv (l x : Bool) (o : BitVec 7) (b : BitVec 6) : Statement (.cinv l x o b) := by
  intro n_ w_ h_; cases h_; have := bool_lt l; have := bool_lt x; have := o.isLt; have := b.isLt; simp only [pack]; exact ⟨by decide, by omega, ⟨fun _ => by trivial, fun _ => by omega⟩⟩

theorem landr (d : BitVec 6) : Statement (.landr d) := by
  intro n_ w_ h_; cases h_; have := d.isLt; simp only [pack]; exact ⟨by decide, by omega, ⟨fun _ => by trivial, fun _ => by omega⟩⟩

theorem unmapv (b a : BitVec 6) : Statement (.unmapv b a) := by
  intro n_ w_ h_; cases h_; have := b.isLt; have := a.isLt; simp only [pack]; exact ⟨by decide, by omega, ⟨fun _ => by trivial, fun _ => by omega⟩⟩

theorem unmapvDiscard (b a : BitVec 6) : Statement (.unmapvDiscard b a) := by
  intro n_ w_ h_; cases h_; have := b.isLt; have := a.isLt; simp only [pack]; exact ⟨by decide, by omega, ⟨fun _ => by trivial, fun _ => by omega⟩⟩

theorem unmapvRights (b a : BitVec 6) : Statement (.unmapvRights b a) := by
  intro n_ w_ h_; cases h_; have := b.isLt; have := a.isLt; simp only [pack]; exact ⟨by decide, by omega, ⟨fun _ => by trivial, fun _ => by omega⟩⟩

theorem fenceAcq (s : BitVec 3) : Statement (.fenceAcq s) := by
  intro n_ w_ h_; cases h_; have := s.isLt; simp only [pack]; exact ⟨by decide, by omega, ⟨fun _ => by trivial, fun _ => by omega⟩⟩

theorem fenceRel (s : BitVec 3) : Statement (.fenceRel s) := by
  intro n_ w_ h_; cases h_; have := s.isLt; simp only [pack]; exact ⟨by decide, by omega, ⟨fun _ => by trivial, fun _ => by omega⟩⟩

theorem fenceFull (s : BitVec 3) : Statement (.fenceFull s) := by
  intro n_ w_ h_; cases h_; have := s.isLt; simp only [pack]; exact ⟨by decide, by omega, ⟨fun _ => by trivial, fun _ => by omega⟩⟩

theorem tcfence : Statement (.tcfence) := by
  intro n_ w_ h_; cases h_; decide

theorem bar (s : BitVec 6) : Statement (.bar s) := by
  intro n_ w_ h_; cases h_; have := s.isLt; simp only [pack]; exact ⟨by decide, by omega, ⟨fun _ => by trivial, fun _ => by omega⟩⟩

theorem bara (s : BitVec 6) : Statement (.bara s) := by
  intro n_ w_ h_; cases h_; have := s.isLt; simp only [pack]; exact ⟨by decide, by omega, ⟨fun _ => by trivial, fun _ => by omega⟩⟩

theorem barw (s : BitVec 6) : Statement (.barw s) := by
  intro n_ w_ h_; cases h_; have := s.isLt; simp only [pack]; exact ⟨by decide, by omega, ⟨fun _ => by trivial, fun _ => by omega⟩⟩

theorem mbinit (b a : BitVec 6) : Statement (.mbinit b a) := by
  intro n_ w_ h_; cases h_; have := b.isLt; have := a.isLt; simp only [pack]; exact ⟨by decide, by omega, ⟨fun _ => by trivial, fun _ => by omega⟩⟩

theorem mbexp (b a : BitVec 6) : Statement (.mbexp b a) := by
  intro n_ w_ h_; cases h_; have := b.isLt; have := a.isLt; simp only [pack]; exact ⟨by decide, by omega, ⟨fun _ => by trivial, fun _ => by omega⟩⟩

theorem mbarr (b d : BitVec 6) : Statement (.mbarr b d) := by
  intro n_ w_ h_; cases h_; have := b.isLt; have := d.isLt; simp only [pack]; exact ⟨by decide, by omega, ⟨fun _ => by trivial, fun _ => by omega⟩⟩

theorem mbwait (b a : BitVec 6) : Statement (.mbwait b a) := by
  intro n_ w_ h_; cases h_; have := b.isLt; have := a.isLt; simp only [pack]; exact ⟨by decide, by omega, ⟨fun _ => by trivial, fun _ => by omega⟩⟩

theorem mon (a : BitVec 6) : Statement (.mon a) := by
  intro n_ w_ h_; cases h_; have := a.isLt; simp only [pack]; exact ⟨by decide, by omega, ⟨fun _ => by trivial, fun _ => by omega⟩⟩

theorem mwait (b d : BitVec 6) : Statement (.mwait b d) := by
  intro n_ w_ h_; cases h_; have := b.isLt; have := d.isLt; simp only [pack]; exact ⟨by decide, by omega, ⟨fun _ => by trivial, fun _ => by omega⟩⟩

theorem waitcLd (b : BitVec 6) : Statement (.waitcLd b) := by
  intro n_ w_ h_; cases h_; have := b.isLt; simp only [pack]; exact ⟨by decide, by omega, ⟨fun _ => by trivial, fun _ => by omega⟩⟩

theorem waitcSt (b : BitVec 6) : Statement (.waitcSt b) := by
  intro n_ w_ h_; cases h_; have := b.isLt; simp only [pack]; exact ⟨by decide, by omega, ⟨fun _ => by trivial, fun _ => by omega⟩⟩

theorem waitcWh (b : BitVec 6) : Statement (.waitcWh b) := by
  intro n_ w_ h_; cases h_; have := b.isLt; simp only [pack]; exact ⟨by decide, by omega, ⟨fun _ => by trivial, fun _ => by omega⟩⟩

theorem waitcAn (b : BitVec 6) : Statement (.waitcAn b) := by
  intro n_ w_ h_; cases h_; have := b.isLt; simp only [pack]; exact ⟨by decide, by omega, ⟨fun _ => by trivial, fun _ => by omega⟩⟩

theorem waitcRa (b : BitVec 6) : Statement (.waitcRa b) := by
  intro n_ w_ h_; cases h_; have := b.isLt; simp only [pack]; exact ⟨by decide, by omega, ⟨fun _ => by trivial, fun _ => by omega⟩⟩

theorem waitcFe (b : BitVec 6) : Statement (.waitcFe b) := by
  intro n_ w_ h_; cases h_; have := b.isLt; simp only [pack]; exact ⟨by decide, by omega, ⟨fun _ => by trivial, fun _ => by omega⟩⟩

theorem atom (o : BitVec 5) (v : BitVec 7) (b : BitVec 6) (t : BitVec 7) : Statement (.atom o v b t) := by
  intro n_ w_ h_; cases h_; have := o.isLt; have := v.isLt; have := b.isLt; have := t.isLt; simp only [pack]; exact ⟨by decide, by omega, ⟨fun _ => by trivial, fun _ => by omega⟩⟩

theorem red (o : BitVec 5) (v : BitVec 7) (b : BitVec 6) (t : BitVec 7) : Statement (.red o v b t) := by
  intro n_ w_ h_; cases h_; have := o.isLt; have := v.isLt; have := b.isLt; have := t.isLt; simp only [pack]; exact ⟨by decide, by omega, ⟨fun _ => by trivial, fun _ => by omega⟩⟩

theorem xat (x : Bool) (o : BitVec 3) (b a d : BitVec 7) : Statement (.xat x o b a d) := by
  intro n_ w_ h_; cases h_; have := bool_lt x; have := o.isLt; have := b.isLt; have := a.isLt; have := d.isLt; simp only [pack]; exact ⟨by decide, by omega, ⟨fun _ => by trivial, fun _ => by omega⟩⟩

theorem xred (x : Bool) (o : BitVec 3) (b a d : BitVec 7) : Statement (.xred x o b a d) := by
  intro n_ w_ h_; cases h_; have := bool_lt x; have := o.isLt; have := b.isLt; have := a.isLt; have := d.isLt; simp only [pack]; exact ⟨by decide, by omega, ⟨fun _ => by trivial, fun _ => by omega⟩⟩

theorem wcopy (r : BitVec 6) (s d : BitVec 3) : Statement (.wcopy r s d) := by
  intro n_ w_ h_; cases h_; have := r.isLt; have := s.isLt; have := d.isLt; simp only [pack]; exact ⟨by decide, by omega, ⟨fun _ => by trivial, fun _ => by omega⟩⟩

theorem wcopyStream (r : BitVec 6) (s d : BitVec 3) : Statement (.wcopyStream r s d) := by
  intro n_ w_ h_; cases h_; have := r.isLt; have := s.isLt; have := d.isLt; simp only [pack]; exact ⟨by decide, by omega, ⟨fun _ => by trivial, fun _ => by omega⟩⟩

theorem wgather (r : BitVec 6) (i s d : BitVec 3) : Statement (.wgather r i s d) := by
  intro n_ w_ h_; cases h_; have := r.isLt; have := i.isLt; have := s.isLt; have := d.isLt; simp only [pack]; exact ⟨by decide, by omega, ⟨fun _ => by trivial, fun _ => by omega⟩⟩

theorem wscatter (r : BitVec 6) (i s d : BitVec 3) : Statement (.wscatter r i s d) := by
  intro n_ w_ h_; cases h_; have := r.isLt; have := i.isLt; have := s.isLt; have := d.isLt; simp only [pack]; exact ⟨by decide, by omega, ⟨fun _ => by trivial, fun _ => by omega⟩⟩

theorem wfill (r v : BitVec 6) (d : BitVec 3) : Statement (.wfill r v d) := by
  intro n_ w_ h_; cases h_; have := r.isLt; have := v.isLt; have := d.isLt; simp only [pack]; exact ⟨by decide, by omega, ⟨fun _ => by trivial, fun _ => by omega⟩⟩

theorem wcomp (r : BitVec 6) (s : BitVec 3) (a : BitVec 6) : Statement (.wcomp r s a) := by
  intro n_ w_ h_; cases h_; have := r.isLt; have := s.isLt; have := a.isLt; simp only [pack]; exact ⟨by decide, by omega, ⟨fun _ => by trivial, fun _ => by omega⟩⟩

theorem wdcomp (r a : BitVec 6) (d : BitVec 3) : Statement (.wdcomp r a d) := by
  intro n_ w_ h_; cases h_; have := r.isLt; have := a.isLt; have := d.isLt; simp only [pack]; exact ⟨by decide, by omega, ⟨fun _ => by trivial, fun _ => by omega⟩⟩

theorem wloado (ro : Bool) (n : BitVec 7) (r : BitVec 6) (s : BitVec 3) : Statement (.wloado ro n r s) := by
  intro n_ w_ h_; cases h_; have := bool_lt ro; have := n.isLt; have := r.isLt; have := s.isLt; simp only [pack]; exact ⟨by decide, by omega, ⟨fun _ => by trivial, fun _ => by omega⟩⟩

theorem wstat (b d : BitVec 6) : Statement (.wstat b d) := by
  intro n_ w_ h_; cases h_; have := b.isLt; have := d.isLt; simp only [pack]; exact ⟨by decide, by omega, ⟨fun _ => by trivial, fun _ => by omega⟩⟩

theorem wcancel (b : BitVec 6) : Statement (.wcancel b) := by
  intro n_ w_ h_; cases h_; have := b.isLt; simp only [pack]; exact ⟨by decide, by omega, ⟨fun _ => by trivial, fun _ => by omega⟩⟩

theorem frs (r a : BitVec 6) : Statement (.frs r a) := by
  intro n_ w_ h_; cases h_; have := r.isLt; have := a.isLt; simp only [pack]; exact ⟨by decide, by omega, ⟨fun _ => by trivial, fun _ => by omega⟩⟩

theorem fag (r a : BitVec 6) : Statement (.fag r a) := by
  intro n_ w_ h_; cases h_; have := r.isLt; have := a.isLt; simp only [pack]; exact ⟨by decide, by omega, ⟨fun _ => by trivial, fun _ => by omega⟩⟩

theorem far (r a : BitVec 6) : Statement (.far r a) := by
  intro n_ w_ h_; cases h_; have := r.isLt; have := a.isLt; simp only [pack]; exact ⟨by decide, by omega, ⟨fun _ => by trivial, fun _ => by omega⟩⟩

theorem fa2a (r a : BitVec 6) : Statement (.fa2a r a) := by
  intro n_ w_ h_; cases h_; have := r.isLt; have := a.isLt; simp only [pack]; exact ⟨by decide, by omega, ⟨fun _ => by trivial, fun _ => by omega⟩⟩

theorem fbc (r a : BitVec 6) : Statement (.fbc r a) := by
  intro n_ w_ h_; cases h_; have := r.isLt; have := a.isLt; simp only [pack]; exact ⟨by decide, by omega, ⟨fun _ => by trivial, fun _ => by omega⟩⟩

theorem fupd (r b a : BitVec 6) : Statement (.fupd r b a) := by
  intro n_ w_ h_; cases h_; have := r.isLt; have := b.isLt; have := a.isLt; simp only [pack]; exact ⟨by decide, by omega, ⟨fun _ => by trivial, fun _ => by omega⟩⟩

theorem fshard (a : BitVec 6) : Statement (.fshard a) := by
  intro n_ w_ h_; cases h_; have := a.isLt; simp only [pack]; exact ⟨by decide, by omega, ⟨fun _ => by trivial, fun _ => by omega⟩⟩

theorem oclaim (c b d : BitVec 6) : Statement (.oclaim c b d) := by
  intro n_ w_ h_; cases h_; have := c.isLt; have := b.isLt; have := d.isLt; simp only [pack]; exact ⟨by decide, by omega, ⟨fun _ => by trivial, fun _ => by omega⟩⟩

theorem orel (c b : BitVec 6) : Statement (.orel c b) := by
  intro n_ w_ h_; cases h_; have := c.isLt; have := b.isLt; simp only [pack]; exact ⟨by decide, by omega, ⟨fun _ => by trivial, fun _ => by omega⟩⟩

theorem oput (n : BitVec 3) (b a : BitVec 6) : Statement (.oput n b a) := by
  intro n_ w_ h_; cases h_; have := n.isLt; have := b.isLt; have := a.isLt; simp only [pack]; exact ⟨by decide, by omega, ⟨fun _ => by trivial, fun _ => by omega⟩⟩

theorem oget (n : BitVec 3) (b d : BitVec 6) : Statement (.oget n b d) := by
  intro n_ w_ h_; cases h_; have := n.isLt; have := b.isLt; have := d.isLt; simp only [pack]; exact ⟨by decide, by omega, ⟨fun _ => by trivial, fun _ => by omega⟩⟩

theorem aclaim (c b d : BitVec 6) : Statement (.aclaim c b d) := by
  intro n_ w_ h_; cases h_; have := c.isLt; have := b.isLt; have := d.isLt; simp only [pack]; exact ⟨by decide, by omega, ⟨fun _ => by trivial, fun _ => by omega⟩⟩

theorem arel (c b : BitVec 6) : Statement (.arel c b) := by
  intro n_ w_ h_; cases h_; have := c.isLt; have := b.isLt; simp only [pack]; exact ⟨by decide, by omega, ⟨fun _ => by trivial, fun _ => by omega⟩⟩

theorem mma (t : BitVec 5) (f m k : BitVec 6) : Statement (.mma t f m k) := by
  intro n_ w_ h_; cases h_; have := t.isLt; have := f.isLt; have := m.isLt; have := k.isLt; simp only [pack]; exact ⟨by decide, by omega, ⟨fun _ => by trivial, fun _ => by omega⟩⟩

theorem mmas (t : BitVec 5) (f m k : BitVec 6) : Statement (.mmas t f m k) := by
  intro n_ w_ h_; cases h_; have := t.isLt; have := f.isLt; have := m.isLt; have := k.isLt; simp only [pack]; exact ⟨by decide, by omega, ⟨fun _ => by trivial, fun _ => by omega⟩⟩

theorem afence (d : BitVec 6) : Statement (.afence d) := by
  intro n_ w_ h_; cases h_; have := d.isLt; simp only [pack]; exact ⟨by decide, by omega, ⟨fun _ => by trivial, fun _ => by omega⟩⟩

theorem azero (y : Bool) (t : BitVec 5) : Statement (.azero y t) := by
  intro n_ w_ h_; cases h_; have := bool_lt y; have := t.isLt; simp only [pack]; exact ⟨by decide, by omega, ⟨fun _ => by trivial, fun _ => by omega⟩⟩

theorem gangset (c : BitVec 6) : Statement (.gangset c) := by
  intro n_ w_ h_; cases h_; have := c.isLt; simp only [pack]; exact ⟨by decide, by omega, ⟨fun _ => by trivial, fun _ => by omega⟩⟩

theorem gangsetPair (c : BitVec 6) : Statement (.gangsetPair c) := by
  intro n_ w_ h_; cases h_; have := c.isLt; simp only [pack]; exact ⟨by decide, by omega, ⟨fun _ => by trivial, fun _ => by omega⟩⟩

theorem aguide (a : BitVec 6) : Statement (.aguide a) := by
  intro n_ w_ h_; cases h_; have := a.isLt; simp only [pack]; exact ⟨by decide, by omega, ⟨fun _ => by trivial, fun _ => by omega⟩⟩

theorem adrainV (t : BitVec 5) (b d : BitVec 6) : Statement (.adrainV t b d) := by
  intro n_ w_ h_; cases h_; have := t.isLt; have := b.isLt; have := d.isLt; simp only [pack]; exact ⟨by decide, by omega, ⟨fun _ => by trivial, fun _ => by omega⟩⟩

theorem adrainO (n : BitVec 5) (s : BitVec 6) (f b x : Bool) : Statement (.adrainO n s f b x) := by
  intro n_ w_ h_; cases h_; have := n.isLt; have := s.isLt; have := bool_lt f; have := bool_lt b; have := bool_lt x; simp only [pack]; exact ⟨by decide, by omega, ⟨fun _ => by trivial, fun _ => by omega⟩⟩

theorem adrainG (t : BitVec 5) : Statement (.adrainG t) := by
  intro n_ w_ h_; cases h_; have := t.isLt; simp only [pack]; exact ⟨by decide, by omega, ⟨fun _ => by trivial, fun _ => by omega⟩⟩

theorem astash (c : BitVec 2) (b : Bool) (f : BitVec 4) (r : BitVec 6) (q p : BitVec 3) (n : BitVec 5) : Statement (.astash c b f r q p n) := by
  intro n_ w_ h_; cases h_; have := c.isLt; have := bool_lt b; have := f.isLt; have := r.isLt; have := q.isLt; have := p.isLt; have := n.isLt; simp only [pack]; exact ⟨by decide, by omega, ⟨fun _ => by trivial, fun _ => by omega⟩⟩

theorem lnch (b d : BitVec 6) : Statement (.lnch b d) := by
  intro n_ w_ h_; cases h_; have := b.isLt; have := d.isLt; simp only [pack]; exact ⟨by decide, by omega, ⟨fun _ => by trivial, fun _ => by omega⟩⟩

theorem lnchTry (b d : BitVec 6) : Statement (.lnchTry b d) := by
  intro n_ w_ h_; cases h_; have := b.isLt; have := d.isLt; simp only [pack]; exact ⟨by decide, by omega, ⟨fun _ => by trivial, fun _ => by omega⟩⟩

theorem trig : Statement (.trig) := by
  intro n_ w_ h_; cases h_; decide

theorem rgrow (a : BitVec 6) : Statement (.rgrow a) := by
  intro n_ w_ h_; cases h_; have := a.isLt; simp only [pack]; exact ⟨by decide, by omega, ⟨fun _ => by trivial, fun _ => by omega⟩⟩

theorem rshrink (a : BitVec 6) : Statement (.rshrink a) := by
  intro n_ w_ h_; cases h_; have := a.isLt; simp only [pack]; exact ⟨by decide, by omega, ⟨fun _ => by trivial, fun _ => by omega⟩⟩

theorem prio (b a : BitVec 6) : Statement (.prio b a) := by
  intro n_ w_ h_; cases h_; have := b.isLt; have := a.isLt; simp only [pack]; exact ⟨by decide, by omega, ⟨fun _ => by trivial, fun _ => by omega⟩⟩

theorem cohort (b d : BitVec 6) : Statement (.cohort b d) := by
  intro n_ w_ h_; cases h_; have := b.isLt; have := d.isLt; simp only [pack]; exact ⟨by decide, by omega, ⟨fun _ => by trivial, fun _ => by omega⟩⟩

theorem cohortSelf (d : BitVec 6) : Statement (.cohortSelf d) := by
  intro n_ w_ h_; cases h_; have := d.isLt; simp only [pack]; exact ⟨by decide, by omega, ⟨fun _ => by trivial, fun _ => by omega⟩⟩

theorem trap (n : BitVec 12) : Statement (.trap n) := by
  intro n_ w_ h_; cases h_; have := n.isLt; simp only [pack]; exact ⟨by decide, by omega, ⟨fun _ => by trivial, fun _ => by omega⟩⟩

theorem rte : Statement (.rte) := by
  intro n_ w_ h_; cases h_; decide

theorem rteSkip : Statement (.rteSkip) := by
  intro n_ w_ h_; cases h_; decide

theorem rteR (a : BitVec 6) : Statement (.rteR a) := by
  intro n_ w_ h_; cases h_; have := a.isLt; simp only [pack]; exact ⟨by decide, by omega, ⟨fun _ => by trivial, fun _ => by omega⟩⟩

theorem bkpt (n : BitVec 12) : Statement (.bkpt n) := by
  intro n_ w_ h_; cases h_; have := n.isLt; simp only [pack]; exact ⟨by decide, by omega, ⟨fun _ => by trivial, fun _ => by omega⟩⟩

theorem trace (b a : BitVec 6) : Statement (.trace b a) := by
  intro n_ w_ h_; cases h_; have := b.isLt; have := a.isLt; simp only [pack]; exact ⟨by decide, by omega, ⟨fun _ => by trivial, fun _ => by omega⟩⟩

theorem halt : Statement (.halt) := by
  intro n_ w_ h_; cases h_; decide

theorem tstamp (d : BitVec 6) : Statement (.tstamp d) := by
  intro n_ w_ h_; cases h_; have := d.isLt; simp only [pack]; exact ⟨by decide, by omega, ⟨fun _ => by trivial, fun _ => by omega⟩⟩

theorem perf (b d : BitVec 6) : Statement (.perf b d) := by
  intro n_ w_ h_; cases h_; have := b.isLt; have := d.isLt; simp only [pack]; exact ⟨by decide, by omega, ⟨fun _ => by trivial, fun _ => by omega⟩⟩

theorem clauseWaitSatisfied (age entry : Nat) : Statement (.clauseWaitSatisfied age entry) := fun _ _ h_ => nomatch h_

theorem subcoreIssueCycle (core sub : Nat) : Statement (.subcoreIssueCycle core sub) := fun _ _ h_ => nomatch h_

theorem splitEntryHoldEvict (core sub : Nat) : Statement (.splitEntryHoldEvict core sub) := fun _ _ h_ => nomatch h_

theorem yieldPauseEnd (age entry : Nat) : Statement (.yieldPauseEnd age entry) := fun _ _ h_ => nomatch h_

theorem resultWriteback (op : Nat) : Statement (.resultWriteback op) := fun _ _ h_ => nomatch h_

theorem edgeLatchDeposit (age entry : Nat) : Statement (.edgeLatchDeposit age entry) := fun _ _ h_ => nomatch h_

theorem rendezvousTransfer (wg slot : Nat) : Statement (.rendezvousTransfer wg slot) := fun _ _ h_ => nomatch h_

theorem rightsWalkComplete (core ctx : Nat) (addr : BitVec 64) : Statement (.rightsWalkComplete core ctx addr) := fun _ _ h_ => nomatch h_

theorem translationWalk (ctx : Nat) (addr : BitVec 64) : Statement (.translationWalk ctx addr) := fun _ _ h_ => nomatch h_

theorem loadDataArrive (op : Nat) : Statement (.loadDataArrive op) := fun _ _ h_ => nomatch h_

theorem loadFaultPark (op : Nat) : Statement (.loadFaultPark op) := fun _ _ h_ => nomatch h_

theorem faultRecordRetry : Statement (.faultRecordRetry) := fun _ _ h_ => nomatch h_

theorem faultQueueRegWrite (off : Nat) (value : BitVec 64) : Statement (.faultQueueRegWrite off value) := fun _ _ h_ => nomatch h_

theorem faultrespResume (token : Nat) : Statement (.faultrespResume token) := fun _ _ h_ => nomatch h_

theorem faultrespDecline (token : Nat) : Statement (.faultrespDecline token) := fun _ _ h_ => nomatch h_

theorem landingProbeAnswer (core ctx : Nat) (page : BitVec 64) : Statement (.landingProbeAnswer core ctx page) := fun _ _ h_ => nomatch h_

theorem llcHbmWriteback (ctx : Nat) (line : BitVec 64) : Statement (.llcHbmWriteback ctx line) := fun _ _ h_ => nomatch h_

theorem shootdownStart : Statement (.shootdownStart) := fun _ _ h_ => nomatch h_

theorem shootdownDrainDone : Statement (.shootdownDrainDone) := fun _ _ h_ => nomatch h_

theorem shootdownMgtRequest (src : Nat) (base len : BitVec 64) (mode : Nat) : Statement (.shootdownMgtRequest src base len mode) := fun _ _ h_ => nomatch h_

theorem shootdownPackageAnswer (pkg : Nat) : Statement (.shootdownPackageAnswer pkg) := fun _ _ h_ => nomatch h_

theorem sdctlGo (value : BitVec 64) : Statement (.sdctlGo value) := fun _ _ h_ => nomatch h_

theorem releaseRecall (core entry : Nat) : Statement (.releaseRecall core entry) := fun _ _ h_ => nomatch h_

theorem recallAnswer (core entry : Nat) : Statement (.recallAnswer core entry) := fun _ _ h_ => nomatch h_

theorem watchFire (addr : BitVec 64) : Statement (.watchFire addr) := fun _ _ h_ => nomatch h_

theorem mwaitTimeout (age entry : Nat) : Statement (.mwaitTimeout age entry) := fun _ _ h_ => nomatch h_

theorem remoteAtomicRequest (req : RemoteRequest) : Statement (.remoteAtomicRequest req) := fun _ _ h_ => nomatch h_

theorem remoteAtomicAck (sub : Nat) (olds : List (Nat × BitVec 64)) (flags : BitVec 4) : Statement (.remoteAtomicAck sub olds flags) := fun _ _ h_ => nomatch h_

theorem remoteAtomicRnr (sub detail : Nat) : Statement (.remoteAtomicRnr sub detail) := fun _ _ h_ => nomatch h_

theorem remoteRetryTimer (sub : Nat) : Statement (.remoteRetryTimer sub) := fun _ _ h_ => nomatch h_

theorem wherryCommandStart (core : Nat) : Statement (.wherryCommandStart core) := fun _ _ h_ => nomatch h_

theorem wherryCountUpdate (cmd bytes : Nat) : Statement (.wherryCountUpdate cmd bytes) := fun _ _ h_ => nomatch h_

theorem wherryCommandComplete (cmd : Nat) : Statement (.wherryCommandComplete cmd) := fun _ _ h_ => nomatch h_

theorem engineXlateFault (cmd : Nat) : Statement (.engineXlateFault cmd) := fun _ _ h_ => nomatch h_

theorem wherryRemotePacket (src : Nat) (stream : Bool) (runs : List (BitVec 64 × List (BitVec 8))) : Statement (.wherryRemotePacket src stream runs) := fun _ _ h_ => nomatch h_

theorem ferryMatch (cmd : Nat) (partners : List FerryPartner) : Statement (.ferryMatch cmd partners) := fun _ _ h_ => nomatch h_

theorem ferryComplete (cmd : Nat) : Statement (.ferryComplete cmd) := fun _ _ h_ => nomatch h_

theorem claimZeroingDone (age entry : Nat) : Statement (.claimZeroingDone age entry) := fun _ _ h_ => nomatch h_

theorem objectRelease (core : Nat) (tile : Bool) (index : Nat) : Statement (.objectRelease core tile index) := fun _ _ h_ => nomatch h_

theorem gangLatchOpen (wg cohort : Nat) : Statement (.gangLatchOpen wg cohort) := fun _ _ h_ => nomatch h_

theorem arrayKStep (core : Nat) : Statement (.arrayKStep core) := fun _ _ h_ => nomatch h_

theorem arrayQueueEntry (age entry : Nat) : Statement (.arrayQueueEntry age entry) := fun _ _ h_ => nomatch h_

theorem batchComplete (age : Nat) : Statement (.batchComplete age) := fun _ _ h_ => nomatch h_

theorem guidedDrain (core : Nat) : Statement (.guidedDrain core) := fun _ _ h_ => nomatch h_

theorem rgrowGrant (core : Nat) : Statement (.rgrowGrant core) := fun _ _ h_ => nomatch h_

theorem rgrowStallEvict (core : Nat) : Statement (.rgrowStallEvict core) := fun _ _ h_ => nomatch h_

theorem launchPortWrite (port : CoreWrite) (off size : Nat) (value : BitVec 64) : Statement (.launchPortWrite port off size value) := fun _ _ h_ => nomatch h_

theorem queueReset (queue : Nat) : Statement (.queueReset queue) := fun _ _ h_ => nomatch h_

theorem queueResetComplete (queue : Nat) : Statement (.queueResetComplete queue) := fun _ _ h_ => nomatch h_

theorem qresWrite (queue : Nat) (value : BitVec 64) : Statement (.qresWrite queue value) := fun _ _ h_ => nomatch h_

theorem launchStart (queue : Nat) : Statement (.launchStart queue) := fun _ _ h_ => nomatch h_

theorem workgroupPlace (queue : Nat) : Statement (.workgroupPlace queue) := fun _ _ h_ => nomatch h_

theorem groupRestore (age : Nat) : Statement (.groupRestore age) := fun _ _ h_ => nomatch h_

theorem groupSave (age reason : Nat) : Statement (.groupSave age reason) := fun _ _ h_ => nomatch h_

theorem saveAgentApply (op : Nat) : Statement (.saveAgentApply op) := fun _ _ h_ => nomatch h_

theorem workgroupRetire (wg : Nat) : Statement (.workgroupRetire wg) := fun _ _ h_ => nomatch h_

theorem registerFileScrub (core : Nat) : Statement (.registerFileScrub core) := fun _ _ h_ => nomatch h_

theorem dbgcmdHalt : Statement (.dbgcmdHalt) := fun _ _ h_ => nomatch h_

theorem dbgcmdResume : Statement (.dbgcmdResume) := fun _ _ h_ => nomatch h_

theorem dbgcmdStep : Statement (.dbgcmdStep) := fun _ _ h_ => nomatch h_

theorem dbgcmdSave : Statement (.dbgcmdSave) := fun _ _ h_ => nomatch h_

theorem debugImageWrite (off : Nat) (value : BitVec 8) : Statement (.debugImageWrite off value) := fun _ _ h_ => nomatch h_

theorem registerWrite (reg : CoreWrite) (value : BitVec 64) : Statement (.registerWrite reg value) := fun _ _ h_ => nomatch h_

theorem hallmarkRequest : Statement (.hallmarkRequest) := fun _ _ h_ => nomatch h_

theorem hallmarkComplete : Statement (.hallmarkComplete) := fun _ _ h_ => nomatch h_

theorem controlCoreAccess (pa size : Nat) (op : CoreOp) : Statement (.controlCoreAccess pa size op) := fun _ _ h_ => nomatch h_

theorem controlHomeRequest (req : HomeRequest) : Statement (.controlHomeRequest req) := fun _ _ h_ => nomatch h_

theorem flitCrcFail (port : Nat) : Statement (.flitCrcFail port) := fun _ _ h_ => nomatch h_

theorem linkDown (port : Nat) : Statement (.linkDown port) := fun _ _ h_ => nomatch h_

theorem heartbeatSend : Statement (.heartbeatSend) := fun _ _ h_ => nomatch h_

theorem heartbeatReceive (pkg : Nat) : Statement (.heartbeatReceive pkg) := fun _ _ h_ => nomatch h_

theorem peerSuspect (pkg : Nat) : Statement (.peerSuspect pkg) := fun _ _ h_ => nomatch h_

theorem packageIsolated : Statement (.packageIsolated) := fun _ _ h_ => nomatch h_

theorem lossNotice (pkg : Nat) : Statement (.lossNotice pkg) := fun _ _ h_ => nomatch h_

theorem lossRebuildComplete : Statement (.lossRebuildComplete) := fun _ _ h_ => nomatch h_

theorem timeSyncMessage (offset : Int) : Statement (.timeSyncMessage offset) := fun _ _ h_ => nomatch h_

theorem pcieInboundRead (port : Nat) (addr : BitVec 64) (size : Nat) : Statement (.pcieInboundRead port addr size) := fun _ _ h_ => nomatch h_

theorem pcieInboundWrite (port : Nat) (addr : BitVec 64) (data : List (BitVec 8)) : Statement (.pcieInboundWrite port addr data) := fun _ _ h_ => nomatch h_

theorem pcieAtomicop (port : Nat) (addr : BitVec 64) (size : Nat) (op : PcieAtomic) (a c : BitVec 64) : Statement (.pcieAtomicop port addr size op a c) := fun _ _ h_ => nomatch h_

theorem bootVerify (image : BootImage) : Statement (.bootVerify image) := fun _ _ h_ => nomatch h_

theorem rackAssignmentRecord (bytes : List (BitVec 8)) : Statement (.rackAssignmentRecord bytes) := fun _ _ h_ => nomatch h_

theorem droopDetect (core : Nat) : Statement (.droopDetect core) := fun _ _ h_ => nomatch h_

theorem droopRestore (core : Nat) : Statement (.droopRestore core) := fun _ _ h_ => nomatch h_

theorem powerLimitStep (watts : Nat) : Statement (.powerLimitStep watts) := fun _ _ h_ => nomatch h_

theorem inputUndervoltage : Statement (.inputUndervoltage) := fun _ _ h_ => nomatch h_

theorem assaySample (core needMv : Nat) : Statement (.assaySample core needMv) := fun _ _ h_ => nomatch h_

theorem marginReplan (core : Nat) : Statement (.marginReplan core) := fun _ _ h_ => nomatch h_

theorem rasErrorEvent (err : RasError) : Statement (.rasErrorEvent err) := fun _ _ h_ => nomatch h_

theorem ferryShardArrival (cmd position : Nat) : Statement (.ferryShardArrival cmd position) := fun _ _ h_ => nomatch h_

theorem pcieErrorReported (port : Nat) (correctable : Bool) : Statement (.pcieErrorReported port correctable) := fun _ _ h_ => nomatch h_

end Sys2Proof.Laws.Encoded
end

