-- ==== Sys2Proof/Tests/Slice0.lean ====
section
/-! SUPPORT. Tests of the model, and a state that meets the hypotheses of each statement. -/

namespace Sys2Proof.Tests

set_option Elab.async false

open Sys2Proof Sys2Proof.Machine

/-! ## Small states -/

/-- Group 0 executes the instruction of a word: its split-table entry 0 issues. -/
noncomputable def at_ (len word : Nat) (s : State) : State :=
  { s with cur := some { age := 0, entry := 0, len := len, word := word, packed := false } }

/-- One group of 512 registers on core 0, alone in its workgroup, under a header with FA = 0 and FB = 1. -/
noncomputable def s0 : State := at_ 4 0 (State.reset.withFetchWord 32 0)

/-- A context for a state that has none. -/
noncomputable def noCtx : Ctx :=
  let f : Frag := { entry := 0, pc := 0, lanes := 0, header := none, clauseStart := 0, needHeader := false, wait := .ready,
                    hold := .none, rejoin := 0, age := 0, agedAt := 0, lastIssue := 0, pausedUntil := 0, readyAt := 0 }
  { age := 0, entry := 0, g := fetchGroup s0, f := f, len := 0, word := 0, packed := false, clock := 0, now := 0 }

/-- The context of a state. -/
noncomputable def ctx (s : State) : Ctx := s.ctx?.getD noCtx

/-- Set a scalar register. -/
noncomputable def sr (n : BitVec 6) (w : Word) (s : State) : State := s.onGroup 0 fun g => g.setS n w

/-- Set lanes 0 and 1 of a vector register. -/
noncomputable def vr (n : Nat) (a b : Lane) (s : State) : State := s.onGroup 0 fun g => g.setCells [(32 * n, a), (32 * n + 1, b)]

/-- Change the special registers. -/
noncomputable def sys (f : Special → Special) (s : State) : State := s.onGroup 0 fun g => { g with sys := f g.sys }

/-- Group 0 after an instruction. -/
noncomputable def after (s : State) (i : Instr) : Group :=
  match exec i s with
  | .next t => (Map.find? t.groups 0).getD noCtx.g
  | _ => noCtx.g

/-- The issuing fragment after an instruction. -/
noncomputable def fragAfter (s : State) (i : Instr) : Frag := ((after s i).frag? 0).getD noCtx.f

/-- The state after an instruction. -/
noncomputable def next (s : State) (i : Instr) : State :=
  match exec i s with
  | .next t => t
  | _ => s

/-! ## Well-formedness: an ill-formed instruction for each check -/

theorem test_wf_header_reserved : (Instr.clauseHeader false false 0 1 12 0).wf = false := by decide
theorem test_wf_header_same : (Instr.clauseHeader false false 0 3 3 0).wf = false := by decide
theorem test_wf_header_none : (Instr.clauseHeader false false 0 15 15 0).wf = true := by decide
theorem test_wf_header_guard : (Instr.clauseHeader false false 2 1 0 0).wf = false := by decide
theorem test_wf_condition : (Instr.scmp 0 0 12 0).wf = false := by decide
theorem test_wf_scalar_field : (Instr.vadd true 64 0 0).wf = false := by decide
theorem test_wf_float_condition : (Instr.vfcmp false 0 0 8 0).wf = false := by decide
theorem test_wf_pair : (Instr.vpfadd false 2 4 5).wf = false := by decide
theorem test_wf_convert_same : (Instr.vcvt 0 0 0 0).wf = false := by decide
theorem test_wf_convert_base : (Instr.vcvt 0 60 0 1).wf = false := by decide
theorem test_wf_random_key : (Instr.vrandB32 3 0 0).wf = false := by decide
theorem test_wf_reduction : (Instr.vred 11 0 0).wf = false := by decide
theorem test_wf_partner : (Instr.xsend 33 0 0 0).wf = false := by decide
theorem test_wf_load_size : (Instr.ld false 7 false 0 0 0).wf = false := by decide
theorem test_wf_load_offset : (Instr.ld true 4 false 127 0 0).wf = false := by decide
theorem test_wf_store_size : (Instr.st false 1 false 0 0 0).wf = false := by decide
theorem test_wf_load_register : (Instr.ld false 6 false 0 0 2).wf = false := by decide
theorem test_wf_scope : (Instr.fenceAcq 6).wf = false := by decide
theorem test_wf_barrier : (Instr.bar 16).wf = false := by decide
theorem test_wf_atomic_code : (Instr.atom 0x16 0 0 0).wf = false := by decide
theorem test_wf_atomic_run : (Instr.atom 0x13 0 0 2).wf = false := by decide
theorem test_wf_reduce_code : (Instr.red 0x12 0 0 0).wf = false := by decide
theorem test_wf_remote_address : (Instr.xat false 0 1 0 0).wf = false := by decide
theorem test_wf_stash_copies : (Instr.astash 0 false 0 0 0 0 0).wf = false := by decide
theorem test_wf_stash_format : (Instr.astash 1 false 6 0 0 0 0).wf = false := by decide

/-! ## Decoding: words written out field by field from the encoding tables -/

theorem test_decode_clauseHeader : decodeTableWord 32 0b0_1_011_0010_0001_000000000101_0000001 = some (.clauseHeader false true 3 2 1 5) := by decide +kernel
theorem test_decode_vmov16 : decodeTableWord 16 0b0_00100_00110_00000 = some (.vmov16 false 4 6) := by decide +kernel
theorem test_decode_sadd : decodeTableWord 32 0b0000000_000010_000100_000110_0000011 = some (.sadd 2 4 6) := by decide +kernel
theorem test_decode_saddImm : decodeTableWord 32 0b0000_000000010_000100_000110_0000101 = some (.saddImm 2 4 6) := by decide +kernel
theorem test_decode_sli : decodeTableWord 32 0b0_000000000000000010_000100_0000111 = some (.sli 2 4) := by decide +kernel
theorem test_decode_bra : decodeTableWord 32 0b000000000000000000010_0000_0001001 = some (.bra 2) := by decide +kernel
theorem test_decode_bdiv : decodeTableWord 32 0b000000000000000000010_00_00_0001011 = some (.bdiv 2 0) := by decide +kernel
theorem test_decode_call : decodeTableWord 32 0b0000000_000000000000000010_0001101 = some (.call 2) := by decide +kernel
theorem test_decode_srd : decodeTableWord 32 0b0000000_000000000010_000100_0001111 = some (.srd 2 4) := by decide +kernel
theorem test_decode_vadd : decodeTableWord 32 0b0_000_0000100_0000110_0001000_0010001 = some (.vadd false 4 6 8) := by decide +kernel
theorem test_decode_vand : decodeTableWord 32 0b0_000_0000100_0000110_0001000_0010011 = some (.vand false 4 6 8) := by decide +kernel
theorem test_decode_vpopc : decodeTableWord 32 0b00000000000_0000010_0000100_0010101 = some (.vpopc 2 4) := by decide +kernel
theorem test_decode_vaddi : decodeTableWord 32 0b00000010_000_0000100_0000110_0010111 = some (.vaddi 2 4 6) := by decide +kernel
theorem test_decode_vicmp : decodeTableWord 32 0b0_000_0000100_0000110_1000_010_0011101 = some (.vicmp false 4 6 8 2) := by decide +kernel
theorem test_decode_vsel : decodeTableWord 32 0b0_000_0000100_0000110_0001000_0011111 = some (.vsel false 4 6 8) := by decide +kernel
theorem test_decode_mand : decodeTableWord 32 0b0000000000_010_000_100_000_110_0111111 = some (.mand 2 4 6) := by decide +kernel
theorem test_decode_vfadd : decodeTableWord 32 0b0_000_0000100_0000110_0001000_0100001 = some (.vfadd false 4 6 8) := by decide +kernel
theorem test_decode_vfmad : decodeTableWord 32 0b0_000100_000110_001000_001010_0100011 = some (.vfmad false 4 6 8 10) := by decide +kernel
theorem test_decode_vfabs : decodeTableWord 32 0b00000000000_0000010_0000100_0100101 = some (.vfabs 2 4) := by decide +kernel
theorem test_decode_vpfadd : decodeTableWord 32 0b0_000_0000100_0000110_0001000_0100111 = some (.vpfadd false 4 6 8) := by decide +kernel
theorem test_decode_vhaddBf16 : decodeTableWord 32 0b0_000_0000100_0000110_0001000_0101001 = some (.vhaddBf16 false 4 6 8) := by decide +kernel
theorem test_decode_vdadd : decodeTableWord 32 0b0_000_0000100_0000110_0001000_0101011 = some (.vdadd false 4 6 8) := by decide +kernel
theorem test_decode_vrcp : decodeTableWord 32 0b00000000000_0000010_0000100_0101101 = some (.vrcp 2 4) := by decide +kernel
theorem test_decode_vsigm : decodeTableWord 32 0b00000000000_0000010_0000100_0101111 = some (.vsigm 2 4) := by decide +kernel
theorem test_decode_vcvt : decodeTableWord 32 0b0_010_0000100_0000110_0001000_0110001 = some (.vcvt 2 4 6 8) := by decide +kernel
theorem test_decode_vqntE4m3 : decodeTableWord 32 0b10000_000010_0000100_0000110_0110011 = some (.vqntE4m3 2 4 6) := by decide +kernel
theorem test_decode_vrandB32 : decodeTableWord 32 0b10000_000010_0000100_0000110_0110101 = some (.vrandB32 2 4 6) := by decide +kernel
theorem test_decode_vnblRing : decodeTableWord 32 0b00000000000_0000010_0000100_0111001 = some (.vnblRing 2 4) := by decide +kernel
theorem test_decode_vred : decodeTableWord 32 0b0000_0000010_0000100_0000110_0111011 = some (.vred 2 4 6) := by decide +kernel
theorem test_decode_xsend : decodeTableWord 32 0b0000000_000010_00_0110_001000_0111101 = some (.xsend 2 0 6 8) := by decide +kernel
theorem test_decode_ld : decodeTableWord 32 0b0_010_0_0001000_001010_0001100_1000001 = some (.ld false 2 false 8 10 12) := by decide +kernel
theorem test_decode_st : decodeTableWord 32 0b0_010_0_0001000_001010_0001100_1000011 = some (.st false 2 false 8 10 12) := by decide +kernel
theorem test_decode_lds : decodeTableWord 32 0b0000000000010_000100_000110_1000101 = some (.lds 2 4 6) := by decide +kernel
theorem test_decode_sts : decodeTableWord 32 0b0000000000010_000100_000110_1000111 = some (.sts 2 4 6) := by decide +kernel
theorem test_decode_ldacq : decodeTableWord 32 0b0_0_100_0000110_001000_0001010_1001001 = some (.ldacq false 4 6 8 10) := by decide +kernel
theorem test_decode_pref : decodeTableWord 32 0b00_0_0_0_0000110_001000_0000000_1001011 = some (.pref false false 6 8) := by decide +kernel
theorem test_decode_landr : decodeTableWord 32 0b0000000000000000000_000010_1001101 = some (.landr 2) := by decide +kernel
theorem test_decode_fenceAcq : decodeTableWord 32 0b0000_010_000000000000000000_1011001 = some (.fenceAcq 2) := by decide +kernel
theorem test_decode_bar : decodeTableWord 32 0b0000000000000000000_000010_1011011 = some (.bar 2) := by decide +kernel
theorem test_decode_mbinit : decodeTableWord 32 0b0000000000000_000010_000100_1011101 = some (.mbinit 2 4) := by decide +kernel
theorem test_decode_mon : decodeTableWord 32 0b0000000000000000000_000010_1011111 = some (.mon 2) := by decide +kernel
theorem test_decode_atom : decodeTableWord 32 0b00010_0000100_000110_0001000_1010001 = some (.atom 2 4 6 8) := by decide +kernel
theorem test_decode_red : decodeTableWord 32 0b00010_0000100_000110_0001000_1010011 = some (.red 2 4 6 8) := by decide +kernel
theorem test_decode_xat : decodeTableWord 32 0b0_100_0000110_0001000_0001010_1010101 = some (.xat false 4 6 8 10) := by decide +kernel
theorem test_decode_xred : decodeTableWord 32 0b0_100_0000110_0001000_0001010_1010111 = some (.xred false 4 6 8 10) := by decide +kernel
theorem test_decode_wcopy : decodeTableWord 32 0b0000000_000010_000_100_000_110_1100001 = some (.wcopy 2 4 6) := by decide +kernel
theorem test_decode_wgather : decodeTableWord 32 0b0_000010_000_100_000_110_000_000_1100011 = some (.wgather 2 4 6 0) := by decide +kernel
theorem test_decode_wfill : decodeTableWord 32 0b0000000_000010_000100_000_110_1100101 = some (.wfill 2 4 6) := by decide +kernel
theorem test_decode_wstat : decodeTableWord 32 0b0010000000000_000010_000100_1100111 = some (.wstat 2 4) := by decide +kernel
theorem test_decode_frs : decodeTableWord 32 0b0000000000000_000010_000100_1101001 = some (.frs 2 4) := by decide +kernel
theorem test_decode_fupd : decodeTableWord 32 0b0000000_000010_000100_000110_1101011 = some (.fupd 2 4 6) := by decide +kernel
theorem test_decode_oclaim : decodeTableWord 32 0b0000000_000010_000100_000110_1101101 = some (.oclaim 2 4 6) := by decide +kernel
theorem test_decode_mma : decodeTableWord 32 0b00_00010_000100_000110_001000_1101111 = some (.mma 2 4 6 8) := by decide +kernel
theorem test_decode_afence : decodeTableWord 32 0b0000000000000000000_000010_1110001 = some (.afence 2) := by decide +kernel
theorem test_decode_adrainV : decodeTableWord 32 0b00_00010_000000_000100_000110_1110011 = some (.adrainV 2 4 6) := by decide +kernel
theorem test_decode_astash : decodeTableWord 32 0b11_0_0101_001000_010_100_0_01110_1110101 = some (.astash 3 false 5 8 2 4 14) := by decide +kernel
theorem test_decode_lnch : decodeTableWord 32 0b0000000000000_000010_000100_1111001 = some (.lnch 2 4) := by decide +kernel
theorem test_decode_rgrow : decodeTableWord 32 0b0000000000000000000_000010_1111011 = some (.rgrow 2) := by decide +kernel
theorem test_decode_trap : decodeTableWord 32 0b0000000000000_000000000010_1111101 = some (.trap 2) := by decide +kernel
theorem test_decode_vli : decodeTableWord 32 0b10000001_111_0000011_0000101_0010111 = some (.vli (0x81 * 128 + 3) 5) := by
  decide +kernel
theorem test_decode_vlop3 : decodeTableWord 32 0b0010110_000011_000010_000001_001100_1 = some (.vlop3 0x16 3 2 1) := by
  decide +kernel
theorem test_decode_vlop3_high : decodeTableWord 32 0b1101000_000011_000010_000001_001101_1 = some (.vlop3 0xE8 3 2 1) := by
  decide +kernel
theorem test_decode_reserved_bit : decodeTableWord 32 0b01_00101_000000_000110_001_1_0_1_1110011 = none := by decide +kernel

/-! ## Steps: expected values by hand from the rules -/

-- Words and values of the worked example of R126 (Table 5.5).
theorem test_decode_mset_example : decodeTableWord 32 0x0C07E3BF = some (.mset 63 7) := by decide +kernel
theorem test_decode_vaddc_example : decodeTableWord 32 0x40A0C195 = some (.vaddc false 5 3 3) := by decide +kernel

theorem test_sadd_wraps : (after (sr 2 (BitVec.allOnes 64) (sr 1 1 s0)) (.sadd 1 2 3)).s 3 = 0 := by decide +kernel
theorem test_sadd_discards : (after (sr 2 5 s0) (.sadd 2 2 63)).s 63 = 0 := by decide +kernel
theorem test_smulh_signed : (after (sr 2 (BitVec.allOnes 64) s0) (.smulhI64 2 2 3)).s 3 = 0 := by decide +kernel
theorem test_smulh_unsigned : (after (sr 2 (BitVec.allOnes 64) s0) (.smulhN64 2 2 3)).s 3 = 0xFFFFFFFFFFFFFFFE := by
  decide +kernel
theorem test_sdivn_by_zero : (after (sr 2 7 s0) (.sdivn 1 2 3)).s 3 = BitVec.allOnes 64 := by decide +kernel
theorem test_ssra_floors : (after (sr 2 (BitVec.ofInt 64 (-5)) (sr 1 1 s0)) (.ssra 1 2 3)).s 3 = BitVec.ofInt 64 (-3) := by
  decide +kernel
theorem test_sbfx_signed : (after (sr 2 0xF0 (sr 1 0x0404 s0)) (.sbfxI64 1 2 3)).s 3 = BitVec.allOnes 64 := by decide +kernel
theorem test_scmp_unsigned : (after (sr 2 (BitVec.allOnes 64) (sr 1 1 s0)) (.scmp 1 2 4 2)).c 2 = false := by decide +kernel
theorem test_scmp_signed : (after (sr 2 (BitVec.allOnes 64) (sr 1 1 s0)) (.scmp 1 2 2 2)).c 2 = true := by decide +kernel
theorem test_slih_keeps : (after (sr 2 0x1111222233334444 s0) (.slih 1 0xABCD 2)).s 2 = 0x11112222ABCD4444 := by decide +kernel

theorem test_bra_back : (fragAfter s0 (.bra (BitVec.ofInt 21 (-2)))).pc = 0x7FFFFC := by decide +kernel
theorem test_bra_needs_header : (fragAfter s0 (.bra 4)).needHeader = true := by decide +kernel
theorem test_call_returns : (after s0 (.call 8)).flow.ret.map (·.addr) = [0x800004] := by decide +kernel
theorem test_jmpi_odd : (after (sys (fun x => { x with trapVec := 0x1000 }) (sr 1 3 s0)) (.jmpi 1)).sys.trapCause = 0x03 := by
  decide +kernel
theorem test_join_enrols : (after s0 (.join 3)).rejoinE 3 = BitVec.allOnes 32 := by decide +kernel
theorem test_bdiv_splits : ((after (s0.onGroup 0 fun g => g.setM 1 0xF0) (.bdiv 16 1)).flow.frags.map (·.lanes)) =
    [0xFFFFFF0F#32, 0xF0#32] := by decide +kernel

theorem test_vadd_lane : (after (vr 1 0xFFFFFFFF 7 (vr 2 1 5 s0)) (.vadd false 1 2 3)).v 3 0 = 0 := by decide +kernel
theorem test_vadd_scalar : (after (sr 1 0x100000002 (vr 2 1 5 s0)) (.vadd true 1 2 3)).v 3 1 = 7 := by decide +kernel
theorem test_vaddc_carry : (after (vr 2 0xFFFFFFFF 0x80000000 (vr 4 1 0x80000000 s0)) (.vaddc false 4 2 2)).m 7 = 3 := by
  decide +kernel
theorem test_vaddc_high : (after ((vr 3 1 0xFFFFFFFF (vr 5 2 0 s0)).onGroup 0 fun g => g.setM 7 3) (.vaddc false 5 3 3)).v 3 0 = 4 := by
  decide +kernel
theorem test_vfshl_rotates : (after (sr 9 8 (vr 4 0x12345678 0 s0)) (.vfshl true 9 4 4)).v 4 0 = 0x34567812 := by decide +kernel
theorem test_vshl_modulo : (after (sr 9 33 (vr 4 1 0 s0)) (.vshl true 9 4 4)).v 4 0 = 2 := by decide +kernel
theorem test_vdot4_signed : (after (vr 1 0xFF020304 0 (vr 2 0x01010101 0 (vr 3 10 0 s0))) (.vdot4 false 1 2 3)).v 3 0 = 18 := by
  decide +kernel
theorem test_vlop3_xor3 : (after (vr 1 5 0 (vr 2 3 0 (vr 3 1 0 s0))) (.vlop3 0x96 1 2 3)).v 3 0 = 7 := by decide +kernel
theorem test_vmov16_self_poison : (after s0 (.vmov16 false 0 0)).regs = (ctx s0).g.regs := by decide +kernel
theorem test_vicmp_guard : (after (s0.onGroup 0 fun g => g.setM 2 0xFFFFFFFF) (.vicmp false 0 0 0 2)).m 2 = 0xFFFFFFFF := by
  decide +kernel
theorem test_mfind_none : (after s0 (.mfind 1 4)).s 4 = 32 := by decide +kernel

theorem test_vfadd_ties_even : (after (vr 1 0x3F800000 0 (vr 2 0x33800000 0 s0)) (.vfadd false 1 2 3)).v 3 0 = 0x3F800000 := by
  decide +kernel
theorem test_vfadd_overflow : (after (vr 1 0x7F7FFFFF 0 (vr 2 0x7F7FFFFF 0 s0)) (.vfadd false 1 2 3)).v 3 0 = 0x7F800000 := by
  decide +kernel
theorem test_vfma_fused : (after (vr 1 0x3F800001 0 (vr 2 0x3F800001 0 (vr 3 0xBF800002 0 s0))) (.vfma false 1 2 3)).v 3 0 =
    0x28800000 := by decide +kernel
theorem test_vfmin_nan : (after (vr 1 0x7FC00000 0 (vr 2 0x40000000 0 s0)) (.vfmin false 1 2 3)).v 3 0 = 0x40000000 := by
  decide +kernel
theorem test_vfcpys : (after (vr 1 0x80000000 0 (vr 2 0x40000000 0 s0)) (.vfcpys false 1 2 3)).v 3 0 = 0xC0000000 := by
  decide +kernel

-- R39: a kind-B result is written by a later event, under flag FB = 1.
theorem test_ballot_later : ((next (vr 1 0 9 s0) (.vvoteBallot 1 4)).pend.map fun p => p.flag) = [some 1] := by decide +kernel
theorem test_ballot_written : (after (next (vr 1 0 9 s0) (.vvoteBallot 1 4)) (.resultWriteback 0)).s 4 = 2 := by decide +kernel
theorem test_shuffle_ring : (after (next (vr 1 7 9 s0) (.vnblRing 1 2)) (.resultWriteback 0)).v 2 1 = 7 := by decide +kernel

-- R367, R368, Table 15.4: SOFTWARE is cause 0x13 with the number in AUX.
theorem test_trap_mode : (after (sys (fun x => { x with trapVec := 0x1000 }) s0) (.trap 5)).flow.trapMode = true := by decide +kernel
theorem test_trap_pc : (after (sys (fun x => { x with trapVec := 0x1000 }) s0) (.trap 5)).sys.trapPc = 0x800000 := by decide +kernel
theorem test_trap_double : (after s0 (.trap 5)).id.dbl = true := by decide +kernel
theorem test_srd_group : (after (sr 4 9 s0) (.srd 0x002 4)).s 4 = 0 := by decide +kernel
theorem test_swr_fpstat_clears : (after (sys (fun x => { x with fpstat := 0xF }) (sr 4 5 s0)) (.swr 0x011 4)).sys.fpstat = 0xA := by
  decide +kernel
theorem test_halt : (after s0 .halt).id.halted = true := by decide +kernel

-- R186, R188: a load of shared memory and a store to it.
theorem test_sts_shared : ((next (sr 1 0xC000000000000010 (sr 2 0x1122334455667788 s0)) (.sts 0 1 2)).wgs.map fun p =>
    Map.get 0 p.2.shared 0x17) = [0x11] := by decide +kernel
theorem test_lds_flag : ((next (sr 1 0xC000000000000010 s0) (.lds 0 1 2)).pend.map fun p => p.flag) = [some 0] := by decide +kernel
theorem test_lds_misaligned : (after (sys (fun x => { x with trapVec := 0x1000 }) (sr 1 0xC000000000000011 s0)) (.lds 0 1 2)).sys.trapCause
    = 0x03 := by decide +kernel

/-! ## States that meet the hypotheses of the statements -/

theorem here {s : State} (h : s.ctx?.isSome = true) : s.ctx? = some (ctx s) := by
  unfold ctx; cases e : s.ctx? with
  | none => simp [e] at h
  | some c => rfl

theorem clean_of {c : Ctx} (h : c.g.regs.poison = []) (lanes : Lane) (rs : List (Nat × Nat)) : c.Clean lanes rs := by
  intro l _ r _ j _; simp [h]

theorem fits_of {c : Ctx} {rs : List (Nat × Nat)} (h : (rs.all fun r => c.g.runOk r) = true) : c.Fits rs := by
  simpa [Ctx.Fits, List.all_eq_true] using h

noncomputable abbrev c0 : Ctx := ctx s0

theorem here0 : s0.ctx? = some c0 := here (by decide +kernel)
theorem clean0 (lanes : Lane) (rs : List (Nat × Nat)) : c0.Clean lanes rs := clean_of (by decide +kernel) lanes rs

/-- Group 0 in trap mode, at its handler. -/
noncomputable def sT : State := at_ 4 0 ((sys (fun x => { x with trapVec := 0x1000 }) s0).takeTrap 0 c0.stopPoint { cause := .software, aux := 5 })
theorem hereT : sT.ctx? = some (ctx sT) := here (by decide +kernel)

theorem witness_ScalarRegisterAndBitResults : s0.ctx? = some c0 := here0
theorem witness_ScalarImmediateResults : s0.ctx? = some c0 := here0
theorem witness_ScalarConditions : s0.ctx? = some c0 ∧ (0#4).toNat < 12 ∧ (11#4).toNat < 12 := ⟨here0, by decide, by decide⟩
theorem witness_ShortMoveToItself : s0.ctx? = some c0 := here0
theorem witness_MaskInstructions : s0.ctx? = some c0 := here0
theorem witness_VectorIntegerResults : s0.ctx? = some c0 ∧ c0.Fits ((127, 1) :: (0, 1) :: runB false 127 1) ∧
    c0.Clean c0.active ((0, 1) :: runB false 127 1) ∧ c0.Clean c0.active [(127, 1)] :=
  ⟨here0, fits_of (by decide +kernel), clean0 _ _, clean0 _ _⟩
theorem witness_VectorBitResults : s0.ctx? = some c0 ∧ c0.Fits ((127, 1) :: (0, 1) :: runB true 63 1) ∧
    c0.Clean c0.active ((0, 1) :: runB true 63 1) ∧ c0.Clean c0.active [(127, 1)] ∧ c0.Fits [(63, 1), (63, 1), (0, 1)] ∧
    c0.Clean c0.active [(63, 1), (63, 1), (0, 1)] :=
  ⟨here0, fits_of (by decide +kernel), clean0 _ _, clean0 _ _, fits_of (by decide +kernel), clean0 _ _⟩
theorem witness_VectorImmediateAndShortResults : s0.ctx? = some c0 ∧ c0.Fits [(127, 1), (127, 1)] ∧ c0.Clean c0.active [(127, 1)] ∧
    c0.Fits [(31, 1), (31, 1)] ∧ c0.Clean c0.active [(31, 1), (31, 1)] ∧ (30#5) ≠ 31#5 :=
  ⟨here0, fits_of (by decide +kernel), clean0 _ _, fits_of (by decide +kernel), clean0 _ _, by decide⟩
theorem witness_CarryForms : s0.ctx? = some c0 ∧ c0.Fits ((127, 1) :: (127, 1) :: runB false 0 1) ∧
    c0.Clean c0.active ((127, 1) :: runB false 0 1) := ⟨here0, fits_of (by decide +kernel), clean0 _ _⟩
theorem witness_VectorComparesAndSelects : s0.ctx? = some c0 ∧ (11#4).toNat < 12 ∧ c0.Fits ((127, 1) :: (127, 1) :: runB false 127 1) ∧
    c0.Clean c0.active ((127, 1) :: runB false 127 1) := ⟨here0, by decide, fits_of (by decide +kernel), clean0 _ _⟩
/-- The index 512 - 127 = 385 stays below the allocation with v126 and reaches it with v127. -/
theorem witness_IndexedMoves : s0.ctx? = some c0 ∧ c0.g.regs.alloc ≤ 512 ∧ c0.Fits ((0, 1) :: runB true 5 1) ∧
    c0.Clean c0.active (runB true 5 1) ∧ 126 + ((ctx (sr 5 385 s0)).g.s 5).toNat < c0.g.regs.alloc ∧
    c0.g.regs.alloc ≤ 127 + ((ctx (sr 5 385 s0)).g.s 5).toNat :=
  ⟨here0, by decide +kernel, fits_of (by decide +kernel), clean0 _ _, by decide +kernel, by decide +kernel⟩
theorem witness_FloatResults : s0.ctx? = some c0 ∧ c0.Fits ((127, 1) :: (0, 1) :: runB false 127 1) ∧
    c0.Clean c0.active ((0, 1) :: runB false 127 1) := ⟨here0, fits_of (by decide +kernel), clean0 _ _⟩
theorem witness_FloatUnaryAndPairResults : s0.ctx? = some c0 ∧ c0.Fits [(63, 1), (0, 1), (63, 1), (63, 1)] ∧
    c0.Fits ((126, 2) :: (0, 2) :: runB true 63 2) ∧ c0.Clean c0.active ((0, 2) :: runB true 63 2) :=
  ⟨here0, fits_of (by decide +kernel), fits_of (by decide +kernel), clean0 _ _⟩
theorem witness_FloatSpecialOperands : Fmt.fp64 ∈ [Fmt.fp16, .bf16, .fp32, .fp64] ∧ (value .fp16 0x7C01).isNan = true ∧
    (value .fp16 0x7C00).isInf = true ∧ (value .fp16 0xFC00).isInf = true ∧
    (value .fp16 0x7C00).isNeg ≠ (value .fp16 0xFC00).isNeg ∧ (value .fp16 0x8000).isZero = true ∧ (value .fp16 0x3C00).isNan = false := by
  decide +kernel
/-- A vote in flight, and the result that it will write. -/
noncomputable def sVote : State := next s0 (.vvoteBallot 1 4)
theorem witness_WritebackOfResults : ∃ p, (sVote.pend.find? fun q => q.id == 0) = some p ∧
    Map.find? sVote.groups p.age = some ((Map.find? sVote.groups 0).getD noCtx.g) ∧ p.path = none ∧
    ∃ vw sw fp, p.kind = .result vw sw fp := ⟨_, rfl, rfl, rfl, _, _, _, rfl⟩
theorem witness_kindB : s0.ctx? = some c0 ∧ c0.flagB.isSome = true ∧ c0.Fits ((127, 1) :: (0, 1) :: runB false 127 1) ∧
    c0.Clean c0.active ((0, 1) :: runB false 127 1) ∧ c0.Clean (BitVec.allOnes 32) [(0, 1)] :=
  ⟨here0, by decide +kernel, fits_of (by decide +kernel), clean0 _ _, clean0 _ _⟩
/-- The same group under a header that names no flag B. -/
noncomputable def sNoB : State := s0.onGroup 0 fun g => g.onFrag 0 fun f => { f with header := some 0x07800001 }
theorem witness_SpecialFunctionResults : c0.flagB.isSome = true ∧ c0.Fits [(127, 1), (0, 1)] ∧ sNoB.ctx? = some (ctx sNoB) ∧
    (ctx sNoB).flagB = none ∧ (ctx sNoB).Fits [(127, 1), (0, 1)] :=
  ⟨by decide +kernel, fits_of (by decide +kernel), here (by decide +kernel), by decide +kernel, fits_of (by decide +kernel)⟩
theorem witness_ConversionResults : s0.ctx? = some c0 ∧ c0.flagB.isSome = true ∧
    c0.Fits [(126, (cvtRuns (cvtPair 0x3C).1 (cvtPair 0x3C).2).2.2), (0, (cvtRuns (cvtPair 0x3C).1 (cvtPair 0x3C).2).2.1)] ∧
    (c0.g.s 5).toNat < 4096 ∧ scaleFmt ((c0.g.s 5).toNat / 256) = some .e4m3 ∧ c0.Fits [(0, 1), (120, (packWidth 3).2)] :=
  ⟨here0, by decide +kernel, fits_of (by decide +kernel), by decide +kernel, by decide +kernel, fits_of (by decide +kernel)⟩
theorem witness_CrossLaneReads : s0.ctx? = some c0 ∧ c0.Clean (BitVec.allOnes 32) [(127, 1)] ∧ c0.Clean c0.active (runB true 63 1) :=
  ⟨here0, clean0 _ _, clean0 _ _⟩
theorem witness_Votes : s0.ctx? = some c0 ∧ c0.flagB.isSome = true ∧ c0.Fits [(127, 1)] ∧ c0.Clean c0.active [(127, 1)] :=
  ⟨here0, by decide +kernel, fits_of (by decide +kernel), clean0 _ _⟩
theorem witness_Reductions : s0.ctx? = some c0 ∧ c0.flagB.isSome = true ∧ c0.Fits [(127, 1), (0, 1)] ∧ (7 : Nat) < 8 :=
  ⟨here0, by decide +kernel, fits_of (by decide +kernel), by decide⟩

/-- The workgroup of group 0 as three groups, of which group 0 is the middle one. -/
noncomputable def sMid (edges : Cells Lane) : State :=
  let mate := fun (age num : Nat) (g : Group) => { g with id := { g.id with age := age, num := num, slot := num } }
  let g0 := (Map.find? s0.groups 0).getD noCtx.g
  { s0 with groups := [(0, mate 0 1 g0), (1, mate 1 0 g0), (2, mate 2 2 g0)],
            wgs := s0.wgs.map fun p => (p.1, { p.2 with groups := 3, latches := edges }) }
theorem witness_EdgeReads_open : s0.ctx? = some c0 ∧ (s0.wgOf c0.g).isSome = true ∧ c0.g.id.num = 0 := by
  refine ⟨here0, ?_, ?_⟩ <;> decide +kernel
theorem witness_EdgeReads_latch : ((sMid [(2, 7), (3, 9)]).wgOf (ctx (sMid [(2, 7), (3, 9)])).g).any (fun w =>
    (sMid [(2, 7), (3, 9)]).latchReady w (ctx (sMid [(2, 7), (3, 9)])).g true && Map.find? w.latches 2 == some 7) = true := by
  decide +kernel
theorem witness_EdgeDeposits_issue : (sMid []).ctx? = some (ctx (sMid [])) ∧ 0 < (ctx (sMid [])).g.id.num ∧
    (ctx (sMid [])).g.id.num + 1 < 3 := ⟨here (by decide +kernel), by decide +kernel, by decide +kernel⟩
/-- The middle group after XEDGE. -/
noncomputable def sEdge : State := next (sMid []) (.xedge false 5)
theorem witness_EdgeDeposits_deposit : ∃ g f w gl gr, Map.find? sEdge.groups 0 = some g ∧
    (g.flow.frags.find? fun f => f.entry == 0) = some f ∧ f.wait = .held ∧ f.hold = .deposits (some (0, 0)) (some (2, 0)) ∧
    g.flow.trapFrags = [] ∧ Map.find? sEdge.wgs g.id.wg = some w ∧ sEdge.member? g.id.wg 0 = some gl ∧
    sEdge.member? g.id.wg 2 = some gr ∧ gl.2.exited = false ∧ gr.2.exited = false ∧ Map.find? w.latches 1 = none ∧
    Map.find? w.latches 4 = none := ⟨_, _, _, _, _, rfl, rfl, by decide +kernel, by decide +kernel, rfl, rfl, rfl, rfl, by decide +kernel,
      by decide +kernel, rfl, rfl⟩
theorem witness_Rendezvous_issue : ∃ w, (sMid []).wgOf (ctx (sMid [])).g = some w ∧ (2 : Nat) < w.groups ∧ 2 ≠ (ctx (sMid [])).g.id.num ∧
    (sMid []).partnerGone w.id (ctx (sMid [])).g.id.num 2 = false ∧ (ctx (sMid [])).checkSide (sMid []) w true 15 2 = .ok () ∧
    (ctx (sMid [])).checkSide (sMid []) w false 15 2 = .ok () ∧ (ctx (sMid [])).flagA.isSome = true :=
  ⟨_, rfl, by decide +kernel, by decide +kernel, by decide +kernel, rfl, rfl, by decide +kernel⟩
/-- Group 1 sends to any partner, and then group 2 receives from it, at slot 15. -/
noncomputable def sMeet : State :=
  let s1 := next (sMid []) (.xsend 32 0 15 5)
  next { s1 with cur := some { age := 2, entry := 0, len := 4, word := 0, packed := false } } (.xrecv 1 0 15 6)
theorem witness_Rendezvous_transfer : ∃ w x r p gx gr, Map.find? sMeet.wgs 0 = some w ∧
    Map.find? w.slots 15 = some { send := some x, recv := some r } ∧ x.num ≠ r.num ∧ x.partner = 32 ∧ r.partner = x.num ∧
    Map.find? sMeet.groups x.age = some gx ∧ Map.find? sMeet.groups r.age = some gr ∧ gx.running = true ∧ gr.running = true ∧
    x.age ≠ r.age ∧ (sMeet.pend.find? fun q => q.id == r.op) = some p ∧ p.age = r.age ∧ p.path = none ∧
    ∃ sl pt lanes reg count, p.kind = .xrecv sl pt lanes reg count :=
  ⟨_, _, _, _, _, _, rfl, rfl, by decide +kernel, by decide +kernel, by decide +kernel, rfl, rfl, by decide +kernel, by decide +kernel,
    by decide +kernel, rfl, by decide +kernel, rfl, _, _, _, _, _, rfl⟩

theorem witness_WholeBranches : s0.ctx? = some c0 := here0
/-- Every lane in m1; none; some, with room in the split table. -/
theorem witness_DivergentBranch : (let c := ctx (s0.onGroup 0 fun g => g.setM 1 0xFFFFFFFF); c.f.lanes &&& ~~~c.g.m 1 = 0) ∧
    c0.f.lanes &&& c0.g.m 1 = 0 ∧ (let s := s0.onGroup 0 fun g => g.setM 1 0x1
      let c := ctx s; let g1 := (c.advance c.g).onFrag c.entry fun f => { f with lanes := c.f.lanes &&& ~~~c.g.m 1 }
      c.f.lanes &&& c.g.m 1 ≠ 0 ∧ c.f.lanes &&& ~~~c.g.m 1 ≠ 0 ∧ s.splitRoom g1 = true ∧
        ∀ f ∈ g1.bank, f.entry ≠ s.newEntry g1) := by decide +kernel
/-- A split table with no room: 32 fragments of one lane. -/
noncomputable def sFull : State := s0.onGroup 0 fun g => { g with flow := { g.flow with frags := (List.range 128).map fun i =>
  { (c0.f) with entry := i, lanes := if i = 0 then 3 else 4 } } }
theorem witness_DivergentBranch_full : sFull.splitRoom (ctx sFull).g = false ∧ (ctx sFull).g.flow.trapMode = false := by decide +kernel
theorem witness_CallsAndReturns : c0.g.flow.ret.length < 16 ∧ (c0.g.s 1).toNat % 2 = 0 ∧ ((ctx (sr 1 1 s0)).g.s 1).toNat % 2 = 1 ∧
    c0.f.lanes ≠ 0 ∧ c0.g.flow.ret = [] ∧ c0.g.sys.rsDepth = 0 ∧
    ((ctx (at_ 4 0 (next s0 (.call 8)))).g.flow.ret.map fun e => (e.addr, e.lanes)) = [(0x800004, BitVec.allOnes 32)] := by decide +kernel
theorem witness_Enrolment : s0.ctx? = some c0 := here0
theorem witness_Strikes : s0.ctx? = some c0 := here0
/-- All lanes enrolled at j7; none; some. -/
theorem witness_ParkedLanes : (let c := ctx (at_ 4 0 (next s0 (.join 7))); c.f.lanes &&& c.g.rejoinE 7 ≠ 0 ∧ c.f.lanes &&& ~~~c.g.rejoinE 7 = 0) ∧
    c0.f.lanes &&& c0.g.rejoinE 7 = 0 ∧ (let s := s0.onGroup 0 fun g => g.setRejoin 7 1 0
      let c := ctx s; c.f.lanes &&& c.g.rejoinE 7 ≠ 0 ∧ c.f.lanes &&& ~~~c.g.rejoinE 7 ≠ 0 ∧ s.splitRoom c.g = true) := by decide +kernel
theorem witness_FusionAndPauses : s0.ctx? = some c0 ∧ (Map.find? s0.groups 0).isSome = true := ⟨here0, by decide +kernel⟩
/-- A header that waits for flag 0: without and with an instruction in flight under it. -/
noncomputable def sHead : State := at_ 4 0x00800081 s0
theorem witness_Headers : sHead.ctx? = some (ctx sHead) ∧ (ctx sHead).word < 2 ^ 32 ∧ (1#12) = .ofNat 12 ((ctx sHead).word / 2 ^ 7) ∧
    (ctx sHead).checkHeader 1 = .ok () ∧ sHead.pend = [] :=
  ⟨here (by decide +kernel), by decide +kernel, by decide +kernel, rfl, by decide +kernel⟩
theorem witness_Headers_wait : (let s := next (sr 1 0xC000000000000010 s0) (.lds 0 1 2)
    (s.pend.any fun p => p.age == 0 && !p.trapBank && p.flag == some 0) ∧
      ((s0.onGroup 0 fun g => g.onFrag 0 fun f => { f with wait := .clause }).fetch (ctx s0).g 0x800000).isOk) := by decide +kernel
/-- FA = 12; FB = 14; FA = FB; a guard register without a guard. -/
theorem witness_IllegalHeaders : (0x00E00001 / 2 ^ 19 % 16 = 12) ∧ (0x07000001 / 2 ^ 23 % 16 = 14) ∧
    (0x01980001 / 2 ^ 19 % 16 = 0x01980001 / 2 ^ 23 % 16) ∧ 0x08800001 / 2 ^ 30 % 2 = 0 ∧ 0x08800001 / 2 ^ 27 % 8 ≠ 0 ∧
    (at_ 4 0x00E00001 s0).ctx?.any (fun c => c.word == 0x00E00001) = true := by decide +kernel
theorem witness_SpecialRegisterReads : s0.ctx? = some c0 := here0
theorem witness_SpecialRegisterWrites : c0.g.flow.trapMode = false ∧ sT.ctx? = some (ctx sT) ∧ (ctx sT).g.flow.trapMode = true :=
  ⟨by decide +kernel, hereT, by decide +kernel⟩
theorem witness_TrapsTaken : (let s := sys (fun x => { x with trapVec := 0x1000 }) s0
    (Map.find? s.groups 0).any (fun g => !g.flow.trapMode && g.sys.trapVec != 0)) ∧
    (Map.find? s0.groups 0).any (fun g => g.sys.trapVec == 0) ∧ (Map.find? sT.groups 0).any (fun g => g.flow.trapMode) := by decide +kernel
theorem witness_TrapInstructions : c0.g.flow.trapMode = false ∧ (ctx sT).g.flow.trapMode = true ∧ (ctx sT).g.flow.trapFrags.length = 1 ∧
    sT.pend = [] ∧ ((ctx (sr 1 1 sT)).g.s 1).toNat % 2 = 1 := by decide +kernel
/-- Trap mode with two trap fragments. -/
theorem witness_TrapInstructions_two : (let s := next (sT.onGroup 0 fun g => g.setM 1 1) (.bdiv 8 1)
    (Map.find? s.groups 0).any fun g => g.flow.trapMode && g.flow.trapFrags.length == 2) := by decide +kernel
theorem witness_TrapReturns : (ctx sT).g.work.declined = [] ∧ (ctx sT).g.work.sendAbandon = [] ∧ (ctx sT).g.flow.stopHeader = none ∧
    ((ctx sT).g.s 1).toNat % 2 = 0 := by decide +kernel
theorem witness_HaltsAndMarks : (c0.g.s 1).toNat < 65536 ∧ 65536 ≤ ((ctx (sr 1 65536 s0)).g.s 1).toNat ∧
    (ctx sT).g.flow.trapMode = true := by decide +kernel
/-- Lane 0 alone in the issuing fragment. -/
noncomputable def sOne : State := s0.onGroup 0 fun g => g.onFrag 0 fun f => { f with lanes := 1 }
theorem witness_Exits : (ctx sOne).orderingPoint sOne = .ok () ∧ (ctx sOne).g.work.abandoned = [] ∧ sOne.partners (ctx sOne).g = [] ∧
    (ctx sOne).g.flow.live &&& ~~~(ctx sOne).f.lanes ≠ 0 := ⟨rfl, by decide +kernel, by decide +kernel, by decide +kernel⟩

/-! ## Memory -/

/-- Nothing stops these accesses. -/
noncomputable def mayCheck (c : Ctx) (s : State) (r : AccessRule) (rd wr : Bool) (accs : List Access) : Bool :=
  let u := s.uncount
  let t := c.reached s accs
  decide (u.ctx? = some c) && accs.all fun a =>
    !u.spaceBad c.g r a && (!a.inWindow || c.g.flow.trapMode) && (!r.direct || !u.isRemote a.addr) && !a.misaligned r
      && !u.underShootdown (vkey c.ctx a.addr) && (!a.hasRights || (t.rights c.core c.ctx a.addr).1.has r.right)
      && (!a.hasRights || decide (r.scope ≤ widestScope (t.rights c.core c.ctx a.addr).1.cls))
      && (List.range 4).all (fun w => !t.watched c.ctx rd wr a w) && (!r.limit || !c.beyondHwm a)

theorem may_of {c : Ctx} {s : State} {r : AccessRule} {rd wr : Bool} {accs : List Access} (h : mayCheck c s r rd wr accs = true) :
    c.MayAccess s r rd wr accs := by
  simp only [mayCheck, Bool.and_eq_true, decide_eq_true_eq, List.all_eq_true] at h
  obtain ⟨hc, h⟩ := h
  refine ⟨hc, ?_, ?_, ?_, ?_, ?_, ?_, ?_, ?_, ?_⟩
  · intro a ha; have := h a ha; simp_all
  · intro a ha hw; have := h a ha; simp_all
  · intro hd a ha; have := h a ha; simp_all
  · intro a ha; have := h a ha; simp_all
  · intro a ha; have := h a ha; simp_all
  · intro a ha hr; have := h a ha; simp_all
  · intro a ha hr; have := h a ha; simp_all
  · intro a ha w hw; have := (h a ha).1.2 w (by simpa using hw); simpa using this
  · intro hl a ha; have := h a ha; simp_all

theorem sound_of {c : Ctx} {s : State} (h : s.mem.poison = []) (accs : List Access) : c.Sound s accs := by
  intro a _ i _; simp [h]

theorem order_of {c : Ctx} {s : State} (h : s.acquiring c.age = false) (accs : List Access) : c.InOrder s accs := by
  intro h'; simp [h] at h'

theorem shared_of {c : Ctx} {s : State} (h : s.pend = []) (accs : List Access) : c.SharedInOrder s accs := by
  intro a _ _; simp [State.sharedEarlier, h]

/-- The computation ends with a value as said. -/
noncomputable def okIs {ε α : Type} (x : Except ε α) (p : α → Bool) : Bool :=
  match x with
  | .ok a => p a
  | .error _ => false
theorem of_okIs {ε α : Type} {x : Except ε α} {p : α → Bool} (h : okIs x p = true) : ∃ a, x = .ok a ∧ p a = true := by
  cases x with
  | ok a => exact ⟨a, rfl, h⟩
  | error _ => simp [okIs] at h

/-- Group 0 with an address in its page, in s1; the page is of NC class and has a translation. -/
noncomputable def sA (a : Word) : State := sr 1 a { s0 with mem := { s0.mem with xlate := (List.range 17).map fun u => (u, { vpage := 0x80, count := 1, frame := 1 }) } }
/-- The same in trap mode. -/
noncomputable def sAT (a : Word) : State := sr 1 a { sT with mem := { sT.mem with xlate := (List.range 17).map fun u => (u, { vpage := 0x80, count := 1, frame := 1 }) } }
noncomputable abbrev cA (a : Word) : Ctx := ctx (sA a)

/-- The lanes' accesses at the address in s1. -/
noncomputable def accsA (a : Word) (n : Nat) : List Access := (cA a).laneAccesses false 127 1 n

/-- A load of four bytes at the last word of the page, of eight in shared memory; a load in trap mode of a system window. -/
theorem witness_Loads : (cA 0x80FFFC).MayAccess (sA 0x80FFFC) { right := .read, window := true } true false (accsA 0x80FFFC 4) ∧
    (cA 0x80FFFC).Fits ((127, max 1 (4 / 4)) :: runOff 127) ∧ (cA 0x80FFFC).flagA.isSome = true ∧
    (cA 0x80FFFC).Sound (sA 0x80FFFC).uncount (accsA 0x80FFFC 4) ∧
    (cA 0x80FFFC).InOrder ((cA 0x80FFFC).reached (sA 0x80FFFC) (accsA 0x80FFFC 4)) (accsA 0x80FFFC 4) :=
  ⟨may_of (by decide +kernel), fits_of (by decide +kernel), by decide +kernel, sound_of (by decide +kernel) _, order_of (by decide +kernel) _⟩
theorem witness_Loads_shared : (cA 0xC0000000000FFFF8).MayAccess (sA 0xC0000000000FFFF8) { right := .read, window := true } true false
    [{ lane := 32, addr := (cA 0xC0000000000FFFF8).scalarAddr 0 1, size := 8 }] := may_of (by decide +kernel)
theorem witness_Loads_window : (ctx (sAT 0xE000000400000000)).MayAccess (sAT 0xE000000400000000) { right := .read, window := true }
    true false [{ lane := 32, addr := (ctx (sAT 0xE000000400000000)).scalarAddr 0 1, size := 8 }] := may_of (by decide +kernel)
theorem witness_Loads_acquire : (cA 0x80FFF8).MayAccess (sA 0x80FFF8) { right := .read, scope := 3 } true false (accsA 0x80FFF8 8) :=
  may_of (by decide +kernel)
theorem witness_Loads_noFlag : sT.uncount.ctx? = some (ctx sT) ∧ (ctx sT).flagA = none := by
  constructor <;> decide +kernel
/-- The fragment with lane 0 alone. -/
noncomputable def one (s : State) : State := s.onGroup 0 fun g => g.onFrag 0 fun f => { f with lanes := 1 }
/-- A load in flight, before and after its L1 holds the bytes. -/
noncomputable def sLoad : State := next (one (sA 0x80FFFF)) (.ld false 0 false 127 1 5)
theorem witness_Loads_arrive : ∃ p l, (sLoad.pend.find? fun q => q.id == 0) = some p ∧ p.kind = .load l ∧
    ((sLoad.serveLanes p l fun _ => true).1.addrs.all fun a => !(sLoad.serveLanes p l fun _ => true).1.waits a.1) = true :=
  ⟨_, _, rfl, rfl, by decide +kernel⟩
theorem witness_Loads_serve : (∀ a ∈ [(0, (0x80FFFC : Word))], a.2.toNat / 2 ^ 61 ≠ 4 ∧ a.2.toNat / 2 ^ 61 ≠ 6) ∧
    (0xC0000000000FFFF8 : Word).toNat / 2 ^ 61 = 6 ∧ ((sA 0).wgOf (cA 0).g).isSome = true ∧ (sA 0).landing = [] ∧ (sA 0).pend = [] := by
  decide +kernel
/-- The L1 holds the word after the load has its data. -/
theorem witness_Loads_hit : (∃ p l, (sLoad.pend.find? fun q => q.id == 0) = some p ∧ p.kind = .load l ∧
    ({ sLoad with cores := [(0, { sLoad.core 0 with l1 := [(0x80FFFF, ⟨5, false, false, 0⟩)] })] } : State).l1Hit 0 0x80FFFF l = true) := ⟨_, _, rfl, rfl, by decide +kernel⟩
/-- A load of a page without a translation, with a fault queue of 64 records. -/
noncomputable def sPark : State :=
  let s := sr 1 0x810000 { s0 with win := { s0.win with fqSize := 6, xlRoot := 0 }, cores := [(0, { s0.core 0 with perms :=
    { ctx := 0, page := 0x81, rights := { rd := true, wr := true, at_ := true, ex := false, cls := 0 } } :: (s0.core 0).perms })] }
  next s (.ld false 4 false 127 1 5)
theorem witness_Loads_park : ∃ p l g, (sPark.pend.find? fun q => q.id == 0) = some p ∧ p.kind = .load l ∧
    Map.find? sPark.groups p.age = some g ∧ (sPark.failing g p l).filter (fun e => e.2 != 5) ≠ [] ∧ sPark.fqLog ≠ 0 :=
  ⟨_, _, _, rfl, rfl, rfl, by decide +kernel, by decide +kernel⟩

/-- A store of four bytes at the end of the page, which lands at once; a record stands in its way; no room is left. -/
theorem witness_Stores : (cA 0x80FFFC).MayAccess (sA 0x80FFFC) { right := .write, window := true } false true (accsA 0x80FFFC 4) ∧
    (cA 0x80FFFC).Fits ((127, 1) :: runOff 127) ∧ (cA 0x80FFFC).Clean (cA 0x80FFFC).active ((127, 1) :: runOff 127) ∧
    (cA 0x80FFFC).InOrder ((cA 0x80FFFC).reached (sA 0x80FFFC) (accsA 0x80FFFC 4)) (accsA 0x80FFFC 4) ∧
    (cA 0x80FFFC).SharedInOrder ((cA 0x80FFFC).reached (sA 0x80FFFC) (accsA 0x80FFFC 4)) (accsA 0x80FFFC 4) :=
  ⟨may_of (by decide +kernel), fits_of (by decide +kernel), clean_of (by decide +kernel) _ _, order_of (by decide +kernel) _,
    shared_of (by decide +kernel) _⟩
theorem witness_Stores_scalar : (cA 0xC0000000000FFFF8).MayAccess (sA 0xC0000000000FFFF8) { right := .write, window := true } false true
    [{ lane := 32, addr := (cA 0xC0000000000FFFF8).scalarAddr 0 1, size := 8 }] ∧
    (cA 0xC0000000000FFFF8).SharedInOrder ((cA 0xC0000000000FFFF8).reached (sA 0xC0000000000FFFF8)
      [{ lane := 32, addr := (cA 0xC0000000000FFFF8).scalarAddr 0 1, size := 8 }])
      [{ lane := 32, addr := (cA 0xC0000000000FFFF8).scalarAddr 0 1, size := 8 }] :=
  ⟨may_of (by decide +kernel), shared_of (by decide +kernel) _⟩
theorem witness_Stores_window : (ctx (sAT 0xE000000400000000)).MayAccess (sAT 0xE000000400000000) { right := .write, window := true }
    false true [{ lane := 32, addr := (ctx (sAT 0xE000000400000000)).scalarAddr 0 1, size := 8 }] := may_of (by decide +kernel)
theorem orderly_of {c : Ctx} {s : State} (h : s.ownRecords c.g c.age = []) (h' : c.g.work.failedRemote = [] ∧ c.g.work.failedEngine = []) :
    c.Orderly s := ⟨by simp [h], by simp [h], by simp [h'.1], by simp [h'.2]⟩
theorem witness_Stores_release : (cA 0x80FFF8).MayAccess (sA 0x80FFF8) { right := .write, scope := 4 } false true (accsA 0x80FFF8 8) ∧
    (cA 0x80FFF8).Released ((cA 0x80FFF8).reached (sA 0x80FFF8) (accsA 0x80FFF8 8)) :=
  ⟨may_of (by decide +kernel), { toOrderly := orderly_of (by decide +kernel) (by decide +kernel), complete := by decide +kernel }⟩
theorem witness_Stores_lane : (let r := (cA 0x80FFFC).landingOf (sA 0x80FFFC) 0 4 false none [(31, 0x80FFFC, [1, 2, 3, 4])]
    keySpace (r.key (r.lanes.headD { lane := 0, addr := 0, nc := false, bytes := [], landed := false, faulted := false, direct := false, confirmed := false })) ≠ .control ∧
      r.lanes.map (·.bytes) = [[1, 2, 3, (4 : Byte)].map some]) ∧ (Map.find? s0.wgs 0).isSome = true := by decide +kernel

/-- PREF, CFLUSH and CINV of the last byte of the page, with no record of its line. -/
theorem witness_LinesAndLandings_lines :
    (cA 0x80FFFF).MayAccess (sA 0x80FFFF) { right := .none, align := false, window := true, limit := false } false false (accsA 0x80FFFF 1) ∧
    (cA 0x80FFFF).MayAccess (sA 0x80FFFF) { right := .read, align := false, window := true } false false (accsA 0x80FFFF 1) ∧
    (cA 0x80FFFF).Fits (runOff 127) ∧ (cA 0x80FFFF).Clean (cA 0x80FFFF).active (runOff 127) ∧
    ((sA 0x80FFFF).pinning 0 (lineOf 0x80FFFF)) = [] :=
  ⟨may_of (by decide +kernel), may_of (by decide +kernel), fits_of (by decide +kernel), clean_of (by decide +kernel) _ _, by decide +kernel⟩
/-- Rights to a page that has no translation, with a fault queue of 64 records, and its address in s1. -/
noncomputable def sMiss : State :=
  sr 1 0x810000 { s0 with win := { s0.win with fqSize := 6 }, cores := [(0, { s0.core 0 with perms :=
    { ctx := 0, page := 0x81, rights := { rd := true, wr := true, at_ := true, ex := false, cls := 0 } } :: (s0.core 0).perms })] }
/-- A store to that page waits for its probe. -/
noncomputable def sRec : State := next sMiss (.st false 4 false 127 1 5)
theorem witness_LinesAndLandings_pinned : (ctx sRec).MayAccess sRec { right := .read, align := false, window := true } false false
      ((ctx sRec).laneAccesses false 127 1 1) ∧ (ctx sRec).Fits (runOff 127) ∧ (ctx sRec).Clean (ctx sRec).active (runOff 127) ∧
    (((ctx sRec).reached sRec ((ctx sRec).laneAccesses false 127 1 1)).pinning 0 (lineOf 0x810000)) ≠ [] :=
  ⟨may_of (by decide +kernel), fits_of (by decide +kernel), clean_of (by decide +kernel) _ _, by decide +kernel⟩
/-- The record has faulted, and the group is in trap mode. -/
noncomputable def sBad : State :=
  at_ 4 0 ((sys (fun x => { x with trapVec := 0x1000 }) (next sRec (.landingProbeAnswer 0 0 0x810000))).takeTrap 0 c0.stopPoint
    { cause := .software, aux := 5 })
theorem witness_LinesAndLandings_landr : s0.ctx? = some c0 ∧ c0.g.flow.trapMode = false ∧ sBad.ctx? = some (ctx sBad) ∧
    (ctx sBad).g.flow.trapMode = true ∧ (sBad.landing.filter fun r => r.age == (ctx sBad).age && r.isFaulted).length = 1 ∧
    (∀ r ∈ sBad.landing, ∀ l ∈ r.lanes, sBad.underShootdown (r.key l) = false) ∧
    sT.ctx? = some (ctx sT) ∧ (ctx sT).g.flow.trapMode = true ∧ sT.landing = [] ∧ sT.pend = [] :=
  ⟨here0, by decide +kernel, here (by decide +kernel), by decide +kernel, by decide +kernel, by decide +kernel, hereT, by decide +kernel,
    by decide +kernel, by decide +kernel⟩
/-- No lane waits for the page; one does and the page translates; one does and it does not. -/
noncomputable def sRecOk : State := { sRec with mem := { sRec.mem with xlate := (List.range 17).map fun u => (u, { vpage := 0x81, count := 1, frame := 1 }) } }
theorem witness_LinesAndLandings_probe : s0.probing 0 0x81 = false ∧ sRecOk.probing 0 0x81 = true ∧
    (∃ k s1, sRecOk.translate (0x81 * 65536) = .ok (k, s1)) ∧ sRec.probing 0 0x81 = true ∧ ∃ d, sRec.translate (0x81 * 65536) = .error d :=
  ⟨by decide +kernel, by decide +kernel, ⟨_, _, rfl⟩, by decide +kernel, ⟨_, rfl⟩⟩
/-- A slice line marked with entry 65535 of core 0, in use and free. -/
noncomputable def sMark (inUse : Bool) : State :=
  { s0 with mem := { s0.mem with marks := [(0x10000, (0, 65535))] },
            cores := [(0, { s0.core 0 with relEntries := if inUse then [(65534, 3), (65535, 4)] else [] })] }
theorem witness_LinesAndLandings_recall : relStamp? ((sMark true).core 0).relEntries 65535 = some 4 ∧
    (∃ p ∈ (sMark true).mem.marks, p.2 = (0, 65535)) ∧ relStamp? ((sMark false).core 0).relEntries 65535 = none ∧
    ∃ p ∈ (sMark false).mem.marks, p.2 = (0, 65535) := by decide +kernel
theorem witness_LinesAndLandings_writeback : ∃ d ds pk s1, (sA 0).mem.dirtyOf (lineOf (vkey 0 0x80007F)) = d :: ds ∧
    (sA 0).translate (lineOf (vkey 0 0x80007F) * 128) = .ok (pk, s1) := ⟨_, _, _, _, rfl, rfl⟩

/-- UNMAPV with a range in s1 and its length in s2, in trap mode. -/
noncomputable def sUn (base len : Word) : State := sr 1 base (sr 2 len sT)
theorem witness_Shootdowns_unmapv : (ctx s0).g.flow.trapMode = false ∧ (ctx (sUn 0 0)).g.flow.trapMode = true ∧
    (sUn 0 0).rangeBad 0xC000000000000000 65536 = true ∧ ((sUn 0 0).rangeBad 0x1000000000000 65536 = false ∧
      (sUn 0 0).isRemote 0x1000000000000 = true) ∧
    (∀ b ∈ [(0x800000, 1, true), (0x800001, 65536, true), (0x800000, 0, false), (0x800000, 65536, false)],
      (sUn 0 0).rangeBad (.ofNat 64 b.1) b.2.1 = false ∧ (sUn 0 0).isRemote (.ofNat 64 b.1) = false ∧
      rangeMisaligned (.ofNat 64 b.1) b.2.1 = b.2.2) ∧ (sUn 0x800000 65536).shootdownRoom = true := by decide +kernel
/-- UNMAPV of the page of s0's instruction, as it is queued. -/
noncomputable def sDown : State := next (sUn 0x800000 65536) (.unmapv 2 1)
/-- Sixteen requests. -/
noncomputable def sDownFull : State := { sUn 0x800000 65536 with shootdowns := List.replicate 16 (sDown.shootdowns.headD
  { id := 0, base := 0, len := 0, mode := 0, ctx := 0, window := false, remote := none, started := false, before := 0, waiting := [],
    drained := false }) }
theorem witness_Shootdowns_queue : sDown.shootdownNext.isSome = true ∧ (next sDown .shootdownStart).shootdownDrained.isSome = true ∧
    sDownFull.shootdownRoom = false ∧ (∃ n, (ctx { sDown with cur := sT.cur }).f.hold = .shootdown n) :=
  ⟨by decide +kernel, by decide +kernel, by decide +kernel, ⟨_, rfl⟩⟩
/-- The window's registers: a good range, one that is too long, an empty one, and a request that is still there. -/
noncomputable def sWin (base len : Word) : State := { s0 with win := { s0.win with sdBase := base, sdLen := len } }
theorem witness_Shootdowns_window : (next (sWin 0x800000 65536) (.sdctlGo 0)).sdBusy = true ∧ (sWin 0 0).sdBusy = false ∧
    (3 = 3 ∨ (sWin 0 0).rangeBad 0 0 = true) ∧ (sWin 0xE000000000000000 65536).rangeBad 0xE000000000000000 65536 = true ∧
    (sWin 0x1000000000000 65536).isRemote 0x1000000000000 = true ∧ rangeMisaligned 0x800000 1 = true ∧
    ¬ ((2 : Nat) = 3 ∨ (sWin 0x800000 0).rangeBad 0x800000 0 = true ∨ (sWin 0x800000 0).isRemote 0x800000 = true ∨
      rangeMisaligned 0x800000 0 = true) ∧
    ¬ ((2 : Nat) = 3 ∨ (sWin 0x800000 65536).rangeBad 0x800000 65536 = true ∨ (sWin 0x800000 65536).isRemote 0x800000 = true ∨
      rangeMisaligned 0x800000 65536 = true) := by decide +kernel
/-- A memory context table at control offset 0, whose tables for tensor pages stand at 0x1000 of the control cache, with a
leaf that gives the first GiB the right to read. -/
noncomputable def ctlCells (l : List (Nat × Nat)) : Cells LlcByte :=
  l.flatMap fun p => ((List.range 8).zip (valBytes 8 p.2)).map fun q => (2 ^ 62 + p.1 + q.1, { val := q.2, dirty := true })
/-- A memory context table at control offset 0 for context 0, whose rights table gives tensor pages below 2^43 the rights to
read, write, do atomics and execute, and control pages the same with class 2; its cells, and the page of control offset 0, are in
the control cache; this package is its home. -/
noncomputable def sTab (s : State) : State :=
  { s with plat := { s.plat with home := [(0, homeWord 0 0)] },
           mem := { s.mem with llc := s.mem.llc ++ ctlCells [(0, 0x200), (0x200, 0x1001), (0x300, 0x2001), (0x1000, 0x3F), (0x2000, 0xBF)],
                               xlate := (16, { vpage := 2 ^ 46, count := 1, frame := 2 }) :: s.mem.xlate } }
/-- A dirty control line that package 1 homes. -/
noncomputable def sFar : State := { sTab s0 with plat := { s0.plat with home := [(0, homeWord 1 0)] } }
theorem witness_LinesAndLandings_far : sFar.farKey (lineOf (vkey 0 0x4000000000000200) * 128) = true ∧
    sFar.mem.dirtyOf (lineOf (vkey 0 0x4000000000000200)) ≠ [] ∧
    (match sFar.translate (lineOf (vkey 0 0x4000000000000200) * 128) with
      | .ok _ => true
      | .error _ => false) = true := by decide +kernel
theorem witness_Shootdowns_walks : (0x8FFFFF : Word).toNat / 2 ^ 61 = 0 ∧ (sTab s0).underShootdown 0x8FFFFF = false ∧
    ((sTab s0).core 0).perm? 0 (pageOf 0x8FFFFF) = none ∧ (sTab s0).walkRights 0 0x8FFFFF ≠ noRights ∧
    (0x4000000000000000 : Word).toNat / 2 ^ 61 = 2 ∧ (sTab s0).walkRights 0 0x4000000000000000 ≠ noRights ∧
    space? (0x80FFFF : Word) = some .tensor ∧ (sA 0).isRemote 0x80FFFF = false ∧ (sA 0).underShootdown (vkey 0 0x80FFFF) = false := by
  decide +kernel
theorem witness_Shootdowns_translation : ∃ k s1, (sA 0).translate (vkey 0 0x80FFFF) = .ok (k, s1) := ⟨_, _, rfl⟩
/-- A record that waits, with a queue that has room. -/
noncomputable def sFq : State := { sTab sMiss with faultWait := [{ core := 0, words := List.replicate 8 7 }] }
theorem witness_Shootdowns_retry : ∃ r, sFq.faultWait = [r] ∧ (sFq.fqWrite? r.words).isSome = true :=
  ⟨_, rfl, by decide +kernel⟩
/-- A load that waits for the driver; an instruction; a command. -/
noncomputable def sParked : State := next sPark (.loadFaultPark 0)
noncomputable def sParkI (kind : Nat) : State :=
  let p : Park :=
    { token := 5, age := 0, kind := kind, detail := 1, pc := 0x800000, addr := 0x810000, lanes := 1, what := .instruction 0 4 }
  { s0 with parks := [p] }
theorem witness_Shootdowns_park : (∃ p q l, sParked.parkOf 0 = some p ∧ p.what = .load 0 ∧ (sParked.pend.find? fun q => q.id == 0) = some q ∧
      q.kind = .load l) ∧ (∃ p, (sParkI 3).parkOf 5 = some p ∧ p.what = .instruction 0 4 ∧ p.kind ≠ 2) ∧
    ∃ p g, (sParkI 2).parkOf 5 = some p ∧ p.what = .instruction 0 4 ∧ Map.find? (sParkI 2).groups p.age = some g :=
  ⟨⟨_, _, _, rfl, rfl, rfl, rfl⟩, ⟨_, rfl, rfl, by decide⟩, ⟨_, _, rfl, rfl, rfl⟩⟩
/-- Shape records: k1 of 8 rows of 16 bytes at s1, k2 of one row of 128 bytes at s2, k3 of eight 32-bit indices at s3, k4 one block
of 4096 bytes at s1, k5 of 2 rows of 64 bytes at s2. -/
noncomputable def sShapes : State :=
  let rec_ := fun (rowlen rows fmt reg pitch : Nat) =>
    (BitVec.ofNat 128 (rowlen + rows * 2 ^ 16 + 1 * 2 ^ 32 + fmt * 2 ^ 48 + reg * 2 ^ 53 + pitch * 2 ^ 64) : BitVec 128)
  sr 1 0x804000 (sr 2 0x808000 (sr 3 0x800020 (sr 4 0xC000000000000008 ({ (sA 0) with groups := (sA 0).groups.map fun p => (p.1,
    { p.2 with regs := { p.2.regs with k := [(1, rec_ 16 8 0 1 256), (2, rec_ 128 1 0 2 0), (3, rec_ 8 1 10 3 0), (4, rec_ 4096 1 0 1 0),
      (5, rec_ 16 8 0 2 16)] } }) }))))
/-- A fill of eight rows, in the queue; running; paused for the driver. -/
noncomputable def sFill : State := next sShapes (.wfill 4 2 1)
noncomputable def sRun : State := next sFill (.wherryCommandStart 0)
noncomputable def sPause : State := next { sRun with win := { sRun.win with fqSize := 6 }, mem := { sRun.mem with xlate := [] } } (.engineXlateFault 0)
theorem witness_Shootdowns_parkEngine : ∃ p w, sPause.parkOf 0 = some p ∧ p.what = .engine 0 ∧
    (sPause.wherry.find? fun w => w.id == 0) = some w := ⟨_, _, rfl, rfl, rfl⟩

theorem released_of {c : Ctx} {s : State} (h : s.ownRecords c.g c.age = []) (h' : c.g.work.failedRemote = [] ∧ c.g.work.failedEngine = [])
    (h'' : s.accessesBefore c.g c.age (c.opLimit s) = false) : c.Released s := { toOrderly := orderly_of h h', complete := h'' }

/-- No access before the fence; a load in flight before it. -/
noncomputable def sInFlight : State := at_ 4 0 sLoad
theorem witness_FencesAndCounterWaits_fences : s0.ctx? = some c0 ∧ c0.Released s0 ∧ s0.loadsBefore c0.age (c0.opLimit s0) = false ∧
    sInFlight.ctx? = some (ctx sInFlight) ∧ (ctx sInFlight).Orderly sInFlight ∧
    sInFlight.loadsBefore 0 ((ctx sInFlight).opLimit sInFlight) = true ∧
    sInFlight.accessesBefore (ctx sInFlight).g 0 ((ctx sInFlight).opLimit sInFlight) = true ∧ (3#3).toNat < 4 ∧ 4 ≤ (4#3).toNat :=
  ⟨here0, released_of (by decide +kernel) (by decide +kernel) (by decide +kernel), by decide +kernel, here (by decide +kernel),
    orderly_of (by decide +kernel) (by decide +kernel), by decide +kernel, by decide +kernel, by decide, by decide⟩
theorem witness_FencesAndCounterWaits_release : (Map.find? s0.groups 0).isSome = true := by decide +kernel
/-- The count of LD is one: a limit of 1 lets WAITC go on, as 1023 does, and 0 holds it. -/
theorem witness_FencesAndCounterWaits_counters : (ctx sInFlight).g.work.counter .ld = 1 ∧
    (∀ n ∈ [1, 1023], 1023 ≤ n ∨ (ctx (sr 2 (.ofNat 64 n) sInFlight)).g.work.counter .ld ≤ ((ctx (sr 2 (.ofNat 64 n) sInFlight)).g.s 2).toNat) ∧
    (let c := ctx (sr 2 0 sInFlight); c.f.hold = .none ∧ (c.g.s 2).toNat < 1023 ∧ (c.g.s 2).toNat < c.g.work.counter .ld) := by
  decide +kernel

/-- The workgroup's barrier (32) and cohort 15; a cohort that is not defined, one that does not list the group, and a number
that is no cohort. -/
noncomputable def sCohort (w : Word) : State := { s0 with wgs := s0.wgs.map fun p => (p.1, { p.2 with cohorts := List.replicate 16 w, hasTable := true }) }
theorem witness_Barriers_barriers : (s0.wgOf c0.g).isSome = true ∧ s0.partners c0.g = [] ∧
    (∃ w, s0.wgOf c0.g = some w ∧ c0.barrierOf w 32 = .ok 16 ∧ c0.f.lanes &&& ~~~(Map.get 0 (w.barrier 16).lanes c0.g.id.num) ≠ 0 ∧
      Map.get 0 (w.barrier 16).last c0.g.id.num = 0) ∧
    (∃ w, (sCohort 0x100000001).wgOf c0.g = some w ∧ c0.barrierOf w 15 = .ok 15) :=
  ⟨by decide +kernel, by decide +kernel, ⟨_, rfl, rfl, by decide +kernel, by decide +kernel⟩, ⟨_, rfl, rfl⟩⟩
theorem witness_Barriers_illegal : (15#6) ≠ 32#6 ∧ 16 ≤ (16#6).toNat ∧ 16 ≤ (63#6).toNat ∧
    (s0.wgOf c0.g).any (fun w => !cohortDefined (w.cohort 15)) = true ∧
    ((sCohort 0x100000002).wgOf c0.g).any (fun w => !hasGroup (cohortMembers (w.cohort 15)) 0) = true := by decide +kernel
/-- Group 0 of two has arrived: its lanes are counted, and its phase is 1. -/
noncomputable def sArrived : State := at_ 4 0 (next (sMid []) (.bara 32))
theorem witness_Barriers_again : ∃ w, sArrived.wgOf (ctx sArrived).g = some w ∧ (ctx sArrived).barrierOf w 32 = .ok 16 ∧
    (ctx sArrived).f.lanes &&& ~~~(Map.get 0 (w.barrier 16).lanes (ctx sArrived).g.id.num) = 0 ∧
    Map.get 0 (w.barrier 16).last (ctx sArrived).g.id.num = 0 + 1 ∧ (ctx sArrived).Released sArrived ∧ sArrived.partners (ctx sArrived).g = [] :=
  ⟨_, rfl, rfl, by decide +kernel, by decide +kernel, released_of (by decide +kernel) (by decide +kernel) (by decide +kernel), by decide +kernel⟩
/-- A barrier of three groups: lanes missing, the last of the members, and members missing. -/
theorem witness_Barriers_arrive : (let w := (sArrived.wgOf c0.g).getD fetchWorkgroup
    ((0xFFFFFFFF#32) &&& ~~~(Map.get 0 (w.barrier 16).lanes 0 ||| 0x7FFFFFFF) ≠ 0) ∧
    ((0xFFFFFFFF#32) &&& ~~~(Map.get 0 (w.barrier 16).lanes 0 ||| 0xFFFFFFFF) = 0 ∧
      w.barrierMembers 16 &&& ~~~(((w.barrier 16).arrived ||| laneBit 0) ||| w.exited) ≠ 0)) ∧
    (fetchWorkgroup.barrier 16).arrived ||| laneBit 0 ≠ 0 ∧
    fetchWorkgroup.barrierMembers 16 &&& ~~~(((fetchWorkgroup.barrier 16).arrived ||| laneBit 0) ||| fetchWorkgroup.exited) = 0 := by
  decide +kernel

/-- A barrier object of phase 2 at the end of shared memory, with one arrival missing and 3 bytes to come. -/
noncomputable def sObj (n : Word) : State := sr 1 0xC0000000000FFFF8 (sr 2 n { s0 with wgs := s0.wgs.map fun p => (p.1,
  { p.2 with shared := ((List.range 8).zip (valBytes 8 (objMake 2 0 1 1 3))).filterMap fun q =>
      if q.2 = 0 then none else some (0xFFFF8 + q.1, q.2) }) })
noncomputable def accsObj : List Access := [{ lane := 32, addr := 0xC0000000000FFFF8, size := 8 }]
theorem witness_Barriers_objects : ∀ n ∈ [2, 3, 4095, 4096, 2 ^ 27 - 1, 2 ^ 27],
    let s := sObj (.ofNat 64 n)
    let s1 := (ctx s).reached s accsObj
    mayCheck (ctx s) s { right := .atomic, priv := false } false false accsObj = true ∧ (ctx s).f.hold = .none ∧
    s1.updateFree (ctx s).g 0xC0000000000FFFF8 s1.nextOp = true ∧ s1.asksHome (vkey 0 0xC0000000000FFFF8) = false ∧
    okIs ((ctx s).objectRead s1 0xC0000000000FFFF8) (fun r => r.1 == objMake 2 0 1 1 3 &&
      okIs ((ctx s).objectRead r.2 0xC0000000000FFFF8) fun q => q.1 == objMake 2 0 1 1 3) = true ∧
    s1.partners (ctx s).g = [] ∧ s.mem.poison = [] := by decide +kernel
/-- A load of the object's word before it in flight; an object of a control line of another home. -/
noncomputable def sObjLoad : State := at_ 4 0 (next (sObj 2) (.lds 0 1 2))
noncomputable def sObjFar : State := sr 1 0x4000000000000300 (sr 2 2 sFar)
noncomputable def accsFar : List Access := [{ lane := 32, addr := 0x4000000000000300, size := 8 }]
theorem witness_Barriers_objectsHeld : mayCheck (ctx sObjLoad) sObjLoad { right := .atomic, priv := false } false false accsObj = true ∧
    sObjLoad.updateFree (ctx sObjLoad).g 0xC0000000000FFFF8 sObjLoad.nextOp = false ∧ (ctx sObjLoad).f.hold = .none ∧
    mayCheck (ctx sObjFar) sObjFar { right := .atomic, priv := false } false false accsFar = true ∧
    sObjFar.updateFree (ctx sObjFar).g 0x4000000000000300 sObjFar.nextOp = true ∧
    sObjFar.asksHome (vkey 0 0x4000000000000300) = true ∧ (ctx sObjFar).f.hold = .none ∧ sObjFar.partners (ctx sObjFar).g = [] := by
  decide +kernel
/-- One that was held before it updated; one whose request is on its way; one whose home has answered. -/
noncomputable def sObjOp (asked : Bool) (old : Option Nat) : State := (sObj 2).onGroup 0 fun g => g.onFrag 0 fun f =>
  { f with hold := .objectOp 0xC0000000000FFFF8 (.add 2) 5 asked old }
theorem witness_Barriers_objectsLater : ∀ h ∈ [(false, none), (true, none), (true, some (objMake 2 0 1 1 3))], let s := sObjOp h.1 h.2
    mayCheck (ctx s) s { right := .atomic, priv := false } false false accsObj = true ∧
    (ctx s).f.hold = .objectOp 0xC0000000000FFFF8 (.add 2) 5 h.1 h.2 := by decide +kernel
theorem witness_Barriers_objectRelease : (ctx (sObj 2)).Released ((ctx (sObj 2)).reached (sObj 2) accsObj) :=
  released_of (by decide +kernel) (by decide +kernel) (by decide +kernel)
/-- MBWAIT on phase 2 holds, and is issued again: at the priority of the object; at a higher one; when the phase is another. -/
noncomputable def sHeldObj : State := at_ 4 0 (next (sObj 2) (.mbwait 2 1))
theorem witness_Barriers_objectHeld : (ctx sHeldObj).f.hold = .object 0xC0000000000FFFF8 2 ∧
    mayCheck (ctx sHeldObj) sHeldObj { right := .atomic, priv := false } false false accsObj = true ∧
    okIs (((ctx sHeldObj).reached sHeldObj accsObj).objectLoad 0 0 0 0xC0000000000FFFF8) (fun r =>
      objPhase r.1 == 2 && decide (((ctx sHeldObj).reached sHeldObj accsObj).effPrio 0 ≤ objPrio r.1)) = true ∧
    (let s : State := { sHeldObj with queues := [((ctx sHeldObj).g.id.queue, { Queue.reset with prio := 8 })], wgs := sHeldObj.wgs.map fun p => (p.1, { p.2 with prio := 8 }) };
     objPrio (objMake 2 0 1 1 3) < s.effPrio 0) ∧
    (let s := sHeldObj.onWg 0 fun w => { w with shared := [] };
     (ctx s).f.hold = .object 0xC0000000000FFFF8 2 ∧
     okIs (((ctx s).reached s accsObj).objectLoad 0 0 0 0xC0000000000FFFF8) (fun r => objPhase r.1 == 0) = true) := by decide +kernel
theorem witness_Barriers_mon : (cA 0x80FFFF).MayAccess (sA 0x80FFFF) { right := .read, align := false, priv := false } false false
    [{ lane := 32, addr := (cA 0x80FFFF).g.s 1, size := 1 }] := may_of (by decide +kernel)
/-- No watch; one that waits; one that has fired; one that was lost; each with no timeout and with one that is over. -/
noncomputable def sWatch (w : Option Watch) (held : Option Nat) : State := s0.onGroup 0 fun g =>
  (({ g with work := { g.work with watch := w } } : Group)).onFrag 0 fun f =>
    match held with
    | none => f
    | some t => { f with wait := .held, hold := .watch 3 (some t) }
theorem witness_Barriers_mwait : (∀ w ∈ [none, some ⟨0x10000, false, false⟩, some ⟨0x10000, true, false⟩, some ⟨0x10000, false, true⟩],
      ∀ t ∈ [none, some 0, some 1], (sWatch w t).ctx?.isSome = true ∧ (ctx (sWatch w t)).g.work.watch = w ∧
        (ctx (sWatch w t)).f.hold = (t.elim Hold.none fun n => .watch 3 (some n))) ∧
    (sWatch none none).time8 = 0 ∧ (ctx (sWatch none none)).g.s 2 = 0 := by decide +kernel
theorem witness_Barriers_timeout : ∃ g f, Map.find? (sWatch none (some 0)).groups 0 = some g ∧ g.frag? 0 = some f ∧ f.wait = .held ∧
    f.hold = .watch 3 (some 0) ∧ 0 ≤ (sWatch none (some 0)).time8 := ⟨_, _, rfl, rfl, rfl, rfl, by decide⟩
theorem witness_Barriers_fire : ∃ g w, Map.find? (sWatch (some ⟨0x10000, false, false⟩) none).groups 0 = some g ∧ g.work.watch = some w ∧
    w.line = lineOf (0x80007F : Word).toNat := ⟨_, _, rfl, rfl, by decide +kernel⟩

/-- A 64-bit compare and swap at the end of the page, with four registers up to v127; the same in shared memory, in flight. -/
theorem witness_Atomics_local : (cA 0x80FFF8).MayAccess (sA 0x80FFF8) { right := .atomic, limit := false } true true (accsA 0x80FFF8 8) ∧
    atomicSize 0x13 = 8 ∧ (cA 0x80FFF8).Fits ((124, atomicRegs 0x13) :: runOff 127) ∧
    (cA 0x80FFF8).Clean (cA 0x80FFF8).active ((124, atomicRegs 0x13) :: runOff 127) ∧
    (cA 0x80FFF8).Sound (sA 0x80FFF8).uncount (accsA 0x80FFF8 8) ∧
    ((cA 0x80FFF8).reached (sA 0x80FFF8) (accsA 0x80FFF8 8)).landing = [] ∧ (cA 0x80FFF8).flagA.isSome = true :=
  ⟨may_of (by decide +kernel), rfl, fits_of (by decide +kernel), clean_of (by decide +kernel) _ _, sound_of (by decide +kernel) _,
    by decide +kernel, by decide +kernel⟩
noncomputable def sAtom : State := next (sA 0xC0000000000FFFF8) (.atom 0x13 127 1 124)
theorem witness_Atomics_serve : ∃ p l g w, (sAtom.pend.find? fun q => q.id == 0) = some p ∧ p.kind = .load l ∧ 3 ≤ l.kind ∧
    Map.find? sAtom.groups 0 = some g ∧ sAtom.wgOf g = some w ∧ (∀ q ∈ sAtom.pend, q.age = g.id.age → 0 ≤ q.id) ∧
    l.lowerFirst 0 0xC0000000000FFFF8 = false := ⟨_, _, _, _, rfl, rfl, by decide +kernel, rfl, rfl, by decide, by decide +kernel⟩

/-- A package of a rack of 512: lane 0 names package 511 and the others this one, with an address operand in s1. -/
noncomputable def sRack : State :=
  let e := fun (page : Nat) => ({ ctx := 0, page := page, rights := { rd := true, wr := true, at_ := true, ex := false, cls := 0 } } : PermEntry)
  let s := sA 0x80FFF8
  vr 8 511 0 { s with rackN := 512, cores := [(0, { s.core 0 with perms := e (511 * 2 ^ 32 + 0x80) :: (s.core 0).perms })] }
noncomputable abbrev cRack : Ctx := ctx sRack
theorem witness_Atomics_remote :
    cRack.MayAccess sRack { right := .atomic, limit := false, direct := false } false false (cRack.remoteAccesses true 1 8 8) ∧
    cRack.ackAccess true = [] ∧ cRack.Fits [(124, atomicRegs (remoteCode false 1)), (8, 1)] ∧
    cRack.Clean cRack.active [(124, atomicRegs (remoteCode false 1)), (8, 1)] ∧ cRack.flagA.isSome = true ∧
    (∀ l ∈ cRack.lanes, cRack.remoteBad true 1 8 l = false) ∧
    (∀ k ∈ cRack.remoteAccesses true 1 8 8, k.addr.toNat / 2 ^ 61 ≠ 2) ∧
    cRack.lanes ≠ [] :=
  ⟨may_of (by decide +kernel), by decide +kernel, fits_of (by decide +kernel), clean_of (by decide +kernel) _ _, by decide +kernel,
    by decide +kernel, by decide +kernel, by decide +kernel⟩
/-- The state that the sub-operations of an XAT reach, with room for both, and with room for one. -/
noncomputable def remotePumped (s : State) : State :=
  let c := ctx s
  let data := (c.atomicData 1 124 c.lanes).map fun p => (p.1, c.remoteAddr true 1 8 p.1, p.2)
  let peers := data.foldl (fun ps p => insertNat ps (pkgOf p.2.1)) []
  let s1 := c.reached s (c.remoteAccesses true 1 8 8)
  let ids := (List.range peers.length).map fun i => s1.nextOp + 1 + i
  let subs := (ids.zip peers).map fun p =>
    ({ id := p.1, entered := false, age := c.age, core := c.core, pc := c.pc, isRed := false, op := 1, peer := p.2, reg := c.g.vKey 124,
       bank := c.g.flow.trapMode, flag := c.flagA, ackbar := 0,
       limit := (s1.queue c.g.id.queue).retry, fp := 0, lines := remoteLines (data.filter fun q => pkgOf q.2.1 == p.2) } : RemoteSub)
  let s2 := c.launch (c.finish s1 id) c.flagA none (.xat ids)
  State.pumpRemote { s2 with nextOp := s2.nextOp + subs.length, remote := s2.remote ++ subs }
noncomputable def sTableFull : State := { sRack with remote := (List.range 31).map fun i =>
  { id := 1000 + i, entered := true, age := 0, core := 0, pc := 0, isRed := true, op := 1, peer := 511, reg := 0, bank := false,
    flag := none, ackbar := 0, limit := 8, fp := 0, lines := [] } }
theorem witness_Atomics_room : (remotePumped sRack).sending (ctx sRack).age = false ∧ (remotePumped sTableFull).sending (ctx sTableFull).age = true := by
  decide +kernel
/-- The same sub-operations, before they have their entries, with the highest tag next. -/
noncomputable def sXat0 : State := { sRack with
  cores := sRack.cores.map fun p => (p.1, { p.2 with tagCount := 65535 }),
  remote := (remotePumped sRack).remote.map fun r => { r with entered := false } }
theorem witness_Atomics_enter : ∃ r, sXat0.remote.head? = some r ∧ sXat0.peerGone r.peer = false ∧
    nextTags (sXat0.tagsUsed r.core) 65536 r.lines.length (sXat0.core r.core).tagCount = ([65535], 65536) := ⟨_, rfl, by decide +kernel, by decide +kernel⟩
/-- XRED with an object in shared memory; and with no lane in the guard. -/
noncomputable def sAck : State := sys (fun x => { x with ackbar := 0xC000000000000008 }) sRack
noncomputable def sGuard : State := s0.onGroup 0 fun g => g.onFrag 0 fun f => { f with header := some 0x40800001 }
theorem witness_Atomics_ack : (ctx sAck).MayAccess sAck { right := .atomic, limit := false, direct := false } false false
      ((ctx sAck).remoteAccesses true 1 8 8 ++ (ctx sAck).ackAccess true) ∧ ((ctx sAck).ackAccess true).length = 1 ∧
    (∀ k ∈ (ctx sAck).ackAccess true, sAck.ackbarBad k.addr = false) ∧ (ctx sGuard).lanes = [] ∧ sGuard.ctx? = some (ctx sGuard) :=
  ⟨may_of (by decide +kernel), by decide +kernel, by decide +kernel, by decide +kernel, here (by decide +kernel)⟩
theorem ok_of {ε α : Type} {x : Except ε α} (h : x.isOk = true) : ∃ a, x = .ok a := by
  cases x with
  | ok a => exact ⟨a, rfl⟩
  | error _ => simp [Except.isOk, Except.toBool] at h
/-- A request for a word of this package: of a context with the right, and without a table; with its line translated. -/
noncomputable def req0 : RemoteRequest := { src := 1, core := 0, tag := 7, ctx := 0, isRed := false, op := 0, lanes := [(31, 0x80FFFC, 1, 0)] }
theorem witness_Atomics_request : pkgOf 0x80FFFC = (sTab (sA 0)).pkg ∧ req0.src ∉ (sTab (sA 0)).fabric.lost ∧
    ((sA 0).walkRights 0 0x80FFFC).at_ = false ∧
    ¬ ((sTab (sA 0)).underShootdown (0x80FFFC : Word).toNat = true ∨ ((sTab (sA 0)).walkRights 0 0x80FFFC).at_ = false) ∧
    (sTab (sA 0)).remoteWaits req0 = false ∧ ((sTab (sA 0)).before (.remoteAtomicRequest req0)) = [] ∧
    (sTab (sA 0)).performedBefore req0 = none ∧ (sA 0).performedBefore req0 = none ∧
    ((sA 0).notePerformed req0 [(31, 5)] 0).performedBefore req0 = some { src := 1, core := 0, tag := 7, until_ := (sA 0).time8 + answerTime, olds := [(31, 5)], fp := 0 } := by
  decide +kernel
theorem witness_Atomics_ready : ∃ s1, ((sTab (sA 0)).served (.remoteAtomicRequest req0)).remoteReady 4 req0.lanes = .ok s1 :=
  ok_of (by decide +kernel)
/-- The XAT of lanes to two packages: sub-operation 1 to this one, whose requests were sent; one that was refused as often
as its limit says; one that waits for its time. -/
noncomputable def sXat : State := next sRack (.xat true 1 1 8 124)
noncomputable def sRefused (retries : Nat) (waiting : Bool) (at_ : Nat) : State :=
  sXat.onRemote 0 fun l => { l with retries := retries, waiting := waiting, sent := !waiting, retryAt := at_ }
theorem witness_Atomics_answers : (∃ r l, sXat.remoteOf 0 = some (r, l) ∧ l.over = false ∧ l.sent = true ∧ l.retries < r.limit) ∧
    (∃ r l, (sRefused 8 false 0).remoteOf 0 = some (r, l) ∧ l.over = false ∧ l.sent = true ∧ r.limit ≤ l.retries) ∧
    (∃ r l, (sRefused 1 true 0).remoteOf 0 = some (r, l) ∧ l.waiting = true ∧ l.retryAt ≤ (sRefused 1 true 0).time8) ∧
    ∃ r l, (sRefused 1 true 1).remoteOf 0 = some (r, l) ∧ l.waiting = true ∧ (sRefused 1 true 1).time8 < l.retryAt :=
  ⟨⟨_, _, rfl, by decide +kernel, by decide +kernel, by decide +kernel⟩, ⟨_, _, rfl, by decide +kernel, by decide +kernel, by decide +kernel⟩,
    ⟨_, _, rfl, by decide +kernel, by decide +kernel⟩, ⟨_, _, rfl, by decide +kernel, by decide +kernel⟩⟩

/-- What the checks of a command ask, as a decision. -/
noncomputable def wherryCheck (c : Ctx) (s : State) (recs : List (Shape × Bool)) (sides ends_ : List Side) (bar : BitVec 6) (count : Nat) : Bool :=
  recs.all (fun r => !r.1.bad r.2) && sides.all (fun d => !s.sideBad c.g d) && decide ((ends_.filter fun d => s.isRemote d.addr).length ≤ 1)
    && sides.all (fun d => !d.misaligned) && s.wherryRoom c.core c.age && match c.barOf bar with
      | none => true
      | some a => decide (space? a = some .shared ∧ a.toNat % 2 ^ 20 < s.sharedSize c.g ∧ a.toNat % 8 = 0 ∧ count < 2 ^ 27)
theorem wherry_of {c : Ctx} {s : State} {recs : List (Shape × Bool)} {sides ends_ : List Side} {bar : BitVec 6} {count : Nat}
    (h : wherryCheck c s recs sides ends_ bar count = true) : c.WherryOk s recs sides ends_ bar count := by
  simp only [wherryCheck, Bool.and_eq_true, decide_eq_true_eq, List.all_eq_true, Bool.not_eq_true'] at h
  obtain ⟨⟨⟨⟨⟨h1, h2⟩, h3⟩, h4⟩, h5⟩, h6⟩ := h
  refine ⟨h1, h2, h3, h4, ?_, h5⟩
  intro a ha
  simpa [ha] using h6

noncomputable abbrev cSh : Ctx := ctx sShapes
/-- The copies between shapes of 128 elements, with a barrier object in s4, to this package and to another. -/
theorem witness_CopyEngine_copy : (let d := cSh.shape 1; let k := cSh.shape 2
    cSh.WherryOk sShapes [(d, true), (k, false)] [d.side, k.side] [d.side, k.side] 4 d.total ∧ d.width = k.width ∧ d.count = k.count) ∧
    sShapes.ctx? = some cSh := ⟨⟨wherry_of (by decide +kernel), by decide +kernel, by decide +kernel⟩, here (by decide +kernel)⟩
theorem witness_CopyEngine_indexed : let d := cSh.shape 1; let k := cSh.shape 5; let x := cSh.shape 3
    x.fmt = 10 ∧ sShapes.isRemote x.base = false ∧ d.planes = 1 ∧ k.planes = 1 ∧ d.rowlen = k.rowlen ∧ d.width = k.width ∧
    cSh.WherryOk sShapes [(d, true), (k, false), (x, false)] [d.side, k.side, x.side] [d.side, k.side] 63 d.total ∧ x.count = d.rows ∧
    cSh.WherryOk sShapes [(d, true), (k, false), (x, false)] [d.side, k.side, x.side] [d.side, k.side] 4 k.total ∧ x.count = k.rows :=
  ⟨by decide +kernel, by decide +kernel, by decide +kernel, by decide +kernel, by decide +kernel, by decide +kernel,
    wherry_of (by decide +kernel), by decide +kernel, wherry_of (by decide +kernel), by decide +kernel⟩
theorem witness_CopyEngine_fill : cSh.WherryOk sShapes [(cSh.shape 1, true)] [(cSh.shape 1).side] [(cSh.shape 1).side] 4 (cSh.shape 1).total :=
  wherry_of (by decide +kernel)
theorem witness_CopyEngine_streams : (cSh.g.s 2).toNat % 64 = 0 ∧ (let k := cSh.shape 4
      let sides := [plainSide (cSh.g.s 2) (streamMax k.total), k.side]
      cSh.WherryOk sShapes [(k, false)] sides sides 4 k.total ∧ k.total % 4096 = 0) ∧
    (let d := cSh.shape 4; let sides := [d.side, plainSide (cSh.g.s 2) 64]; cSh.WherryOk sShapes [(d, true)] sides sides 4 d.total) :=
  ⟨by decide +kernel, ⟨wherry_of (by decide +kernel), by decide +kernel⟩, wherry_of (by decide +kernel)⟩
/-- Slot 127 of core 0 is the group's, and its tile 31. -/
noncomputable def sOwn : State := { sShapes with cores := [(0, { sShapes.core 0 with
  slots := [(100, Slot.mk [] (some 0) none 0), (127, Slot.mk [] (some 0) none 0)], tiles := [(31, Tile.mk [] (some 0) false 0)] })] }
theorem witness_CopyEngine_loado : (let k := (ctx sOwn).shape 4
      (ctx sOwn).WherryOk sOwn [(k, false)] [k.side] [k.side] 4 k.total ∧ k.total ≤ 16384) ∧
    (ctx sOwn).ownsSlot sOwn 127 = true ∧ (ctx sOwn).ownsSlot sOwn 0 = false :=
  ⟨⟨wherry_of (by decide +kernel), by decide +kernel⟩, by decide +kernel, by decide +kernel⟩
/-- ASTASH of a tile to k6, 192 columns of 64 rows, and k7, its transpose, in E4M3 with scales at s6. -/
noncomputable def sStash : State :=
  let rec_ := fun (rowlen rows : Nat) =>
    (BitVec.ofNat 128 (rowlen + rows * 2 ^ 16 + 1 * 2 ^ 32 + 0 * 2 ^ 48 + 5 * 2 ^ 53 + rowlen * 2 ^ 64) : BitVec 128)
  sr 5 0x808000 (sr 6 0x80F000 (sOwn.onGroup 0 fun g => { g with regs := { g.regs with k := g.regs.k ++ [(6, rec_ 192 64), (7, rec_ 64 192)] } }))
theorem witness_CopyEngine_stash : (let c := ctx sStash
    let copies : List (BitVec 3 × Nat × Nat) := [(6, 192, 64), (7, 64, 192)]
    let shapes := copies.map fun k => c.stashCopy k.1
    let sides := shapes.map (·.1.side) ++ shapes.map fun k => plainSide k.2 384
    c.WherryOk sStash (shapes.map fun k => (k.1, true)) sides [] 4 (shapes.map fun k => k.1.total + 384).sum ∧ c.ownsTile sStash 31 = true ∧
      c.stashOk sStash 0 true 31 copies = true) :=
  ⟨wherry_of (by decide +kernel), by decide +kernel, by decide +kernel⟩
theorem witness_CopyEngine_start : sShapes.goneSide [(cSh.shape 1).side] = none ∧ (Map.find? sShapes.groups cSh.age).isSome = true := by
  decide +kernel
/-- The command at distance 0, and none at distance 31. -/
theorem witness_CopyEngine_status : (∃ n w, (ctx sFill).g.wherryAt 0 = some n ∧ (sFill.wherry.find? fun w => w.id == n) = some w ∧
      w.active = true) ∧ (ctx sFill).g.wherryAt 31 = none ∧ (ctx sFill).flagA.isSome = true :=
  ⟨⟨_, _, rfl, rfl, by decide +kernel⟩, by decide +kernel, by decide +kernel⟩
noncomputable def sStat : State := next sShapes (.wstat 2 3)
theorem witness_CopyEngine_wstat : ∃ p sd cmd, (sStat.pend.find? fun p => p.id == 0) = some p ∧ p.kind = .wstat sd cmd := ⟨_, _, _, rfl, rfl⟩
theorem witness_CopyEngine_begin : ∃ w, firstStart (sFill.startPrio sFill.priorities) (sFill.startable 0) = some w := ⟨_, rfl⟩
/-- The fill runs to its end; one of a page without a translation stops; one without the right fails. -/
noncomputable def sRunBad (shape : BitVec 3) : State :=
  next (next (sr 1 0x810000 (sr 2 0x820000 { sMiss with groups := sShapes.groups, mem := { sMiss.mem with xlate := [] } })) (.wfill 63 3 shape))
    (.wherryCommandStart 0)
noncomputable def sRunning : State := next (next sShapes (.wfill 63 3 1)) (.wherryCommandStart 0)
noncomputable def firstW (s : State) : Wherry := s.wherry.headD
  { id := 9, core := 0, age := 0, wg := 0, ctx := 0, pc := 0, major := 0, minor := 0, order := 0, stream := false, bar := none, left := 0,
    state := .failed, detail := 0, done := 0, failAddr := 0, aop := none, retries := 0, buf := [], asked := false, waiting := false, retryAt := 0, refusal := 0, out := [],
    inTrap := false, body := .writes [] }
theorem witness_CopyEngine_run : (sRunning.wherry.find? fun w => w.id == 0) = some (firstW sRunning) ∧ (firstW sRunning).state = .running ∧
    (let r := sRunning.wherryRun (firstW sRunning) (2 ^ 42) (2 ^ 42); r.2.2.2.1 = none ∧ r.2.2.2.2 = true) ∧
    (let r := sRunning.wherryRun (firstW sRunning) 100 (2 ^ 42); r.2.2.2.1 = none ∧ r.2.2.2.2 = false) := by decide +kernel
theorem witness_CopyEngine_stops : (firstW (sRunBad 1)).state = .running ∧ (firstW (sRunBad 1)).asked = false ∧
    (match (sRunBad 1).wherryPiece (firstW (sRunBad 1)) with
      | .error (.fault _ _ _) => true
      | _ => false) = true ∧
    (firstW (sRunBad 2)).state = .running ∧ (match ((sRunBad 2).wherryRun (firstW (sRunBad 2)) (2 ^ 42) (2 ^ 42)).2.2.2.1 with
      | some (.fail _ _) => true
      | _ => false) = true := by decide +kernel
/-- Packets of one byte at the end of the page: without a translation, from a lost package, with nothing, and the answer to a command
that asked another package. -/
noncomputable def onePacket : List (Word × List Byte) := [(0x80FFFF, [7])]
noncomputable def sAsked : State :=
  let k : Shape := { cSh.shape 1 with base := 0x3000000000000 }
  { sRunning with rackN := 512, wherry := [{ firstW sRunning with asked := true, body := .copy (cSh.shape 1) k }] }
theorem witness_CopyEngine_packet : (1 : Nat) ∉ (sA 0).fabric.lost ∧ (sA 0).packetHere onePacket = true ∧
    (∀ r ∈ onePacket, (sA 0).underShootdown r.1.toNat = false) ∧ (∀ r ∈ onePacket, (sA 0).packetWaits r.1 r.2.length = false) ∧
    (sA 0).before (.wherryRemotePacket 1 false onePacket) = [] ∧
    (((sA 0).served (.wherryRemotePacket 1 false onePacket)).runsReady onePacket).isOk = true ∧
    ((sMiss.served (.wherryRemotePacket 1 false [(0x810000, [7])])).runsReady [(0x810000, [7])]).isOk = false ∧
    sRec.packetWaits 0x810000 1 = true ∧ (next sDown .shootdownStart).underShootdown (0x80FFFF : Word).toNat = true ∧
    (next sDown .shootdownStart).packetHere onePacket = true ∧
    ({ s0 with fabric := { s0.fabric with lost := [1] } } : State).fabric.lost = [1] ∧
    sAsked.isRemote 0x3000000000000 = true ∧
    (sAsked.wherry.find? fun w => w.state == .running && w.askedAddr == some 0x3000000000000).isSome = true := by decide +kernel
/-- A command of s's engine with another body. -/
noncomputable def bodyW (b : WherryBody) (buf : List Byte) (done : Nat) : Wherry := { firstW sRunning with body := b, buf := buf, done := done }
/-- A line of a copy, and of rows moved, is read and written. -/
noncomputable def lineMoves (w : Wherry) (n : Nat) (src dst : Nat → Word) : Bool :=
  let ps := linePositions dst w.done n
  decide (w.done < n) && okIs (sRunning.engineReads w (addrRuns (ps.map src))) fun r =>
    okIs (r.2.engineWrites w [(ps.map dst).zip r.1]) fun q => q.2.isEmpty
theorem witness_CopyEngine_values : (let d := cSh.shape 1; let k := cSh.shape 2
      sRunning.isRemote k.base = false ∧ lineMoves (bodyW (.copy d k) [] 127) d.total k.byteAddr d.byteAddr = true ∧
      lineMoves (bodyW (.moves d k [(7, 0)]) [] 15) d.rowBytes (fun p => k.byteAddr p) (fun p => d.byteAddr (7 * d.rowBytes + p)) = true ∧
      (let w := bodyW (.fill d 7) [] 127
       let ps := linePositions d.byteAddr w.done d.total
       decide (w.done < d.total) && okIs (sRunning.engineWrites w [ps.map fun p => (d.byteAddr p, (fillRow d 7).getD (p % d.rowBytes) 0)])
         fun q => q.2.isEmpty) = true ∧ d.rowlen * d.width % 8 = 0 ∧ sRunning.mem.late = [] ∧
      (firstW sRunning).stream = false ∧ (Map.find? sRunning.wgs (firstW sRunning).wg).isSome = true ∧
      [(0x80FFFF : Word), 0x80FFFE].map (memKey 0 0) = [0x80FFFF, 0x80FFFE]) := by decide +kernel
/-- The indexes of k3 are read, and are all there; a stream of no block, and one whose block count is wrong. -/
theorem witness_CopyEngine_indexes : (let i := cSh.shape 3; let d := cSh.shape 1; let w := bodyW (.gather d d i) [] 0
      ((w.buf.length < i.total ∧ sRunning.isRemote (i.byteAddr 0) = false) ∧
        (sRunning.engineRead w (i.byteAddr 0) (lineRoom (i.byteAddr 0) (i.rowBytes - 0 % i.rowBytes))).isOk = true)) ∧
    (cSh.shape 3).total ≤ (List.replicate 32 (7 : Byte)).length := by decide +kernel
/-- What is read of a stream of one block: a raw one, and one that is malformed. -/
noncomputable def rawStream (block : List Byte) : List Byte :=
  [1, 0, 0, 0, 0, 0, 0, 0, 0x50, 0x10] ++ List.replicate 54 0 ++ [9, 0, 0, 0] ++ block
theorem witness_CopyEngine_blocks : (match streamNext 4096 (rawStream ([8, 0x10, 1, 0, 0, 0, 0, 0] ++ List.replicate 4096 7)) with
      | .blocks l => (unpackStream (rawStream ([8, 0x10, 1, 0, 0, 0, 0, 0] ++ List.replicate 4096 7)) l).any fun b => b.length == 4096
      | _ => false) = true ∧
    (match streamNext 4096 (rawStream [8, 0, 0, 0, 0, 0, 0, 1]) with
      | .blocks l => (unpackStream (rawStream [8, 0, 0, 0, 0, 0, 0, 1]) l).isNone
      | _ => false) = true ∧
    streamNext 4096 (List.replicate 64 0) = .bad ∧ (cSh.shape 4).bad true = false ∧ (cSh.shape 4).total = 4096 := by decide +kernel
theorem witness_CopyEngine_written : (let l : List (Word × List Byte) := [(0x80FFFE, [1, 2])]
    cellsFrom l 1 4096 = [(0x80FFFF, 2)] ∧ okIs (sRunning.engineWrites (bodyW (.blocks l) [] 1) (lineGroups [(0x80FFFF, 2)])) (fun q => q.2.isEmpty) = true) := by
  decide +kernel
theorem witness_CopyEngine_block : (List.replicate 4096 (7 : Byte)).length = 4096 ∧ List.replicate 4096 (7 : Byte) ≠ [] :=
  ⟨List.length_replicate, List.ne_nil_of_length_pos (by rw [List.length_replicate]; decide)⟩

/-- A descriptor at control offset 0x400, its participants, packages 0 and 1, at 0x500, and an update block at 0x600; s5 and s6 name
the first and the last. -/
noncomputable def sDesc : State :=
  let s := sTab sRack
  let cells := ctlCells [(0x400, 0x4000000000000500), (0x408, 0x804000), (0x410, 0x805000), (0x418, 4 + 2 * 2 ^ 40), (0x420, 9), (0x428, 0),
    (0x430, 0), (0x438, 0), (0x500, 2), (0x508, 0x10000), (0x600, 0), (0x608, 0x806000), (0x610, 0x807000), (0x618, 0), (0x620, 0),
    (0x628, 0), (0x630, 0), (0x638, 0)]
  sr 4 0xC000000000000008 (sr 5 0x4000000000000400 (sr 6 0x4000000000000600 { s with mem := { s.mem with llc := s.mem.llc ++ cells } }))
noncomputable abbrev cDesc : Ctx := ctx sDesc
/-- What a descriptor, its list and an update block must be for any of the six commands. -/
noncomputable def ferryGood (d : List Word) (l : FerryList) (u : List Byte) : Bool :=
  space? (d.getD 0 0) == some .control && [d.getD 1 0, d.getD 2 0].all (fun k => !sDesc.isRemote k && sDesc.ferryPlace k)
    && (List.range 6).all (fun kind => !ferryBad 0 kind d l) && l.members == [0, 1] && l.members.all (fun p => !sDesc.peerGone p)
    && [(wordsOf u).getD 1 0, (wordsOf u).getD 2 0].all fun k => k.toNat % 4 == 0 && space? k == some .tensor && !sDesc.isRemote k
theorem witness_Collectives_reads : ∃ d, cDesc.readDescriptor sDesc 0x4000000000000400 = .ok d ∧ ∃ l, cDesc.readList d.2 (d.1.getD 0 0) = .ok l ∧
    ∃ u, cDesc.readRight l.2 0x4000000000000600 64 = .ok u ∧
      ((cDesc.checkReadable d.2 0x4000000000000400 64).isOk && ferryGood d.1 l.1 u.1) = true := by
  have h : okIs (cDesc.readDescriptor sDesc 0x4000000000000400) (fun d => okIs (cDesc.readList d.2 (d.1.getD 0 0)) fun l =>
    okIs (cDesc.readRight l.2 0x4000000000000600 64) fun u =>
      (cDesc.checkReadable d.2 0x4000000000000400 64).isOk && ferryGood d.1 l.1 u.1) = true := by decide +kernel
  obtain ⟨d, hd, h⟩ := of_okIs h
  obtain ⟨l, hl, h⟩ := of_okIs h
  obtain ⟨u, hu, h⟩ := of_okIs h
  exact ⟨d, hd, l, hl, u, hu, h⟩
theorem witness_Collectives_issue : sDesc.ctx? = some cDesc ∧
    (0x4000000000000400 : Word).toNat % 64 = 0 ∧ sDesc.ferryPlace 0x4000000000000400 = true ∧ (0x4000000000000600 : Word).toNat % 64 = 0 ∧
    sDesc.ferryPlace 0x4000000000000600 = true ∧ sDesc.ferryRoom = true ∧ cDesc.barOf 4 = some 0xC000000000000008 ∧
    space? (0xC000000000000008 : Word) = some .shared ∧ (0xC000000000000008 : Word).toNat % 2 ^ 20 + 8 * 2 ≤ sDesc.sharedSize cDesc.g ∧
    cDesc.barOf 63 = none := by
  refine ⟨here (by decide +kernel), ?_⟩; decide +kernel
/-- FSHARD at the last object of shared memory; misaligned; beyond its size. -/
theorem witness_Collectives_shard : space? (0xC0000000000FFFF8 : Word) = some .shared ∧
    (0xC0000000000FFFF8 : Word).toNat % 2 ^ 20 < s0.sharedSize c0.g ∧ (0xC0000000000FFFF8 : Word).toNat % 8 = 0 ∧
    space? (0xC0000000000FFFF9 : Word) = some .shared ∧ (0xC0000000000FFFF9 : Word).toNat % 2 ^ 20 < s0.sharedSize c0.g ∧
    (0xC0000000000FFFF9 : Word).toNat % 8 ≠ 0 ∧ space? (0xC000000000100000 : Word) ≠ some .shared := by decide +kernel
/-- FRS of this package with package 1; a partner that agrees, one that does not; the command once it is matched, and once its
shard is there. -/
noncomputable def sFerry : State := next sDesc (.frs 63 5)
noncomputable def firstF (s : State) : Ferry := s.ferry.headD
  { id := 9, age := 0, wg := 0, ctx := 0, pc := 0, kind := 0, list := 0, src := 0, dst := 0, count := 0, width := 0, op := 0, tag := 0,
    members := [], order := 0, runLen := 0, update := [], bar := none, shard := none, matched := false, out := [], arrived := [], unacked := [], fp := 0,
    inTrap := false }
noncomputable def partner (count : Nat) : FerryPartner :=
  { position := 1, kind := 0, count := count, width := 2, op := 0, data := List.replicate 32 0, detail := 0 }
theorem witness_Collectives_match : (sFerry.ferry.find? fun (c : Ferry) => c.id == 0) = some (firstF sFerry) ∧ (firstF sFerry).matched = false ∧
    (firstF sFerry).allThere 0 [partner 4] = true ∧ (firstF sFerry).allThere 0 [partner 5] = true ∧ sFerry.inbox = [] ∧
    sFerry.firstFerry (firstF sFerry) = true ∧
    sFerry.matchWaits (firstF sFerry) = false ∧ (partner 4).detail = 0 ∧
    (firstF sFerry).disagrees (partner 4) = false ∧ (firstF sFerry).disagrees (partner 5) = true := by decide +kernel
noncomputable def sMatched : State := next sFerry (.ferryMatch 0 [partner 4])
noncomputable def sUnwritten : State := { sMatched with ferry := sMatched.ferry.map fun c => { c with arrived := [], unacked := [] } }
theorem witness_Collectives_arrive : (sUnwritten.ferry.find? fun (c : Ferry) => c.id == 0) = some (firstF sUnwritten) ∧
    (firstF sUnwritten).matched = true ∧ 0 ∈ (firstF sUnwritten).missing ∧ sUnwritten.shardWaits (firstF sUnwritten) 0 = false ∧
    1 ∉ (firstF sUnwritten).missing ∧ (firstF sUnwritten).unacked = [] ∧
    (sMatched.ferry.find? fun (c : Ferry) => c.id == 0) = some (firstF sMatched) ∧ (firstF sMatched).matched = true ∧
    (firstF sMatched).missing = [] ∧ (firstF sMatched).unacked ≠ [] := by decide +kernel
/-- The own source and its shares; an update of weights and of the first state, which do not overlap. -/
noncomputable def sUpdate : State := next sDesc (.fupd 63 6 5)
theorem witness_Collectives_effects : (firstF sFerry).kind ≠ 5 ∧ (firstF sUpdate).kind = 5 ∧
    okIs (sFerry.ferrySource (firstF sFerry)) (fun r => okIs (r.2.ferryEffect (firstF sFerry)
      ((firstF sFerry).sources sFerry.pkg r.1 [partner 4])) fun q => q.2.1.length == 1) = true ∧
    (firstF sUpdate).field 0 = 0 ∧ (firstF sUpdate).op = 0 ∧
    okIs (sUpdate.ferryRead 0x806000 (4 * (firstF sUpdate).count)) (fun r => okIs (r.2.ferryRead 0x807000 (4 * (firstF sUpdate).count))
      fun _ => true) = true ∧
    (firstF sUpdate).update.getD 1 0 = 0x806000 ∧ (firstF sUpdate).update.getD 2 0 = 0x807000 ∧
    overlap 0x806000 (4 * (firstF sUpdate).count) 0x807000 (4 * (firstF sUpdate).count) = false ∧
    (∀ y ∈ [(3 : Nat), 2 ^ 32 - 1], y < 2 ^ 32) := by decide +kernel
theorem witness_Collectives_updates : okIs (sUpdate.updateShard (firstF sUpdate) (List.replicate 4 0, 0)) (fun q => q.2.1.length == 16) = true ∧
    (({ sUpdate with mem := { sUpdate.mem with xlate := [] } } : State).updateShard (firstF sUpdate) (List.replicate 4 0, 0)).isOk = false := by
  decide +kernel
theorem witness_Collectives_written : ((firstF sUnwritten).bar.all fun a => a.toNat / 2 ^ 61 == 6) = true ∧
    ((firstF sUnwritten).shard.all fun a => (a + BitVec.ofNat 64 (8 * 0)).toNat / 2 ^ 61 == 6) = true ∧
    ((firstF sUnwritten).out.getD 0 [])[0]?.isSome = true := by decide +kernel

/-- Runs of 128 slots and of 32 tiles, of one object at the end, and any run of two; words and counts that name none. -/
theorem witness_OperandObjects_runs : [(false, 0, 128), (true, 0, 32), (false, 127, 1), (true, 31, 1), (false, 128, 2), (true, 128, 2)].all
      (fun k => !runWordBad k.1 k.2.1 k.2.2) = true ∧
    [(false, 1, 128), (true, 1, 32), (false, 0, 0), (true, 0, 33), (false, 256, 1), (true, 32, 1), (false, 129, 1)].all
      (fun k => runWordBad k.1 k.2.1 k.2.2) = true := by decide +kernel
theorem witness_OperandObjects_claims : sOwn.ctx? = some (ctx sOwn) ∧ sOwn.claimFirst 0 false 127 1 = none ∧
    sOwn.claimFirst 0 false 128 27 = some 0 ∧ sOwn.claimFirst 0 true 128 31 = some 0 ∧ sOwn.claimFirst 0 true 128 32 = none ∧
    127 / 2 ^ 7 % 2 = 0 ∧ sOwn.ownerOf 0 false 127 = some (ctx sOwn).age ∧ sOwn.ownerOf 0 true 31 = some (ctx sOwn).age ∧
    (sOwn.core 0).aops = [] ∧ ((List.range 2).map (126 + ·)).find? (fun i => sOwn.ownerOf 0 false i != some 0) = some 126 := by
  refine ⟨here (by decide +kernel), ?_⟩; decide +kernel
/-- A claim that zeros; a release that a Wherry load of the slot holds up, and one without. -/
noncomputable def sClaim : State := next (sr 1 128 (sr 2 3 sOwn)) (.oclaim 2 1 3)
noncomputable def sRelease : State := next (sr 1 127 (sr 2 1 { sOwn with cores := [(0, { sOwn.core 0 with aops :=
  [{ id := 0, age := 0, cls := 0, queued := false, op := .oput 127 0 [] }] })], nextOp := 1 })) (.orel 2 1)
theorem witness_OperandObjects_held : (∃ g f, Map.find? sClaim.groups 0 = some g ∧ g.frag? 0 = some f ∧ f.wait = .held ∧ f.hold = .claiming) ∧
    ({ sRelease with cores := sRelease.cores.map fun p => (p.1, { p.2 with aops := [] }) } : State).releaseOf 0 false 127 = some (0, 1) ∧
    sRelease.objectBusy 0 false 127 1 = true ∧ sRelease.objectBusy 0 false 127 0 = false ∧
    sRelease.ownerOf 0 false 127 = some 0 := ⟨⟨_, _, rfl, rfl, rfl, rfl⟩, by decide +kernel⟩
/-- The last 1,024 bytes of slot 127 by registers v56 to v63; one register more is no word; a slot of no owner. -/
theorem witness_OperandObjects_moves : (ctx sOwn).Fits [(56, 8)] ∧ (ctx sOwn).Clean (ctx sOwn).f.lanes [(56, 8)] ∧
    (ctx sOwn).ownsSlot sOwn ((127 + 120 * 128) % 128) = true ∧ slotWordBad (127 + 120 * 128) 8 = false ∧
    slotWordBad (127 + 121 * 128) 8 = true ∧ (ctx sOwn).flagA.isSome = true ∧ (ctx sOwn).ownsSlot sOwn 0 = false ∧
    (sOwn.core 0).aops = [] ∧ 16380 + 4 ≤ 16384 :=
  ⟨fits_of (by decide +kernel), clean_of (by decide +kernel) _ _, by decide +kernel, by decide +kernel, by decide +kernel, by decide +kernel,
    by decide +kernel, by decide +kernel, by decide⟩
theorem witness_OperandObjects_checks : (ctx sOwn).checkLoading sOwn [127] = .ok () ∧ (ctx sOwn).checkSlotEcc sOwn 127 (fun _ => true) = .ok () ∧
    (ctx sOwn).checkTileEcc sOwn 31 (fun _ => true) = .ok () := ⟨rfl, rfl, rfl⟩
/-- The last eight rows of tile 31, to v16 and on; ADRAIN.o to slot 127; a tile and a slot number of no owner. -/
theorem witness_OperandObjects_drains : (let w := 56 + 7 * 2 ^ 8; w / 2 ^ 6 % 4 = 0 ∧ w / 2 ^ 11 = 0 ∧ w % 64 + (w / 2 ^ 8 % 8 + 1) ≤ 64) ∧
    (ctx sOwn).Fits [(16, 6 * 8)] ∧ (ctx sOwn).ownsTile sOwn 31 = true ∧ (ctx sOwn).ownsTile sOwn 30 = false ∧
    (ctx sOwn).ownsSlot sOwn 127 = true ∧ 128 ≤ (128 : Nat) ∧ (sOwn.tile 0 31).i32 = false :=
  ⟨by decide, fits_of (by decide +kernel), by decide +kernel, by decide +kernel, by decide +kernel, by decide, by decide +kernel⟩

/-- The group owns what MMA needs: slots 0, 100, 101 and 127 and tile 31, with a BF16 word in v5 and a sparse one in v6. -/
noncomputable def sMma : State :=
  let word := fun (n : Nat) (w : Lane) => (List.range 32).map fun l => (32 * n + l, w)
  ({ s0 with cores := [(0, { s0.core 0 with slots := [0, 100, 101, 127].map fun i => (i, Slot.mk [] (some 0) none 0),
                                              tiles := [(31, Tile.mk [] (some 0) false 0)] })] }).onGroup 0 fun g =>
    g.setCells (word 5 0x44 ++ word 6 0x444)
noncomputable abbrev cMma : Ctx := ctx sMma
theorem witness_ArrayAndGangs_mma : sMma.ctx? = some cMma ∧ cMma.g.flow.trapMode = false ∧ cMma.f.lanes ≠ 0 ∧
    (let w := 127 + 100 * 2 ^ 8; stepWordBad w false = false ∧ w % 128 = 127 ∧ w / 2 ^ 8 % 128 = 100 ∧ stepCount w = 1) ∧
    (let w := 127 + 100 * 2 ^ 8; stepWordBad w true = false) ∧ cMma.ownsTile sMma 31 = true ∧
    [0, 127].all (cMma.ownsSlot sMma) = true ∧ (lanesOf cMma.f.lanes).all (fun l => cMma.g.v 5 l == 0x44 && cMma.g.v 6 l == 0x444) = true ∧
    formatBad 0x44 false false = false ∧ formatBad 0x444 true false = false ∧ fwSlots 0x44 = 1 ∧ fwSlots 0x444 = 2 ∧
    [100, 101].all (fun x => decide (x ≤ 127) && cMma.gangOwns sMma x) = true ∧ 1 ≤ fwLargest 0x44 ∧ 1 ≤ fwLargest 0x444 ∧
    fwScale 0x44 = false ∧ cMma.g.sys.gang.valid = false ∧ sMma.badAxisB 0 0x44 100 1 = none ∧ sMma.badAxisB 0 0x444 100 2 = none ∧
    sMma.arrayRoom 0 = true := by refine ⟨here (by decide +kernel), ?_⟩; decide +kernel
theorem witness_ArrayAndGangs_checks : cMma.Fits [(5, 1)] ∧ cMma.Clean cMma.f.lanes [(5, 1)] ∧
    cMma.checkOperands sMma [127, 100] 31 = .ok () ∧ cMma.checkLoading sMma [127, 0, 100, 101] = .ok () :=
  ⟨fits_of (by decide +kernel), clean_of (by decide +kernel) _ _, rfl, rfl⟩
/-- A full array queue; and the MMA that waits for it. -/
noncomputable def sQueued : State :=
  let e := fun (i : Nat) => ({ id := i, age := 9, cls := 0, queued := true, op := .azero 9 } : ObjectEntry)
  sr 3 (127 + 100 * 2 ^ 8) { sMma with cores := sMma.cores.map (fun p => (p.1, { p.2 with aops := (List.range 32).map e })), nextOp := 32 }
theorem witness_ArrayAndGangs_full : sQueued.arrayRoom 0 = false := by decide +kernel
noncomputable def sArrayHeld : State := { next sQueued (.mma 31 5 4 3) with cores := sMma.cores }
theorem witness_ArrayAndGangs_entry : ∃ g f, Map.find? sArrayHeld.groups 0 = some g ∧ g.frag? 0 = some f ∧ sArrayHeld.arrayRoom g.id.core = true ∧
    sArrayHeld.latchedOf g = none ∧ f.wait = .held ∧ f.hold = .arrayRoom := ⟨_, _, rfl, rfl, by decide +kernel, by decide +kernel, rfl, rfl⟩
/-- Two groups of a workgroup whose cohort 15 is a gang, or a pair. -/
noncomputable def sGang (e : Word) (g : GangReg) : State :=
  let mate := fun (age num : Nat) (g : Group) => { g with id := { g.id with age := age, num := num, slot := num } }
  let g0 := (Map.find? sMma.groups 0).getD noCtx.g
  let g1 : Group := { g0 with sys := { g0.sys with gang := g } }
  let t1 := Slot.mk [] (some 1) none 0
  { sMma with groups := [(0, mate 0 0 g1), (1, mate 1 1 g1)],
              cores := sMma.cores.map (fun p => (p.1, { p.2 with slots := Map.insert p.2.slots 126 t1, tiles := (30, Tile.mk [] (some 1) false 0) :: p.2.tiles })),
              wgs := sMma.wgs.map fun p => (p.1, { p.2 with groups := 2, cohorts := List.replicate 16 e, hasTable := true }) }
noncomputable def gangWord : Word := 0x300000003
theorem witness_ArrayAndGangs_gangset : (sGang gangWord .none).gangCohort (ctx (sGang gangWord .none)).g 15 false = some 3 ∧
    (sGang gangWord .none).gangCohort (ctx (sGang gangWord .none)).g 15 true = none ∧
    (sGang (gangWord + 0x400000000) .none).gangCohort (ctx (sGang (gangWord + 0x400000000) .none)).g 0 true = some 3 ∧
    (sGang (gangWord + 0x400000000) .none).gangCohort (ctx (sGang (gangWord + 0x400000000) .none)).g 0 false = none ∧
    (sGang gangWord .none).partners (ctx (sGang gangWord .none)).g = [] ∧ (ctx sT).g.flow.trapMode = true ∧ s0.partners c0.g = [] := by
  decide +kernel
/-- A member of a gang; of a pair. -/
noncomputable def sMember (pair : Bool) : State := sr 3 (127 + 100 * 2 ^ 8) (sGang (gangWord + if pair then 0x400000000 else 0) ⟨true, pair, 15, 3⟩)
theorem witness_ArrayAndGangs_member : [false, true].all (fun pair => let s := sMember pair
      (ctx s).g.sys.gang.valid && (s.exitedMember (ctx s).g).isNone && (s.latchedOf (ctx s).g).isNone && (ctx s).ownsTile s 31
        && (ctx s).ownsSlot s 127 && (ctx s).gangOwns s 100 && (s.partners (ctx s).g).isEmpty && s.ctx?.isSome) = true ∧
    (ctx (sMember true)).g.sys.gang.pair = true ∧ ((sMember true).tile 0 31).i32 = false := by decide +kernel
theorem witness_ArrayAndGangs_memberChecks : (ctx (sMember true)).checkTileEcc (sMember true) 31 (fun _ => true) = .ok () := rfl
/-- Table 13.4: HALT at one member of a pair; its partner is another group, and is halted too. -/
theorem witness_HaltsAndMarks_pair : (sMember true).pairOf (ctx (sMember true)).g = [1] ∧
    (Map.find? (sMember true).groups 1).any (fun g => !g.id.halted) ∧
    (Map.find? (next (sMember true) .halt).groups 1).any (fun g => g.id.halted) := by decide +kernel
/-- Both members have latched: MMA of one K-step by a gang; two guided drains by a pair; and a gang whose format words differ. -/
noncomputable def sLatch (pair : Bool) (i j : Instr) : State :=
  let s1 := next (sMember pair) i
  let c : Cur := { age := 1, entry := 0, len := 4, word := 0, packed := false }
  next ({ s1 with cur := some c }.onGroup 1 fun g => g.setS 3 (126 + 100 * 2 ^ 8)) j
theorem witness_ArrayAndGangs_latch :
    ((sLatch false (.mma 31 5 4 3) (.mma 30 5 4 3)).fullLatch 0 0 15).any (fun ls =>
      ls.length == 2 && ((sLatch false (.mma 31 5 4 3) (.mma 30 5 4 3)).latchTrap 0 ls).isNone) = true ∧
    ((sLatch true (.adrainG 31) (.adrainG 30)).fullLatch 0 0 15).any (fun ls =>
      ls.length == 2 && ((sLatch true (.adrainG 31) (.adrainG 30)).latchTrap 0 ls).isNone) = true ∧
    ((sLatch true (.adrainG 31) (.mma 30 5 4 3)).fullLatch 0 0 15).any (fun ls =>
      ((sLatch true (.adrainG 31) (.mma 30 5 4 3)).latchTrap 0 ls).isSome) = true := by decide +kernel
/-- An MMA of one step, and of two, before the array; a guided drain. -/
theorem witness_ArrayAndGangs_steps : (let s := next (sr 3 (127 + 100 * 2 ^ 8) sMma) (.mma 31 5 4 3);
      (s.arrayNext 0).any (fun e => match e.op with
        | .mma _ _ _ _ steps n _ => decide (steps ≤ n + 1)
        | _ => false)) = true ∧
    (let s := next (sr 3 (127 + 100 * 2 ^ 8 + 2 ^ 24) sMma) (.mma 31 5 4 3);
      (s.arrayNext 0).any (fun e => match e.op with
        | .mma _ _ _ _ steps n _ => decide (n + 1 < steps)
        | _ => false)) = true := by decide +kernel
noncomputable def sGuided : State := next (sLatch true (.adrainG 31) (.adrainG 30)) (.gangLatchOpen 0 15)
theorem witness_ArrayAndGangs_guided : (sGuided.core 0).aops.any (fun e => sGuided.objectReady 0 e && match e.op with
    | .guided _ _ _ _ _ _ _ _ => true
    | _ => false) = true := by decide +kernel
theorem witness_ArrayAndGangs_batches : s0.partners c0.g = [] ∧ (Map.find? s0.groups 0).isSome = true ∧
    (ctx (next (sr 3 (127 + 100 * 2 ^ 8) sMma) (.mma 31 5 4 3))).g.work.openOps ≠ [] := by decide +kernel

/-- A launch record of queue 1023 at control offset 0x700, with no cohort table, and at 0x740 with one of undefined entries at 0x780. -/
noncomputable def sLaunch (off pending : Nat) : State :=
  let s := sTab sRack
  let r := fun (cohorts : Nat) (at_ : Nat) => [(at_, 0x800000), (at_ + 8, 0x100010001), (at_ + 16, 7), (at_ + 24, 1023 * 2 ^ 31), (at_ + 32, cohorts),
    (at_ + 40, 0), (at_ + 48, 0), (at_ + 56, 0)]
  let cells := ctlCells (r 0 0x700 ++ r 0x4000000000000780 0x740 ++ (List.range 16).map fun i => (0x780 + 8 * i, 0))
  let l : Launch := { id := 0, queue := 1023, ctx := 0, words := [], cohorts := [], next := 0, retired := 0, since := 0 }
  let q : Queue := { Queue.reset with gle := true, en := true, pending := List.replicate pending l }
  sr 1 (.ofNat 64 (0x4000000000000000 + off)) { s with mem := { s.mem with llc := s.mem.llc ++ cells }, queues := [(1023, q)] }
/-- What the record must be, and its table. -/
noncomputable def launchGood (s : State) (c : Ctx) (l : List Byte) : Bool :=
  let r := wordsOf l
  (s.queue (recQueue r)).gle && (s.queue (recQueue r)).ctx == c.ctx && !recordBad r
theorem witness_Launches_record : (sLaunch 0x700 63).ctx? = some (ctx (sLaunch 0x700 63)) ∧
    ∃ l, (ctx (sLaunch 0x700 63)).readRight (sLaunch 0x700 63) 0x4000000000000700 64 = .ok l ∧
      (launchGood (sLaunch 0x700 63) (ctx (sLaunch 0x700 63)) l.1 && recCohorts (wordsOf l.1) == 0 && recQueue (wordsOf l.1) == 1023
        && !l.2.launchBefore (ctx (sLaunch 0x700 63)).age ((ctx (sLaunch 0x700 63)).opLimit l.2)) = true :=
  ⟨here (by decide +kernel), of_okIs (by decide +kernel)⟩
theorem witness_Launches_table : ∃ l, (ctx (sLaunch 0x740 64)).readRight (sLaunch 0x740 64) 0x4000000000000740 64 = .ok l ∧
    (launchGood (sLaunch 0x740 64) (ctx (sLaunch 0x740 64)) l.1 && recCohorts (wordsOf l.1) == 0x4000000000000780
      && okIs ((ctx (sLaunch 0x740 64)).readRight l.2 0x4000000000000780 128) fun t =>
        !tableBad (recGroups (wordsOf l.1)) (wordsOf t.1) && !t.2.launchBefore (ctx (sLaunch 0x740 64)).age ((ctx (sLaunch 0x740 64)).opLimit t.2)) = true :=
  of_okIs (by decide +kernel)
theorem witness_Launches_checks : (let s := sLaunch 0x740 64; let c := ctx s
    s.spaceBad c.g { right := .read } { lane := 32, addr := 0x4000000000000740, size := 64 } = false ∧
    s.isRemote 0x4000000000000740 = false ∧ (0x4000000000000740 : Word).toNat % 64 = 0 ∧
    s.spaceBad c.g { right := .read } { lane := 32, addr := 0x4000000000000780, size := 128 } = false ∧
    s.isRemote 0x4000000000000780 = false ∧ c.g.flow.trapMode = false ∧ c.flagA.isSome = true ∧
    (s.queue 1023).pend = 64 ∧ ((sLaunch 0x700 63).queue 1023).pend = 63) ∧ (ctx sT).g.flow.trapMode = true ∧ (ctx sT).flagA = none := by
  decide +kernel
theorem witness_Launches_trigger : s0.ctx? = some c0 ∧ c0.g.flow.trapMode = false ∧ c0.Released s0 ∧ (Map.find? s0.groups 0).isSome = true :=
  ⟨here0, by decide +kernel, released_of (by decide +kernel) (by decide +kernel) (by decide +kernel), by decide +kernel⟩
/-- PRIO of queue 1023 at level 15, and beyond. -/
theorem witness_Launches_prio : (ctx sT).g.flow.trapMode = true ∧ (1023 : Word).toNat < 1024 ∧ (15 : Word).toNat ≤ 15 ∧
    1024 ≤ (1024 : Word).toNat ∧ 15 < (16 : Word).toNat := by decide +kernel
/-- A port write of the last byte; of one before; to a queue that is full, and to one in reset. -/
noncomputable def sReset (rbusy : Bool) : State := { s0 with queues := [(5, { Queue.reset with rbusy := rbusy })] }
theorem witness_Launches_port : ((sReset true).queue 5).rbusy = true ∧ ((sReset false).queue 5).rbusy = false ∧
    (56 ≤ 63 ∧ 63 < 56 + (valBytes (min 8 8) 7).length) ∧ ¬ (55 ≤ 63 ∧ 63 < 55 + (valBytes (min 8 8) 7).length) ∧
    ¬ (64 ≤ 63 ∧ 63 < 64 + (valBytes (min 8 8) 7).length) ∧ ((sReset false).queue 5).pend < 64 ∧
    64 ≤ ((sLaunch 0x740 64).queue 1023).pend := by decide +kernel
theorem witness_Launches_start : ((sLaunch 0x700 1).queue 1023).mayStart = true ∧ (∃ l, ((sLaunch 0x700 1).queue 1023).pending = [l]) ∧
    (let s : State := { s0 with queues := [(5, { Queue.reset with pending := ((sLaunch 0x700 1).queue 1023).pending })] }
     (s.queue 5).mayStart = false ∧ (s.queue 5).pending ≠ []) := ⟨by decide +kernel, ⟨_, rfl⟩, by decide +kernel⟩
/-- QRES with 224 blocks in all, and with 225. -/
theorem witness_Launches_reserve : (let s : State := { s0 with queues := [(0, { Queue.reset with rh := 1, rf := 224 })] }
    let others := s.queues.filter fun p => p.1 != 1023
    ¬ (224 < 223 + (others.map fun p => p.2.rh).sum ∨ 224 < 0 + (others.map fun p => p.2.rf).sum) ∧
    (224 < 224 + (others.map fun p => p.2.rh).sum)) ∧ ((sReset true).queue 5).rbusy = true := by decide +kernel

/-- 512 registers: no more; no fewer than 32; in trap mode. -/
noncomputable def sAlloc (n : Nat) (k : Word) : State := sr 1 k (s0.onGroup 0 fun g => { g with regs := { g.regs with alloc := n } })
theorem witness_Growth_sizes : (sAlloc 512 32).ctx?.isSome = true ∧ (ctx (sAlloc 512 32)).g.flow.trapMode = false ∧
    512 < (ctx (sAlloc 512 32)).g.regs.alloc + 32 ∧ (ctx (sAlloc 480 32)).g.regs.alloc + 32 ≤ 512 ∧
    (ctx (sAlloc 32 32)).g.regs.alloc < 32 + 32 ∧ 480 + 32 ≤ (ctx (sAlloc 512 480)).g.regs.alloc ∧ (sAlloc 512 480).pend = [] ∧
    ((ctx (sAlloc 512 480)).g.s 1).toNat = 480 ∧ ((ctx (sAlloc 512 0)).g.s 1).toNat = 0 ∧ (33 : Word).toNat % 32 ≠ 0 ∧
    (ctx sT).g.flow.trapMode = true := by decide +kernel
theorem witness_Growth_cohorts : (s0.wgOf c0.g).isSome = true ∧ 16 ≤ (16 : Word).toNat ∧ (15 : Word).toNat < 16 := by decide +kernel
/-- A request on the grant list: with room; and with none, where every group of the core asks, and where another group can leave. -/
noncomputable def sGrow : State := next (sAlloc 480 32) (.rgrow 1)
noncomputable def sStall : State :=
  let g := (Map.find? sGrow.groups 0).getD noCtx.g
  let more := fun (n : Nat) => (n, ({ g with id := { g.id with age := n, slot := n }, regs := { g.regs with alloc := 512 } } : Group))
  { sGrow with groups := (0, g) :: ((List.range 31).map fun i => more (i + 1)) ++ [(32, { (more 32).2 with regs := { g.regs with alloc := 32 } })],
               cores := sGrow.cores.map fun p => (p.1, { p.2 with idle := 4096 }) }
theorem witness_Growth_grant : ∃ r rest g, (sGrow.core 0).grow = r :: rest ∧ Map.find? sGrow.groups r.age = some g ∧ sGrow.growReady 0 = true :=
  ⟨_, _, _, rfl, rfl, by decide +kernel⟩
theorem witness_Growth_stall : (sStall.core 0).grow.length = 1 ∧ sStall.growReady 0 = false ∧ sStall.growStalled 0 = true ∧
    (Map.find? sStall.groups 0).any (fun own => !(((sStall.coreGroups 0).filter fun p =>
      !((sStall.gangOf own).map (·.1)).contains p.1 && p.2.id.saving == 0).reverse).isEmpty) = true := by decide +kernel
/-- No group that is starved; one whose fragment was held for 272 cycles, alone in its sub-core and with another. -/
noncomputable def sStarved : State :=
  let s := s0.onGroup 0 fun g => g.onFrag 0 fun f => { f with wait := .splitHold, pausedUntil := 0 }
  { s with ticks := 272, cores := s.cores }
noncomputable def sStarved2 : State :=
  let g0 := (Map.find? s0.groups 0).getD noCtx.g
  { sStarved with groups := sStarved.groups ++ [(1, { g0 with id := { g0.id with age := 1, slot := 1 } })] }
theorem witness_Growth_starved : (∀ p ∈ s0.subGroups 0 0, s0.starved p.2 = false) ∧
    [sStarved, sStarved2].all (fun s => ((s.subGroups 0 0).find? fun p => s.starved p.2).isSome
      && (s.subGroups 0 0).all fun q => q.2.id.saving == 0) = true := by decide +kernel

/-- With a save store of 2^40 bytes. -/
noncomputable def stored (s : State) : State := { s with boot := { s.boot with record := List.replicate 3837 0 ++ [1] } }
/-- A launch of queue 1023 that has started, of one workgroup; with 384 cores that are free. -/
noncomputable def sStart : State :=
  let l : Launch := { id := 0, queue := 1023, ctx := 0, words := [0x800000, 0x100010001, 7, .ofNat 64 (1023 * 2 ^ 31), 0, 0, 0, 0],
                      cohorts := [], next := 0, retired := 0, since := 0 }
  next { s0 with queues := [(1023, { Queue.reset with en := true, pending := [l] })] } (.launchStart 1023)
noncomputable def firstL (s : State) : Launch := ((s.queue 1023).offers).getD
  { id := 0, queue := 0, ctx := 0, words := [], cohorts := [], next := 0, retired := 0, since := 0 }
theorem witness_Growth_place : (sStart.queue 1023).offers = some (firstL sStart) ∧ (sStart.placeable (firstL sStart)).isSome = true := by
  decide +kernel
/-- A group of sTight. -/
noncomputable def tightGroup (i : Nat) : Group :=
  let id : Ident := { age := i, launch := 0, wg := i, wgIndex := 0, num := 0, ctx := 0, queue := 0, core := i, slot := 0, cls := 0,
                      resident := true, saving := 0, halted := false, dbl := false }
  Group.create id { entry := 0x800000, args := 0, coords := 0, alloc := 512, privHwm := 0, rsBase := 0, trapVec := 0 } 0 0
/-- The launch asks for all of a core's shared memory, and every core holds a group of a lower priority with a workgroup that has it. -/
noncomputable def sTight : State :=
  let l : Launch := { (firstL sStart) with words := (firstL sStart).words.set 3 (.ofNat 64 (1048576 + 8 * 2 ^ 27 + 1023 * 2 ^ 31)) }
  let s := stored sStart
  { s with groups := (List.range 384).map fun i => (i, tightGroup i),
                wgs := (List.range 384).map fun i => (i, { fetchWorkgroup with id := i, core := i }),
                queues := [(1023, { (sStart.queue 1023) with prio := 8, started := [l] })] }
theorem foldl_fix {α β : Type} {f : β → α → β} {b : β} : ∀ {l : List α}, (∀ a ∈ l, f b a = b) → l.foldl f b = b
  | [], _ => rfl
  | a :: l, h => by
    rw [List.foldl_cons, h a (by simp)]
    exact foldl_fix fun c hc => h c (by simp [hc])
theorem foldl_some {α β : Type} {f : Option β → α → Option β} (keep : ∀ b a, b.isSome = true → (f b a).isSome = true) {k : α}
    (new : ∀ b, (f b k).isSome = true) : ∀ {l : List α} (b : Option β), k ∈ l ∨ b.isSome = true → (l.foldl f b).isSome = true
  | [], b, h => by simpa using h
  | a :: l, b, h => by
    rw [List.foldl_cons]
    apply foldl_some keep new
    rcases h with h | h
    · rcases List.mem_cons.1 h with rfl | h
      · exact .inr (new b)
      · exact .inl h
    · exact .inr (keep b a h)
theorem le_sum_of_mem {n : Nat} : ∀ {l : List Nat}, n ∈ l → n ≤ l.sum
  | [], h => by simp at h
  | m :: l, h => by
    rcases List.mem_cons.1 h with rfl | h
    · simp
    · have := le_sum_of_mem h; simp; omega
theorem tight_full (k : Nat) (h : k < 384) : (sTight.freeOn k []).shared = 0 := by
  have hg : ∃ q ∈ sTight.coreGroups k, q.2.id.wg = k :=
    ⟨(k, _), List.mem_filter.2 ⟨List.mem_map.2 ⟨k, List.mem_range.2 h, rfl⟩, by simp [tightGroup, Group.create]⟩, rfl⟩
  obtain ⟨q, hq, hw⟩ := hg
  show 1048576 - _ = 0
  refine Nat.sub_eq_zero_of_le (le_sum_of_mem (List.mem_map.2 ⟨(k, { fetchWorkgroup with id := k, core := k }), List.mem_filter.2
    ⟨List.mem_map.2 ⟨k, List.mem_range.2 h, rfl⟩, ?_⟩, (by decide : sharedSpace 1048576 = 1048576)⟩))
  simp only [List.contains_nil, Bool.not_false, beq_self_eq_true, Bool.true_and, Bool.and_eq_true, List.any_eq_true]
  exact ⟨rfl, q, List.mem_filter.2 ⟨hq, rfl⟩, by simp [hw]⟩
theorem tight_apart (i j : Nat) : (sTight.awaits (tightGroup i) (tightGroup j) || sTight.pairLinked (tightGroup i) (tightGroup j)) = false := by
  have ho : ∀ f ∈ (tightGroup i).bank, f.wait = .ready ∧ f.waitsOn = none := by
    intro f hf
    obtain rfl := List.mem_singleton.1 hf
    exact ⟨rfl, rfl⟩
  have hv : (tightGroup i).sys.gang.valid = false := rfl
  have hp : sTight.pairLinked (tightGroup i) (tightGroup j) = false := by simp [State.pairLinked, hv]
  rw [hp, Bool.or_false]
  have hi : ∀ k, (tightGroup k).id.age = k ∧ (tightGroup k).id.wg = k := fun k => ⟨rfl, rfl⟩
  unfold State.awaits
  rw [(hi i).1, (hi j).1, (hi i).2, (hi j).2]
  split
  · rfl
  · rename_i h
    simp only [beq_eq_false_iff_ne.2 h, Bool.false_and, Bool.or_false, List.any_eq_false]
    intro f hf
    simp [(ho f hf).2]
theorem tight_priorities : sTight.priorities = sTight.groups.map fun p => (p.1, sTight.basePrio p.2) := by
  have : (sTight.groups.flatMap fun h => (sTight.groups.filter fun g => sTight.awaits h.2 g.2 || sTight.pairLinked h.2 g.2).map
      fun g => (h.1, g.1)) = [] := by
    rw [List.flatMap_eq_nil_iff]
    intro h hh
    rw [List.map_eq_nil_iff, List.filter_eq_nil_iff]
    intro g hg
    obtain ⟨i, _, rfl⟩ := List.mem_map.1 hh
    obtain ⟨j, _, rfl⟩ := List.mem_map.1 hg
    exact Bool.eq_false_iff.1 (tight_apart i j)
  unfold State.priorities
  simp [this]
theorem bestPlan_some {s : State} {ps : Cells Nat} {fits : Nat → List Nat → Bool} {may : Group → Bool} {k : Nat} (hk : k < 384)
    (h : (s.plan ps k (fits k) may).isSome = true) : (s.bestPlan ps fits may).isSome = true := by
  unfold State.bestPlan
  refine foldl_some (k := k) ?_ ?_ none (.inl (by simpa [coreCount] using hk))
  · intro b a hb
    obtain ⟨x, rfl⟩ := Option.isSome_iff_exists.1 hb
    split
    · rfl
    · split
      · rfl
      · dsimp only; split <;> rfl
  · intro b
    obtain ⟨x, hx⟩ := Option.isSome_iff_exists.1 h
    rw [hx]
    split
    · rename_i h; cases h
    · split
      · rfl
      · dsimp only; split <;> rfl
theorem plan_one {s : State} {ps : Cells Nat} {k n : Nat} {fits : List Nat → Bool} {may : Group → Bool} {u : EvictUnit}
    (h1 : s.leaving k = []) (h2 : s.evictable ps k may = [u]) (hu : u.ages = [n]) (h3 : fits [] = false) (h4 : fits [n] = true)
    (h5 : s.storeRoom [n] = true) : (s.plan ps k fits may).isSome = true := by
  unfold State.plan
  rw [h1, h2]
  simp [evictUntil, hu, h3, h4, h5]
theorem tight_evictable : sTight.evictable (sTight.groups.map fun p => (p.1, sTight.basePrio p.2)) 0 (fun g =>
    decide (Map.get 0 (sTight.groups.map fun p => (p.1, sTight.basePrio p.2)) g.id.age < sTight.launchPrio (firstL sTight))) =
    [{ ages := [0], prio := 0, age := 0 }] := by decide +kernel
theorem tight_room : sTight.leaving 0 = [] ∧ sTight.launchRoom (firstL sTight) 0 [] = false ∧
    sTight.launchRoom (firstL sTight) 0 [0] = true ∧ sTight.storeRoom [0] = true := by decide +kernel
theorem tight_plan : (sTight.plan sTight.priorities 0 (fun gone => sTight.launchRoom (firstL sTight) 0 gone)
    fun g => decide (Map.get 0 sTight.priorities g.id.age < sTight.launchPrio (firstL sTight))).isSome = true := by
  rw [tight_priorities]
  exact plan_one tight_room.1 tight_evictable rfl tight_room.2.1 tight_room.2.2.1 tight_room.2.2.2
theorem witness_Growth_evict : (sTight.queue 1023).offers = some (firstL sTight) ∧ sTight.placeable (firstL sTight) = none ∧
    (sTight.placePlan (firstL sTight)).isSome = true := by
  refine ⟨by decide +kernel, ?_, bestPlan_some (by decide) tight_plan⟩
  have hn : (firstL sTight).needs.shared = 1048576 := by decide +kernel
  unfold State.placeable State.bestCore
  rw [foldl_fix]; · rfl
  intro k hk
  have : (firstL sTight).needs.within (sTight.freeOn k []) = false := by
    simp [Needs.within, hn, tight_full k (by simpa [coreCount] using hk)]
  simp [State.launchRoom, State.roomOn, this]
/-- A launch that fits on no core: of more cohort entries than a core has. -/
noncomputable def sNever : State :=
  { sStart with queues := [(1023, { (sStart.queue 1023) with started := [{ (firstL sStart) with cohorts := List.replicate 257 0x100000001 }] })] }
theorem never_within (k : Nat) (gone : List Nat) : (firstL sNever).needs.within (sNever.freeOn k gone) = false := by
  have h : (firstL sNever).needs.cohorts = 257 := by decide +kernel
  have h' : (sNever.freeOn k gone).cohorts ≤ 256 := Nat.sub_le _ _
  have : ¬ 257 ≤ (sNever.freeOn k gone).cohorts := by omega
  simp [Needs.within, h, this]
theorem evictUntil_none {fits : List Nat → Bool} (h : ∀ l, fits l = false) : ∀ (us : List EvictUnit) (gone : List Nat), evictUntil fits us gone = none
  | [], gone => by simp [evictUntil, h]
  | u :: us, gone => by simp [evictUntil, h, evictUntil_none h us]
theorem witness_Growth_wait : (sNever.queue 1023).offers = some (firstL sNever) ∧ sNever.placeable (firstL sNever) = none ∧
    sNever.placePlan (firstL sNever) = none := by
  refine ⟨by decide +kernel, ?_, ?_⟩
  · unfold State.placeable State.bestCore
    rw [foldl_fix]; · rfl
    intro k _
    simp [State.launchRoom, State.roomOn, never_within]
  · unfold State.placePlan State.bestPlan
    rw [foldl_fix]
    intro k _
    simp [State.plan, evictUntil_none, State.launchRoom, State.roomOn, never_within]

/-- Group 0 alone: it stops for a save; it has stopped, and nothing is left to wait for; a load is left. -/
noncomputable def sSaving : State := next (stored s0) (.groupSave 0 4)
theorem witness_Growth_store : s0.storeRoom [0] = false ∧ (stored s0).storeRoom [0] = true ∧
    (Map.find? (stored sLoad).groups 0).any (fun g => g.id.resident && g.id.saving == 0 && (stored sLoad).storeRoom ((stored sLoad).gangOf g |>.map (·.1))
      && ((Map.find? ((stored sLoad).beginSave [0] 4).groups 0).all fun h => !((stored sLoad).beginSave [0] 4).saveReady h)) = true := by decide +kernel
theorem witness_Growth_save : (∃ g, Map.find? s0.groups 0 = some g ∧ g.id.resident = true ∧ g.id.saving = 0) ∧
    (Map.find? (s0.beginSave [0] 4).groups 0).any (fun h => (s0.beginSave [0] 4).saveReady h) = true ∧
    (Map.find? (sLoad.beginSave [0] 4).groups 0).any (fun h => !(sLoad.beginSave [0] 4).saveReady h) = true ∧
    (Map.find? sLoad.groups 0).any (fun g => (sLoad.gangOf g).map (·.1) == [0] && g.id.resident && g.id.saving == 0) = true :=
  ⟨⟨_, rfl, rfl, rfl⟩, by decide +kernel⟩
/-- The group is in the save store, with its core free; with its core full of a group of lower priority; it waits for its slots. -/
noncomputable def sSaved : State := next (stored s0) (.groupSave 0 1)
noncomputable def sFullCore : State :=
  let w := fetchWorkgroup
  { sSaved with groups := sSaved.groups ++ [(1, { tightGroup 1 with id := { (tightGroup 1).id with core := 0 }, regs :=
                  { (tightGroup 1).regs with alloc := 16384 } })],
                wgs := [(0, { w with prio := 8 }), (1, { w with id := 1 })], queues := [(0, { Queue.reset with prio := 15 })] }
theorem witness_Growth_restore : (Map.find? sSaved.groups 0).any (fun g => !g.id.resident && sSaved.restoreCore g == some 0) = true ∧
    (Map.find? sFullCore.groups 0).any (fun g => !g.id.resident && (sFullCore.restoreCore g).isNone && (sFullCore.restorePlan g).isSome) = true ∧
    (let s := s0.onGroup 0 fun g => { g with id := { g.id with saving := 5 } };
     (Map.find? s.groups 0).any fun g => g.id.resident && g.id.saving == 5 && s.reloaded g) = true := by decide +kernel
/-- The answer to an operation of a saved group: a vector load and a scalar load whose data can be read, a load that still waits, and the
last line of an XAT. -/
noncomputable def sAway (s : State) : State := s.onGroup 0 fun g => { g with id := { g.id with resident := false } }
noncomputable def agentLoad (s : State) (id : Nat) (p : Pend → Load → Load → Bool) : Bool :=
  match s.pend.find? fun p => p.id == id with
  | some x => match x.kind with
    | .load l => p x l (s.serveLanes x l fun _ => true).1
    | _ => false
  | none => false
theorem witness_Growth_agentLoad : agentLoad (sAway sLoad) 0 (fun p _ l1 => p.age == 0 && l1.kind == 0 && l1.addrs.all fun a => !l1.waits a.1) = true ∧
    agentLoad (sAway (next (sA 0x80FFF8) (.lds 0 1 3))) 0 (fun p _ l1 => p.age == 0 && l1.kind == 1 && l1.addrs.all fun a => !l1.waits a.1) = true ∧
    agentLoad (sAway sPark) 0 (fun p _ l1 => p.age == 0 && l1.addrs.any fun a => l1.waits a.1 && !l1.isSynonym a.1) = true := by decide +kernel
noncomputable def sAnswered : State := sAway { sXat with remote := sXat.remote.map fun r =>
  { r with lines := r.lines.map fun l => { l with acked := true } } }
theorem witness_Growth_agentRemote : ∃ r g, (sAnswered.pend.find? fun p => p.id == 1) = none ∧ (sAnswered.remote.find? fun r => r.id == 1) = some r ∧
    Map.find? sAnswered.groups r.age = some g ∧ g.id.resident = false ∧ r.entered = true ∧ (∀ l ∈ r.lines, l.over = true) :=
  ⟨_, _, rfl, rfl, rfl, rfl, by decide +kernel, by decide +kernel⟩
theorem witness_Growth_agent : (∃ p g, (sLoad.pend.find? fun p => p.id == 0) = some p ∧ Map.find? sLoad.groups p.age = some g ∧ g.id.resident = true) ∧
    (Map.find? (sAway sLoad).groups 0).any (fun g => !g.id.resident) = true := ⟨⟨_, _, rfl, rfl, rfl⟩, by decide +kernel⟩
theorem witness_Growth_retire : (Map.find? s0.wgs 0).isSome = true ∧ s0.retires 0 = false ∧
    (let s : State := { s0 with groups := [], wgs := s0.wgs.map fun p => (p.1, { p.2 with exited := 1 }) }
     (Map.find? s.wgs 0).isSome = true ∧ s.retires 0 = true) := by decide +kernel

/-- The debugger: no group selected; group 0, and group 0 halted by a double trap. -/
noncomputable def sSel (n : Word) (dbl : Bool) : State :=
  { s0 with dbg := { s0.dbg with sel := n } }.onGroup 0 fun g => { g with id := { g.id with dbl := dbl } }
theorem witness_Debug_commands : Map.find? (sSel 5 false).groups (sSel 5 false).dbg.sel.toNat = none ∧
    (∃ g, Map.find? (sSel 0 false).groups (sSel 0 false).dbg.sel.toNat = some g ∧ g.id.age = (sSel 0 false).dbg.sel.toNat ∧ g.id.dbl = false) ∧
    ∃ g, Map.find? (sSel 0 true).groups (sSel 0 true).dbg.sel.toNat = some g ∧ g.id.age = (sSel 0 true).dbg.sel.toNat ∧ g.id.dbl = true :=
  ⟨rfl, ⟨_, rfl, rfl, rfl⟩, ⟨_, rfl, rfl, rfl⟩⟩
/-- The image of a group that is halted and saved shows; that of a running group does not. -/
noncomputable def sShown : State := sSaved.onGroup 0 fun g => { g with id := { g.id with halted := true } }
theorem witness_Debug_image : (fieldAt sShown.shownImage 0).isSome = true ∧ s0.shownImage = [] ∧
    (Map.find? s0.groups s0.dbg.sel.toNat).any (fun g => g.saved.isNone) = true := by decide +kernel
theorem witness_Debug_scrub : ((s0.coreGroups 0).map fun p => p.2.regs.poison.length).sum = 0 ∧
    (((s0.onGroup 0 fun g => { g with regs := { g.regs with poison := [3, 5] } }).coreGroups 0).map fun p => p.2.regs.poison.length).sum = 2 := by
  decide +kernel
/-- A sub-core with no group; one with an eligible fragment. -/
theorem witness_Debug_cycle : (let s1 := s0.wake 0 3;
      (s1.subGroups 0 3).map (fun p => s1.readyFrags (s1.subCore 0 3) p.2) |>.filterMap candidate?).length = 0 ∧
    (let s1 := s0.wake 0 0;
      (s1.subGroups 0 0).map (fun p => s1.readyFrags (s1.subCore 0 0) p.2) |>.filterMap candidate?).length = 1 := by decide +kernel

/-- The registers of the windows, and a write to a launch queue that goes through and one that waits for room. -/
noncomputable def sRoom (n : Nat) : State := 
  let l : Launch := { id := 0, queue := 0, ctx := 0, words := [], cohorts := [], next := 0, retired := 0, since := 0 }
  { s0 with queues := [(0, { Queue.reset with pending := List.replicate n l })] }
theorem witness_Accesses_registers : (∀ w ∈ [0, 3], w < 4) ∧ (∀ i ∈ [0, 7], i < 8) ∧ ((0x3FFFFFFFF : Nat) / 2 ^ 32 < 4 ∧ 8 < 0x900000000 / 2 ^ 32) ∧
    0x500000038 / 2 ^ 32 = 5 ∧ (((sRoom 63).served (.registerWrite 5 0x500000038 1)).writeWindow (0x500000038 / 8 * 8) 8 1).isSome = true ∧
    ((sRoom 64).served (.registerWrite 5 0x500000038 1)).writeWindow (0x500000038 / 8 * 8) 8 1 = none := by decide +kernel
theorem perform_atomic {s : State} {vk size code : Nat} {a c : Word} (h : (s.llcReads vk (atomicSize code)).isOk = true) :
    (s.agentPerform vk size (.atomic code a c)).isOk = true := by
  simp only [State.agentPerform]
  cases hl : s.llcReads vk (atomicSize code) with
  | ok p => rfl
  | error d => simp [hl, Except.isOk, Except.toBool] at h
/-- A control core reaches the last bytes of a page; the control cache stalls; a store has not landed; no table translates. -/
noncomputable def sHalt : State := { sTab s0 with fabric := { s0.fabric with isolated := true } }
theorem witness_Accesses_reach : (∀ o ∈ [0, 65535, 2 ^ 48 - 1], o < 2 ^ 48) ∧
    (∀ op ∈ [AgentOp.read, .write 5], (sTab s0).agentWaits (2 ^ 62 + 65535) (opSize 1 op) = false ∧
      (((sTab s0).served (.controlCoreAccess 5 (2 ^ 62 + 65535) 1 op)).agentPerform (2 ^ 62 + 65535) 1 op).isOk = true) ∧
    sHalt.agentWaits (2 ^ 62) 8 = true ∧ s0.agentWaits (2 ^ 62) 8 = false ∧
    (match (s0.served (.controlCoreAccess 5 (2 ^ 62) 8 .read)).agentPerform (2 ^ 62) 8 .read with
      | .error _ => true
      | .ok _ => false) = true ∧
    ((sA 0).tensorAddr 0x80FFF8).toNat = 0x80FFF8 ∧ (sA 0).agentWaits 0x80FFF8 8 = false ∧
    (((sA 0).served (.controlCoreAccess 5 (3 * 2 ^ 52 + 0x80FFFF) 1 .read)).agentPerform 0x80FFFF 1 .read).isOk = true ∧
    sRec.agentWaits 0x810000 4 = true := by decide +kernel
theorem witness_Accesses_boundaries : (∀ o ∈ [2 ^ 48, 2 ^ 52 - 1], 2 ^ 48 ≤ o ∧ o < 2 ^ 52) ∧ (∀ o ∈ [2 ^ 40, 2 ^ 52 - 1], 2 ^ 40 ≤ o ∧ o < 2 ^ 52) ∧
    (∀ o ∈ [2 ^ 42, 2 ^ 52 - 1], 2 ^ 42 ≤ o ∧ o < 2 ^ 52) ∧ (∀ o ∈ [0, 2 ^ 40 - 1], o < 2 ^ 40) ∧ (∀ o ∈ [0, 2 ^ 42 - 1], o < 2 ^ 42) ∧
    (s0.writeWindow 0x800000010 4 5).isSome = true ∧ (sRoom 64).writeWindow 0x500000038 8 5 = none := by decide +kernel
/-- A request for control offset 0 that this package homes; one answered before; one for a granule homed elsewhere. -/
noncomputable def sHome : State := { sTab s0 with plat := { s0.plat with home := [(0, homeWord 0 1)] }, fabric := { s0.fabric with
  lost := [3], answered := [(1, 7, [5]), (1, 8, [6])] } }
noncomputable def reqH (src tag off : Nat) (op : AgentOp) : HomeRequest := { src := src, tag := tag, off := off, size := 8, op := op, acks := [8] }
theorem witness_Accesses_home :
    (let kept := sHome.fabric.answered.filter fun a => !(a.1 == 1 && [8].contains a.2.1);
     (kept.find? fun a => a.1 == 1 && a.2.1 == 7) = some (1, 7, [5]) ∧ kept = [(1, 7, [5])]) ∧
    sHome.homedHere (2 ^ 30 - 1) = true ∧ sHome.homedHere (2 ^ 30) = false ∧ 3 ∈ sHome.fabric.lost ∧ 1 ∉ sHome.fabric.lost ∧
    sHome.agentWaits (2 ^ 62 + 0) 8 = false ∧
    (let t : State := { sHome with fabric := { sHome.fabric with answered := [(1, 7, [5])] } };
     ((t.served (.controlHomeRequest (reqH 1 9 0 .read))).agentPerform (2 ^ 62 + 0) 8 .read).isOk = true ∧
     ((t.served (.controlHomeRequest (reqH 1 9 65536 .read))).agentPerform (2 ^ 62 + 65536) 8 .read).isOk = false) ∧
    ({ sHome with fabric := { sHome.fabric with rebuilding := [0] } } : State).agentWaits (2 ^ 62 + 0) 8 = true := by decide +kernel
/-- Before boot; a core whose earlier access waits, and one whose request waits for a home; a line of another home; a mirror of the line. -/
noncomputable def sMirror (copies : List Nat) : State :=
  let s := sTab s0
  { s with rackN := 2, plat := { s.plat with home := [(0, homeWord 0 1)] }, mem := { s.mem with unmirrored := [lineOf (2 ^ 62)] },
           fabric := { s.fabric with copies := copies } }
theorem witness_Accesses_core : State.reset.boot.verified = false ∧ s0.boot.verified = true ∧
    s0.coreBlocked (.controlCoreAccess 5 (2 ^ 62) 8 .read) 5 = false ∧
    (let e := Event.controlCoreAccess 5 (2 ^ 62) 8 (.write 1)
     let s : State := { s0 with inbox := [(false, e)] };
     (s.before (.controlCoreAccess 5 (2 ^ 62) 8 .read)).any (fun b => eventCore b == some 5) = true) ∧
    (sFar.askHome 0 (.write [some 1]) (.core 5)).asking (.core 5) = true ∧
    sFar.agentWaits (2 ^ 62) 8 = false ∧ (sFar.farOp (2 ^ 62) 8 (.write 5)).isSome = true ∧ (sTab s0).farOp (2 ^ 62) 8 (.write 5) = none ∧
    sFar.homeValid 0 = true ∧ sFar.homedHere 0 = false ∧ sFar.homeValid (2 ^ 30) = false ∧ (sTab s0).homedHere 0 = true := by decide +kernel
theorem witness_Accesses_mirror : (sMirror []).homedHere 0 = true ∧ (sMirror []).mirrorPkg 0 ≠ (sMirror []).pkg ∧
    lineOf (2 ^ 62) ∈ (sMirror []).mem.unmirrored ∧ (sMirror []).agentWaits (2 ^ 62) 8 = false ∧
    lineOf (2 ^ 62) ∈ (sMirror [lineOf (2 ^ 62)]).fabric.copies ∧ (sTab s0).mirrorPkg 0 = (sTab s0).pkg := by decide +kernel
theorem witness_Accesses_port : s0.portUp 3 = true ∧ s0.portUp 4 = false ∧ State.reset.portUp 0 = false ∧
    sFar.portWaits (.pcieInboundWrite 3 0x4000000000000000 [1]) 0x4000000000000000 1 = false ∧ sFar.farKey 0x4000000000000000 = true ∧
    (sTab (sA 0)).farKey 0x80FFF8 = false := by decide +kernel
/-- Requests of a port: performed, refused, and waiting. -/
theorem witness_Accesses_pcie : (sTab (sA 0)).portWaits (.pcieInboundRead 3 0x80FFF8 8) 0x80FFF8 8 = false ∧
    (sTab (sA 0)).pcieKey 3 0x80FFF8 8 (·.rd) = some 0x80FFF8 ∧ (sTab (sA 0)).pcieKey 3 0x80FFF8 8 (·.wr) = some 0x80FFF8 ∧
    (sTab (sA 0)).pcieKey 3 0x80FFF8 8 (·.at_) = some 0x80FFF8 ∧ (sA 0).pcieKey 3 0x80FFF8 8 (·.rd) = none ∧
    (((sTab (sA 0)).served (.pcieInboundRead 3 0x80FFF8 1)).llcReads 0x80FFF8 1).isOk = true ∧
    (((sTab (sA 0)).served (.pcieInboundWrite 3 0x80FFF8 [1])).agentWrite 0x80FFF8 [1]).isOk = true ∧
    (∀ size ∈ [4, 8], 0x80FFF8 % size = 0) ∧
    (let s : State := { sA 0 with inbox := [(false, .pcieInboundRead 3 0 1)] };
     s.portWaits (.pcieInboundRead 3 0x80FFF8 8) 0x80FFF8 8 = true ∧ s.portWaits (.pcieInboundWrite 3 0x80FFF8 [1]) 0x80FFF8 1 = true ∧
     s.portWaits (.pcieAtomicop 3 0x80FFF8 8 .cas 1 2) 0x80FFF8 8 = true) := by decide +kernel
theorem witness_Accesses_atomics : (((sTab (sA 0)).served (.pcieAtomicop 3 0x80FFF8 4 .cas 1 2)).agentPerform 0x80FFF8 4
      (.atomic (pcieCode 4 .cas) 1 2)).isOk = true := perform_atomic (by decide +kernel)

/-- A package of three that has joined: 1 was heard 200 us ago, 2 is live too. -/
noncomputable def sJoined (ns : Nat) : State :=
  { s0 with time8 := 8 * ns, rackN := 3, plat := { s0.plat with live := [(0, 7)], home := [(0, homeWord 0 1), (128, homeWord 1 2)] },
            boot := { s0.boot with joined := true }, fabric := { s0.fabric with crcFails := [(1, 15), (2, 16)] } }
theorem witness_Rack_links : Map.get 0 (sJoined 0).fabric.crcFails 1 < 16 ∧ 16 ≤ Map.get 0 (sJoined 0).fabric.crcFails 2 ∧
    2 ∉ (sJoined 0).fabric.down ∧ ((sJoined 0).boot.verified = true ∧ (sJoined 0).boot.joined = true ∧ (sJoined 0).fabric.beatAt ≤ (sJoined 0).timeNs) ∧
    s0.boot.joined = false := by decide +kernel
theorem witness_Rack_heartbeat : (sJoined 0).livePackages.head? = some (sJoined 0).pkg ∧
    ({ sJoined 0 with pkg := 1 } : State).livePackages.head? ≠ some 1 ∧ (0 : Nat) < 144 ∧ 144 ≤ (144 : Nat) := by decide +kernel
/-- A request of this package that waits for a home: of a granule without one, of another package, and of this one. -/
theorem witness_Rack_resend : (sJoined 0).homeValid (2 ^ 40) = false ∧ (sJoined 0).homeValid (128 * 2 ^ 30) = true ∧
    (sJoined 0).homedHere (128 * 2 ^ 30) = false ∧ (sJoined 0).homeValid 0 = true ∧ (sJoined 0).homedHere 0 = true ∧
    (sJoined 0).live 1 = true ∧ 1 ≠ (sJoined 0).pkg := by decide +kernel
theorem witness_Rack_suspects : (sJoined 200000).live 1 = true ∧ 1 ≠ (sJoined 200000).pkg ∧
    Map.get 0 (sJoined 200000).fabric.heard 1 + 200000 ≤ (sJoined 200000).timeNs ∧ 1 ∉ (sJoined 200000).fabric.suspected ∧
    (sJoined 199999).timeNs < Map.get 0 (sJoined 199999).fabric.heard 1 + 200000 ∧ (sJoined 0).live 3 = false ∧
    (sJoined 199999).lowestLive = some 0 ∧ s0.lowestLive ≠ some s0.pkg ∧
    ((sJoined 200000).livePackages.filter (sJoined 200000).heardLately).length = 1 ∧ (sJoined 200000).livePackages.length = 3 ∧
    (sJoined 199999).livePackages.length ≤ 2 * ((sJoined 199999).livePackages.filter (sJoined 199999).heardLately).length := by decide +kernel
/-- Entries of the home map: invalid, of other packages, of a home or a mirror that is lost, with its other copy live or not. -/
theorem witness_Rack_rehome : ((2 ^ 31 - 1 : BitVec 32).toNat < 2 ^ 31) ∧ 2 ^ 31 ≤ (homeWord 1 2).toNat ∧
    (homeWord 1 2).toNat % 512 = 1 ∧ (homeWord 1 2).toNat / 512 % 512 = 2 ∧ (sJoined 0).live 2 = true ∧ (sJoined 0).live 3 = false ∧
    (homeWord 1 3).toNat / 512 % 512 = 3 ∧ 128 ∉ (sJoined 0).fabric.rebuilding := by decide +kernel
theorem witness_Rack_time : (sJoined 0).boot.stepped = false ∧ (∀ q ∈ (sJoined 0).queues, q.2.en = false) ∧ (-101 : Int) < 0 ∧
    100 < (-101 : Int).natAbs ∧ ¬ 100 < (100 : Int).natAbs ∧ (0 : Int) ≤ 100 := by decide +kernel
/-- The checks of a boot image and of a rack record fail where their numbers do; where those hold, the digests and signatures decide. -/
theorem witness_Rack_boot : State.reset.boot.verified = false ∧ s0.boot.verified = true ∧ bootChecks 1 ⟨[], [], []⟩ = false ∧
    ((digest (recSignKey []) = (List.range 32).map Config.romDigest ∧
      Config.verifies (recSignKey []) (digest []) (field [] 0 2420) = true ∧ Config.firmwareVerifies (recSignKey []) [] 0 = true) →
      bootChecks 0 ⟨[], [], []⟩ = true) := by
  refine ⟨rfl, rfl, ?_, ?_⟩
  · have h : recSecver [] = 0 := by decide +kernel
    simp [bootChecks, h]
  · have h : recSecver [] = 0 := by decide +kernel
    have h2 : recLength [] = 0 := by decide +kernel
    rintro ⟨ha, hb, hc⟩
    simp [bootChecks, h, h2, ha, hb, hc]
/-- The record of a rack of 512 packages for package 511, epoch 0, and an empty one. -/
noncomputable def rackRec : List Byte := List.replicate 20 0 ++ [0xFF, 1, 0, 2] ++ List.replicate 2460 0
noncomputable def bootRec : List Byte := List.replicate 32 0
theorem witness_Rack_record : s0.rackChecks [] = false ∧ fieldVal rackRec 20 2 % 512 = 511 ∧ fieldVal rackRec 22 2 % 1024 = 512 ∧
    (let s : State := { s0 with boot := { s0.boot with record := bootRec } };
     s.boot.verified = true ∧
     (Config.verifies (recRackKey s.boot.record) (digest (rackRec.take 64)) (field rackRec 64 2420) = true → s.rackChecks rackRec = true)) := by
  have h0 : fieldVal [] 22 2 % 1024 = 0 := by decide +kernel
  have h1 : fieldVal rackRec 20 2 % 512 = 511 := by decide +kernel
  have h2 : fieldVal rackRec 22 2 % 1024 = 512 := by decide +kernel
  have h3 : field rackRec 4 16 = recPartid bootRec := by decide +kernel
  have h4 : s0.boot.epoch = 0 := by decide +kernel
  refine ⟨by simp [State.rackChecks, h0], h1, h2, by decide +kernel, fun h => ?_⟩
  simp only [State.rackChecks] at *
  simp [h, h1, h2, h3, h4]
theorem witness_Rack_hallmark : s0.plat.hmBusy = false ∧
    (let s : State := { sTab s0 with plat := { (sTab s0).plat with hmBusy := true } };
     s.plat.hmBusy = true ∧ s.hallmarkWaits = false ∧ s.hallmarkDest = some 0 ∧
     ({ s with plat := { s.plat with hmDest := 4095 } } : State).hallmarkDest = none ∧
     ({ s with fabric := { s.fabric with isolated := true } } : State).hallmarkWaits = true) := by decide +kernel
theorem witness_Rack_margin : (let s := fun (mv : Nat) => ({ s0 with plat := { s0.plat with assay := [(5, mv)], margin := [(5, 0x25804B0)] } } : State);
     600 < Map.get 0 (s 601).plat.assay 5 ∧ Map.get 0 (s 600).plat.assay 5 ≤ 600 ∧ 1200 ≤ (Map.get 0 (s 600).plat.margin 5).toNat % 2 ^ 12 ∧
     (Map.get 0 (s 600).plat.margin 5).toNat / 2 ^ 16 % 2 ^ 12 ≤ 600) ∧ (∃ k, k ≠ 5) ∧
    (min s0.plat.pwrLim 3400 < 3401 % 4096 ∧ 3229 % 4096 ≤ min s0.plat.pwrLim 3400 ∧ 100 * (3229 % 4096) < 95 * min s0.plat.pwrLim 3400 ∧
      95 * min s0.plat.pwrLim 3400 ≤ 100 * (3230 % 4096)) := by
  refine ⟨by decide +kernel, ⟨0, by decide⟩, by decide +kernel⟩
theorem witness_Rack_ras : (∀ c : Bool, (RasError.mk (.hbm 7) c 0 0 0).correctable = c ∧ (RasError.mk (.hbm 7) c 0 0 0).place = .hbm 7) ∧
    (RasError.mk (.register 0 3) true 0 0 0).place = .register 0 3 ∧ (Map.find? s0.groups 0).isSome = true ∧
    0 ∉ [1, 3, 5, 7, 9, 10, 12, 14, 16, 17, 18, 20] ∧ 20 ∈ [1, 3, 5, 7, 9, 10, 12, 14, 16, 17, 18, 20] :=
  ⟨fun _ => ⟨rfl, rfl⟩, rfl, rfl, by decide, by decide⟩

theorem witness_DecodeAndEncode : (Instr.ldacq true 3 5 6 8).wf = true ∧ (encode (.ldacq true 3 5 6 8)).isSome = true ∧
    ∃ i, decode 0b1_00011_00101_0001_0 = .ok i := ⟨by decide +kernel, by decide +kernel, ok_of (by decide +kernel)⟩

/-- An event is due; the words of a body, of a header, and of no instruction are fetched; a page that may not be executed; a fetch
that waits. -/
noncomputable def sFetch (w : Nat) : State := State.reset.withFetchWord 32 w
noncomputable def sFetch0 (w : Nat) : State := { sFetch w with issuing := [], mem := { (sFetch w).mem with xlate := (List.range 17).map fun u => (u, { vpage := 0x80, count := 1, frame := 1 }) } }
theorem witness_Step_agenda : ({ s0 with agenda := [.heartbeatSend] } : State).agenda = .heartbeatSend :: [] := rfl
theorem witness_Step_selected : (sFetch 0).agenda = [] ∧ (sFetch 0).issuing = [(0, 0, false)] ∧
    ∃ g f, Map.find? (sFetch 0).groups 0 = some g ∧ g.frag? 0 = some f ∧ ({ sFetch 0 with issuing := [] } : State).mayIssue g = true ∧
      f.wait = .ready ∧ f.bodyOk 4 = true := ⟨rfl, rfl, _, _, rfl, rfl, by decide +kernel, rfl, by decide +kernel⟩
/-- What the fetch gives: a body, a header, no instruction. -/
theorem witness_Step_fetched : (∀ w ∈ [0x0A187083, 0x40800001, 0x08000001],
      (match (sFetch0 w).fetch (fetchGroup State.reset) 0x800000 with
        | .ok (n, v, _) => n == 4 && v == w
        | .error _ => false) = true) ∧
    isHeader 0x0A187083 = false ∧ isHeader 0x40800001 = true ∧
    (decode 0x0A187083).isOk = true ∧ (decode 0x40800001).isOk = true ∧ (decode 0x08000001).isOk = false := by decide +kernel
theorem witness_Step_stops : (match s0.fetch (fetchGroup State.reset) 0xC000000000000000 with
      | .error (.trap _) => true
      | _ => false) = true ∧
    (match (sDown).fetch (fetchGroup State.reset) 0x800000 with
      | .error .wait => true
      | _ => false) = false ∧
    (match (next sDown .shootdownStart).fetch (fetchGroup State.reset) 0x800000 with
      | .error .wait => true
      | _ => false) = true := by decide +kernel
theorem witness_Step_half : space? (0x80FFFE : Word) = some .tensor ∧ pkgOf 0x80FFFE = (sA 0).pkg ∧ (sA 0).underShootdown 0x80FFFE = false ∧
    ((sA 0).rights 0 0 0x80FFFE).1.ex = true ∧ ((sA 0).rights 0 0 0x810000).1.ex = false ∧
    (((sA 0).rights 0 0 0x80FFFE).2.llcReads 0x80FFFE 2).isOk = true := by decide +kernel

/-- A fetch of a line that another page owns; a line whose contents a write has replaced since the launch was issued. -/
noncomputable def sForeign : State :=
  let table := fun (level at_ e : Nat) => (at_ + 8 * walkIndex level 0x800000, e)
  let tables := [table 1 0 0x10001, table 2 0x10000 0x20001, table 3 0x20000 0x30001, table 4 0x30000 0x50002]
  let phys := tables.flatMap fun p => ((List.range 8).zip (valBytes 8 p.2)).filterMap fun q => if q.2 = 0 then none else some (p.1 + q.1, q.2)
  { sFetch0 0 with mem := { (sFetch0 0).mem with phys := phys, xlate := [], owners := [{ vpage := 0x77, count := 1, frame := 5 }], llc := [], llcLanded := [] } }
theorem witness_Step_synonym : (match (sForeign.rights 0 0 0x800000).2.llcReads 0x800000 2 with
      | .error d => d == 5
      | .ok _ => false) = true ∧ (sForeign.rights 0 0 0x800000).1.ex = true ∧ sForeign.underShootdown 0x800000 = false := by decide +kernel
noncomputable def sPast : State :=
  let l : Launch := { id := (fetchGroup State.reset).id.launch, queue := 0, ctx := 0, words := [], cohorts := [], next := 0, retired := 0, since := 3 }
  { sFetch0 0 with queues := [((fetchGroup State.reset).id.queue, { Queue.reset with started := [l] })],
                   mem := { (sFetch0 0).mem with writes := 5, past := [(4, [(0x800000, 7)]), (2, [(0x800000, 9)])] } }
theorem witness_Step_past : sPast.codePast (fetchGroup State.reset) (lineOf 0x800000) = [[(0x800000, 7)]] ∧
    s0.codePast (fetchGroup State.reset) (lineOf 0x800000) = [] := by decide +kernel
/-- The memory of the reset state has its form, and a step from a state with that memory answers a next state. -/
theorem witness_MemoryKeepsItsForm : s0.mem.wf = true ∧ ∃ t, step { s0 with agenda := [.heartbeatSend] } = .next t := ⟨by decide +kernel, ⟨_, rfl⟩⟩

/-! ## More states that meet hypotheses -/

/-- No entry is to be had for BDIV, and none for PARK. -/
theorem witness_DivergentBranch_held : (let s := sFull.onGroup 0 fun g => g.setM 1 1
    let c := ctx s
    c.f.lanes &&& c.g.m 1 ≠ 0 ∧ c.f.lanes &&& ~~~c.g.m 1 ≠ 0 ∧ c.g.flow.trapMode = false ∧
      s.splitRoom ((c.advance c.g).onFrag c.entry fun f => { f with lanes := c.f.lanes &&& ~~~c.g.m 1 }) = false) ∧
    (let s := sFull.onGroup 0 fun g => g.setRejoin 7 1 0
     let c := ctx s
     c.f.lanes &&& c.g.rejoinE 7 ≠ 0 ∧ c.f.lanes &&& ~~~c.g.rejoinE 7 ≠ 0 ∧ c.g.flow.trapMode = false ∧
       s.splitRoom (((c.advance c.g).onFrag c.entry fun f => { f with needHeader := true }).onFrag c.entry fun f =>
         { f with lanes := c.f.lanes &&& c.g.rejoinE 7, wait := .parked, rejoin := 7 }) = false) := by decide +kernel
/-- Sixteen return entries, with a spill area of a base and a depth, a private page that translates, and PRIVHWM. -/
noncomputable def sSpill (base : Word) (depth hwm : Nat) : State :=
  let st : List RetEntry := (List.range 16).map fun i => { addr := .ofNat 64 (0x800010 + 16 * i), lanes := .allOnes 32 }
  let runs := (List.range 17).map fun u => (u, ({ vpage := pageOf (vkey 0 0x8000000000000000), count := 1, frame := 7 } : PageRun))
  let s : State := { s0 with mem := { s0.mem with xlate := s0.mem.xlate ++ runs } }
  sys (fun x => { x with rsBase := base, rsDepth := depth, privHwm := .ofNat 64 hwm }) (s.onGroup 0 fun g =>
    { g with flow := { g.flow with ret := st } })
theorem witness_Calls_spill : (ctx (sSpill 0x8000000000000000 255 65536)).g.flow.ret.length = 16 ∧
    (let c := ctx (sSpill 0x8000000000000000 255 65536)
     (c.spillAccess (sSpill 0x8000000000000000 255 65536) 0x8000000000000FF0).isOk = true ∧ c.g.flow.ret.getLast?.isSome = true ∧
       c.beyondHwm { lane := 32, addr := 0x8000000000000FF0, size := 16 } = false) ∧
    (ctx (sSpill 0x8000000000000000 1 31)).beyondHwm { lane := 32, addr := 0x8000000000000010, size := 16 } = true ∧
    ((ctx (sSpill 0x8000000000010000 0 (2 ^ 40))).spillAccess (sSpill 0x8000000000010000 0 (2 ^ 40)) 0x8000000000010000).isOk = false ∧
    (0x8000000000000008 : Word).toNat % 16 ≠ 0 ∧ space? (0x800000 : Word) ≠ some .priv ∧ space? (0x8000000000000000 : Word) = some .priv ∧
    (sSpill 0 256 0).ctx?.isSome = true := by decide +kernel
/-- A RET whose lanes have entries with two addresses, with room for one more fragment, and without. -/
noncomputable def twoReturns (s : State) : State := s.onGroup 0 fun g => { g with flow := { g.flow with ret :=
  [{ addr := 0x800010, lanes := 1 }, { addr := 0x800020, lanes := 0xFFFFFFFE }] } }
theorem witness_Returns_refilled : (let s := twoReturns s0; let c := ctx s
      okIs (c.refill 512 c.g.flow.ret c.g.sys.rsDepth s) (fun r => r.1.length == 2 && r.2.1 == 0 && r.2.2.splitRoomFor c.g 1) = true ∧
      c.g.flow.trapMode = false ∧ c.f.lanes = .allOnes 32) ∧
    (let s := twoReturns sFull; let c := ctx s
      okIs (c.refill 512 c.g.flow.ret c.g.sys.rsDepth s) (fun r => !r.2.2.splitRoomFor c.g 1) = true ∧ c.f.lanes = 3) ∧
    okIs (c0.refill 512 c0.g.flow.ret c0.g.sys.rsDepth s0) (fun r => r.1.isEmpty) = true := by decide +kernel
/-- A refill of the entry at depth 1. -/
theorem witness_Returns_refill : (let s := (sSpill 0x8000000000000000 1 65536).onGroup 0 fun g => { g with flow := { g.flow with ret := [] } }
    let c := ctx s
    okIs (c.spillAccess s 0x8000000000000000) (fun s1 =>
      (s1.l1Load c.core (vkey c.ctx 0x8000000000000000) false (s1.mayAllocate c.core (lineOf (vkey c.ctx 0x8000000000000000))) 16).isOk) = true ∧
    c.f.lanes ≠ 0 ∧ c.g.flow.ret = [] ∧ c.spillBase.isOk = true) := by decide +kernel
/-- The last lanes that a strike or a park at rejoin mask 7 waits for: two fragments of one address are parked there. -/
noncomputable def sParkedTwo : State := (s0.onGroup 0 fun g => g.setRejoin 7 0xFFFFFFFF 6).onGroup 0 fun g => { g with flow := { g.flow with frags :=
  [{ c0.f with lanes := 0xFFFFFFF9 }, { c0.f with entry := 1, lanes := 2, wait := .parked, rejoin := 7, pc := 0x800100 },
   { c0.f with entry := 2, lanes := 4, wait := .parked, rejoin := 7, pc := 0x800100 }] } }
theorem witness_Strikes_released : (let c := ctx sParkedTwo
    let e := c.g.rejoinE 7 &&& ~~~c.f.lanes
    let a := c.g.rejoinA 7 &&& ~~~c.f.lanes
    e = a ∧ a ≠ 0 ∧ c.g.rejoinE 7 = c.g.rejoinA 7 ||| c.f.lanes &&& c.g.rejoinE 7 ∧
    ((c.advance c.g).bank.map fun f => (f.entry, f.parkedAt 7)) = [(0, false), (1, true), (2, true)]) := by decide +kernel

/-- A trace session at tensor offset 0x8000, with a ring of 4 places of which 2 are used, and of which 3 are. -/
noncomputable def sTrace (cons : Nat) : State :=
  let cells := ((List.range 64).zip (valBytes 8 0x9000 ++ [2, 0, 0, 0, 0, 0, 0, 0] ++ valBytes 8 1 ++ valBytes 8 5 ++ valBytes 8 cons ++ List.replicate 24 0)).map
    fun q => (0x808000 + q.1, ({ val := q.2, dirty := true } : LlcByte))
  { s0 with dbg := { s0.dbg with trBase := 0x808000 - 64 }, mem := { s0.mem with llc := s0.mem.llc ++ cells },
            wgs := s0.wgs.map fun p => (p.1, { p.2 with session := 1 }) }
theorem witness_HaltsAndMarks_trace : (∀ k ∈ [(3, true), (2, false)], let s := sTrace k.1
      s.dbg.trBase ≠ 0 ∧ s.sessionOf (ctx s).g ≠ 0 ∧ (match s.tensorRead (s.sessionOff (s.sessionOf (ctx s).g)) 64 with
        | some (e, _) => decide (e / 2 ^ 128 % 2 ^ 32 = 1 ∧ (e / 2 ^ 192 % 2 ^ 64 + 2 ^ 64 - e / 2 ^ 256 % 2 ^ 64) % 2 ^ 64 <
            2 ^ (e / 2 ^ 64 % 32) - 1) == k.2
        | none => false) = true) ∧
    s0.dbg.trBase = 0 ∧ (({ sTrace 3 with mem := { s0.mem with xlate := [] } } : State).tensorRead 0x808000 64).isNone = true := by decide +kernel

/-- The last lanes of the middle of three groups; a load that is in flight; a partner that sends to it and one that receives from it. -/
theorem witness_Exits_last : c0.g.flow.live &&& ~~~c0.f.lanes = 0 ∧ c0.g.flow.trapMode = false ∧ c0.g.work.triggered = false ∧
    (c0.waitRelease s0).isOk = true ∧ ((ctx sInFlight).waitRelease sInFlight).isOk = false ∧ c0.orderingPoint s0 = .ok () ∧
    (ctx sInFlight).orderingPoint sInFlight = .ok () ∧ s0.partners c0.g = [] ∧
    (let s := s0.onGroup 0 fun g => { g with work := { g.work with triggered := true, openOps := [4] } };
     (ctx s).g.work.triggered = true ∧ (ctx s).orderingPoint s = .ok () ∧ (ctx s).g.work.openOps ≠ []) :=
  ⟨by decide +kernel, by decide +kernel, by decide +kernel, by decide +kernel, by decide +kernel, rfl, rfl, by decide +kernel,
    by decide +kernel, rfl, by decide +kernel⟩
/-- Group 1 sends to group 0 at slot 15, group 2 receives from it at slot 3; group 0, the middle one, comes to its EXIT. -/
noncomputable def sLeft : State :=
  let s1 := { (sMid []) with cur := some { age := 1, entry := 0, len := 4, word := 0, packed := false } }
  let s2 := next (s1.onGroup 1 fun g => { g with sys := { g.sys with trapVec := 0x1000 } }) (.xsend 1 0 15 5)
  let s3 := next { s2 with cur := some { age := 2, entry := 0, len := 4, word := 0, packed := false } } (.xrecv 1 0 3 6)
  { s3 with cur := (sMid []).cur, wgs := s3.wgs.map fun p => (p.1, (p.2.arrive 16 0 0xFFFFFFFF 0xFFFFFFFF).arrive 16 2 0xFFFFFFFF 0xFFFFFFFF) }
theorem witness_Exits_left : (ctx sLeft).orderingPoint sLeft = .ok () ∧ ((ctx sLeft).waitRelease sLeft).isOk = true ∧
    (ctx sLeft).g.flow.live &&& ~~~(ctx sLeft).f.lanes = 0 ∧
    (∃ w x h, sLeft.wgOf (ctx sLeft).g = some w ∧ (Map.find? w.slots 15).bind (·.send) = some x ∧ x.partner = 1 ∧ x.age = 1 ∧
      sLeft.member? 0 1 = some (0, (ctx sLeft).g) ∧ Map.find? sLeft.groups 1 = some h ∧ h.flow.trapMode = false ∧ h.sys.trapVec ≠ 0 ∧
      sLeft.sending 1 = false ∧ (∀ p ∈ sLeft.pend, p.age = 1 → p.trapBank = false) ∧ Map.find? w.barriers 16 ≠ none ∧
      w.barrierMembers 16 &&& ~~~((w.barrier 16).arrived ||| (w.exited ||| laneBit 1)) = 0 ∧ (w.barrier 16).arrived ≠ 0) ∧
    ∃ w r p, sLeft.wgOf (ctx sLeft).g = some w ∧ (Map.find? w.slots 3).bind (·.recv) = some r ∧ r.partner = 1 ∧ r.age = 2 ∧
      (sLeft.pend.find? fun p => p.id == r.op) = some p ∧ p.age = 2 ∧ (Map.find? sLeft.groups 2).isSome = true ∧ p.trapBank = false :=
  ⟨rfl, by decide +kernel, by decide +kernel, ⟨_, _, _, rfl, rfl, by decide +kernel, by decide +kernel, by rfl, rfl, by decide +kernel,
    by decide +kernel, by decide +kernel, by decide +kernel, by decide +kernel, by decide +kernel, by decide +kernel⟩,
    ⟨_, _, _, rfl, rfl, by decide +kernel, by decide +kernel, rfl, by decide +kernel, by decide +kernel, by decide +kernel⟩⟩

/-- An address beyond PRIVHWM, with a fault queue of 64 records, and without one. -/
noncomputable def sHwm (fq : Nat) (lanes : Word) : State := one (sys (fun x => { x with privHwm := 7, trapVec := 0x1000 })
  (sr 1 (0x8000000000000000 + lanes) { s0 with win := { s0.win with fqSize := .ofNat 64 fq } }))
noncomputable abbrev cHwm : Ctx := ctx (sHwm 6 8)
theorem witness_Loads_beyond :
    cHwm.MayAccess (sHwm 6 8) { right := .read, window := true, limit := false } true false (cHwm.laneAccesses false 127 1 1) ∧
    cHwm.MayAccess (sHwm 6 8) { right := .read, window := true, limit := false } true false
      [{ lane := 32, addr := cHwm.scalarAddr 0 1, size := 8 }] ∧
    cHwm.MayAccess (sHwm 6 8) { right := .read, scope := 0, limit := false } true false (cHwm.laneAccesses false 127 1 8) ∧
    ((cHwm.laneAccesses false 127 1 1).filter cHwm.beyondHwm).length = 1 ∧ cHwm.flagA.isSome = true ∧
    cHwm.Fits ((5, 2) :: runOff 127) ∧ cHwm.Clean cHwm.active (runOff 127) ∧ (sHwm 6 8).mem.poison = [] :=
  ⟨may_of (by decide +kernel), may_of (by decide +kernel), may_of (by decide +kernel), by decide +kernel, by decide +kernel,
    fits_of (by decide +kernel), clean_of (by decide +kernel) _ _, by decide +kernel⟩
theorem witness_Loads_parked : (sHwm 6 8).fqLog ≠ 0 ∧ (sHwm 0 8).fqLog = 0 ∧ (sHwm 0 8).parked 0 = false ∧ (sHwm 0 8).sending 0 = false ∧
    (ctx (sHwm 0 8)).g.work.declined = [] ∧ (ctx (sHwm 0 8)).g.flow.trapMode = false ∧ (ctx (sHwm 0 8)).g.sys.trapVec ≠ 0 := by decide +kernel
theorem witness_Stores_beyond :
    cHwm.MayAccess (sHwm 6 8) { right := .write, window := true, limit := false } false true (cHwm.laneAccesses false 127 1 1) ∧
    cHwm.MayAccess (sHwm 6 8) { right := .write, window := true, limit := false } false true
      [{ lane := 32, addr := cHwm.scalarAddr 0 1, size := 8 }] ∧
    cHwm.MayAccess (sHwm 6 8) { right := .write, scope := 0, limit := false } false true (cHwm.laneAccesses false 127 1 8) ∧
    cHwm.Clean cHwm.active ((5, 2) :: runOff 127) :=
  ⟨may_of (by decide +kernel), may_of (by decide +kernel), may_of (by decide +kernel), clean_of (by decide +kernel) _ _⟩
/-- A landing with a mark, of an entry in use and with a later one there. -/
theorem witness_Stores_mark : (let r := (cA 0x80FFFC).landingOf (sA 0x80FFFC) 0 4 false (some 3) [(31, 0x80FFFC, [1, 2, 3, 4])]
    r.lanes.map r.markOf = [some 3]) ∧
    (let c : Core := { s0.core 0 with relEntries := [(3, 1), (4, 2)] };
     relStamp? c.relEntries 4 = some 2 ∧ (relAfter c.relEntries 3).map (·.1) = [4]) := by decide +kernel
theorem witness_LinesAndLandings_beyond :
    cHwm.MayAccess (sHwm 6 8) { right := .read, align := false, window := true, limit := false } false false (cHwm.laneAccesses false 127 1 1) ∧
    ((cHwm.laneAccesses false 127 1 1).filter cHwm.beyondHwm).length = 1 :=
  ⟨may_of (by decide +kernel), by decide +kernel⟩
/-- Lines that no command owns, and one that a running fill does. -/
theorem witness_LinesAndLandings_owned : (sA 0x80FFFF).wherryOwns (sA 0x80FFFF).nextOp (lineOf 0x80FFFF) = false ∧
    sRunning.wherryOwns sRunning.nextOp (lineOf 0x804000) = true ∧ sBad.pinnedByFault 0 (lineOf 0x810000) = true ∧
    s0.pinnedByFault 0 (lineOf 0x810000) = false := by decide +kernel
/-- A context with a PHWM, and one whose table cannot be read. -/
theorem witness_Shootdowns_raise : ((sTab s0).contextWord 0 16).any (fun h => decide (h < 2 ^ 64)) = true ∧ s0.contextWord 0 16 = none ∧
    (Map.find? (sTab s0).groups 0).any (fun g => g.id.ctx == 0) = true := by decide +kernel
/-- A store that is still to be applied at its home. -/
noncomputable def sHomeStore : State :=
  let a : HomeAsk := { tag := 1, off := 0, op := .write [some 1], who := .store ((sRec.landing.map (·.id)).headD 0) 0 }
  { sRec with fabric := { sRec.fabric with asks := [a] } }
theorem witness_Fences_home : sHomeStore.homeStores 0 = true ∧ s0.homeStores 0 = false := by decide +kernel

/-- A fragment that waits for its grant. -/
theorem witness_Growth_granted : (Map.find? sGrow.groups 0).any (fun g => g.flow.frags.any fun f =>
    (sGrow.core 0).grow.any fun r => f.entry == r.entry && f.pc == r.pc && f.hold == .rgrow) = true := by decide +kernel
theorem witness_Growth_stallStore : (let s := sStall
    (Map.find? s.groups 0).any fun own => (youngest (((s.coreGroups 0).filter fun p =>
      !((s.gangOf own).map (·.1)).contains p.1 && p.2.id.saving == 0).map fun p => s.unitOf [] p.2)).any fun u =>
        !u.ages.isEmpty && (stored s).storeRoom u.ages && !s.storeRoom u.ages) = true := by decide +kernel
/-- Starved with others: of few entries, of many; with room in the save store and without; one is being saved. -/
noncomputable def sStarvedMany : State := { sStarved2 with groups := sStarved2.groups ++ [(2, { (Map.find? s0.groups 0).getD noCtx.g with
  id := { ((Map.find? s0.groups 0).getD noCtx.g).id with age := 2, slot := 2 },
  flow := { ((Map.find? s0.groups 0).getD noCtx.g).flow with frags := (List.range 9).map fun i => { c0.f with entry := i } } })] }
theorem witness_Growth_starvedPool : (∀ s ∈ [sStarved2, sStarvedMany], ((s.subGroups 0 0).find? fun p => s.starved p.2).map (·.1) = some 0 ∧
      (((s.subGroups 0 0).filter fun q => q.1 != 0).filter fun q => decide (8 < q.2.flow.frags.length)).length = (if s = sStarved2 then 0 else 1) ∧
      ((s.subGroups 0 0).filter fun q => q.1 != 0) ≠ [] ∧ s.storeRoom [1] = false ∧ (stored s).storeRoom [1] = true) ∧
    ((sStarved.subGroups 0 0).filter fun q => q.1 != 0) = [] ∧
    ∃ q ∈ (sStarved2.onGroup 1 fun g => { g with id := { g.id with saving := 1 } }).subGroups 0 0, q.2.id.saving ≠ 0 := by decide +kernel
theorem witness_Launches_portBlocked : s0.coreBlocked (.launchPortWrite 5 0 63 8 7) 5 = false ∧
    (let s : State := { s0 with inbox := [(false, .launchPortWrite 5 0 0 8 1)] }; s.coreBlocked (.launchPortWrite 5 0 63 8 7) 5 = true) := by
  decide +kernel
theorem witness_Accesses_register : s0.coreBlocked (.registerWrite 5 0x400000000 1) 5 = false ∧ s0.boot.verified = true ∧
    State.reset.boot.verified = false ∧
    (let s : State := { s0 with inbox := [(false, .launchPortWrite 5 0 0 8 1)] }; s.coreBlocked (.registerWrite 5 0x400000000 1) 5 = true) := by
  decide +kernel

/-- A group whose remote atomic is half sent is selected in the debug window. -/
noncomputable def sHalfSent : State := let s := next sTableFull (.xat true 1 1 8 124)
  { s with dbg := { s.dbg with sel := 0 } }
theorem witness_Debug_halting : sHalfSent.sending 0 = true ∧ (Map.find? sHalfSent.groups 0).any (fun g => g.id.age == 0 && !g.id.halted) = true ∧
    (sSel 0 false).sending 0 = false := by decide +kernel
theorem witness_Debug_turns : s0.nextTurn = some 0 ∧ ({ s0 with turn := 1 } : State).nextTurn = none ∧ (0, 0) ∈ s0.turns := by decide +kernel

/-- Granules that keep their place, that get a new mirror, and that are copied. -/
theorem witness_Rack_stream : (2 ^ 31 ≤ (homeWord 0 1).toNat ∧ (homeWord 0 1).toNat / 512 % 512 = 1 ∧
      (sJoined 0).homedHere (0 * 2 ^ 30) = true ∧ (sJoined 0).mirrorPkg (0 * 2 ^ 30) ≠ (sJoined 0).pkg) ∧
    ¬ (sJoined 0).homedHere (128 * 2 ^ 30) = true ∧
    (let s : State := { sJoined 0 with fabric := { (sJoined 0).fabric with copies := [2 ^ 62 / 128], rebuilding := [0] } };
     2 ^ 62 / 128 ∈ s.fabric.copies ∧ (2 ^ 62 / 128) * 128 % 2 ^ 48 / 2 ^ 30 ∈ s.fabric.rebuilding) := by decide +kernel
theorem witness_Rack_linkDue : (let s : State := { sJoined 0 with issuing := [] }
    s.agenda = [] ∧ s.issuing = [] ∧ s.boot.verified = true ∧ s.stepOver = false ∧ s.haltDue = none ∧ 16 ≤ Map.get 0 s.fabric.crcFails 2 ∧
      2 ∉ s.fabric.down) := by decide +kernel
theorem witness_Rack_queued : (({ sJoined 0 with boot := { (sJoined 0).boot with queued := true } } : State).boot.queued) = true ∧
    (sJoined 0).boot.queued = false ∧ (sJoined 0).livePackages.head? = some (sJoined 0).pkg ∧
    ({ sJoined 0 with pkg := 1 } : State).livePackages.head? ≠ some 1 := by decide +kernel

/-- Before boot: an event of the board, and one of a core. -/
theorem witness_Step_boot : ofBoard (.rasErrorEvent ⟨.hbm 7, true, 0, 0, 0⟩) = true ∧ ofBoard .heartbeatSend = false ∧
    State.reset.boot.verified = false ∧ State.reset.agenda = [] ∧ State.reset.issuing = [] := by decide +kernel
theorem witness_Growth_image : (Map.find? sSaved.groups 0).any (fun g => g.saved.any fun i => i.slots.all fun p => p.2.ro.isNone) = true := by
  decide +kernel

end Sys2Proof.Tests
end

section
/-! The NaN results of the floating-point functions: what a NaN operand and an invalid operation give before rounding
(R66, R68), and what rounding makes of a NaN (Table 3.11). -/

namespace Sys2Proof.Machine

/-! ## The classes of values -/

theorem Val.isNan_iff {v : Val} : v.isNan = true ↔ v = .nan := by
  cases v <;> simp [Val.isNan]

theorem Val.isInf_iff {v : Val} : v.isInf = true ↔ v = .inf v.isNeg := by
  cases v <;> simp [Val.isInf, Val.isNeg]

theorem Val.isZero_iff {v : Val} : v.isZero = true ↔ ∃ neg e, v = .fin neg 0 e := by
  cases v <;> simp [Val.isZero]

@[simp] theorem Val.isNan_negate (v : Val) : v.negate.isNan = v.isNan := by
  cases v <;> rfl

/-! ## The exact sum and the exact product -/

@[simp] theorem addVal_nan_left (m : Mode) (v : Val) : addVal m .nan v = (.nan, 0#4) := rfl

@[simp] theorem addVal_nan_right (m : Mode) (v : Val) : addVal m v .nan = (.nan, 0#4) := by
  cases v <;> rfl

@[simp] theorem mulVal_nan_left (v : Val) : mulVal .nan v = (.nan, 0#4) := rfl

@[simp] theorem mulVal_nan_right (v : Val) : mulVal v .nan = (.nan, 0#4) := by
  cases v <;> rfl

theorem addVal_of_isNan {v w : Val} (m : Mode) (h : v.isNan = true ∨ w.isNan = true) : addVal m v w = (.nan, 0#4) := by
  obtain hv | hw := h
  · rw [Val.isNan_iff.mp hv, addVal_nan_left]
  · rw [Val.isNan_iff.mp hw, addVal_nan_right]

theorem mulVal_of_isNan {v w : Val} (h : v.isNan = true ∨ w.isNan = true) : mulVal v w = (.nan, 0#4) := by
  obtain hv | hw := h
  · rw [Val.isNan_iff.mp hv, mulVal_nan_left]
  · rw [Val.isNan_iff.mp hw, mulVal_nan_right]

theorem addVal_of_opposite_inf {v w : Val} (m : Mode) (hv : v.isInf = true) (hw : w.isInf = true)
    (hsign : v.isNeg ≠ w.isNeg) : addVal m v w = (.nan, flagNV) := by
  rw [Val.isInf_iff.mp hv, Val.isInf_iff.mp hw]
  exact if_neg hsign

theorem mulVal_of_zero_inf {v w : Val} (hv : v.isZero = true) (hw : w.isInf = true) : mulVal v w = (.nan, flagNV) := by
  obtain ⟨neg, e, rfl⟩ := Val.isZero_iff.mp hv
  rw [Val.isInf_iff.mp hw]
  rfl

theorem mulVal_of_inf_zero {v w : Val} (hv : v.isInf = true) (hw : w.isZero = true) : mulVal v w = (.nan, flagNV) := by
  obtain ⟨neg, e, rfl⟩ := Val.isZero_iff.mp hw
  rw [Val.isInf_iff.mp hv]
  rfl

/-! ## Rounding a NaN: a conversion to E2M1 raises invalid, and one to LG6 gives NaR, so these two stand apart -/

theorem finishRound_nan {f : Fmt} (hlg6 : f ≠ .lg6) (he2m1 : f ≠ .e2m1) (m : Mode) (fl : Flags) :
    finishRound f m (.nan, fl) = (f.nanCode, fl) := by
  simp [finishRound, roundVal, hlg6, he2m1]

section Operations

variable {f : Fmt} {a b : Nat} (hlg6 : f ≠ .lg6) (he2m1 : f ≠ .e2m1) (m : Mode)
include hlg6 he2m1

theorem fadd_of_addVal_nan {fl : Flags} (h : addVal m (value f a) (value f b) = (.nan, fl)) :
    fadd f m a b = (f.nanCode, fl) := by
  rw [fadd, h, finishRound_nan hlg6 he2m1]

theorem fsub_of_addVal_nan {fl : Flags} (h : addVal m (value f a) (value f b).negate = (.nan, fl)) :
    fsub f m a b = (f.nanCode, fl) := by
  rw [fsub, h, finishRound_nan hlg6 he2m1]

theorem fmul_of_mulVal_nan {fl : Flags} (h : mulVal (value f a) (value f b) = (.nan, fl)) :
    fmul f m a b = (f.nanCode, fl) := by
  rw [fmul, h, finishRound_nan hlg6 he2m1]

end Operations

/-! ## The smaller and the larger of a NaN and a number -/

theorem fminmax_nan_left {f : Fmt} {a b : Nat} (larger : Bool) (ha : (value f a).isNan = true)
    (hb : (value f b).isNan = false) : fminmax f larger a b = b := by
  simp [fminmax, ha, hb]

theorem fminmax_nan_right {f : Fmt} {a b : Nat} (larger : Bool) (ha : (value f a).isNan = false)
    (hb : (value f b).isNan = true) : fminmax f larger a b = a := by
  simp [fminmax, ha, hb]

/-- Settles O14: each special case makes the exact result a NaN, with the flags it raises, and rounding keeps both. -/
theorem floatSpecialOperands : Obligations.FloatSpecialOperands := by
  unfold Obligations.FloatSpecialOperands
  intro f m a b hf
  have hlg6 : f ≠ .lg6 := by rintro rfl; simp at hf
  have he2m1 : f ≠ .e2m1 := by rintro rfl; simp at hf
  refine ⟨fun hnan => ⟨?sum, ?difference, ?product⟩, fun ha hb hsign => ?infinities, fun ha hb => ⟨?zeroInf, ?infZero⟩,
    fun larger ha hb => ⟨fminmax_nan_left larger ha hb, fminmax_nan_right larger hb ha⟩⟩
  case sum => exact fadd_of_addVal_nan hlg6 he2m1 m (addVal_of_isNan m hnan)
  case difference =>
    exact fsub_of_addVal_nan hlg6 he2m1 m (addVal_of_isNan m (by rwa [Val.isNan_negate]))
  case product => exact fmul_of_mulVal_nan hlg6 he2m1 m (mulVal_of_isNan hnan)
  case infinities => exact fadd_of_addVal_nan hlg6 he2m1 m (addVal_of_opposite_inf m ha hb hsign)
  case zeroInf => exact fmul_of_mulVal_nan hlg6 he2m1 m (mulVal_of_zero_inf ha hb)
  case infZero => exact fmul_of_mulVal_nan hlg6 he2m1 m (mulVal_of_inf_zero hb ha)

end Sys2Proof.Machine
end

section
/-! What the integer functions of one lane compute: as exact numbers (R123, R124, R126), and bit by bit (R124 to R128). -/

namespace Sys2Proof.Machine

/-! ## Exact numbers -/

theorem natCast_two_pow (k : Nat) : ((2 ^ k : Nat) : Int) = 2 ^ k := Int.natCast_pow 2 k

section Exact

variable {n : Nat} (x y : BitVec n)

theorem add_eq_ofInt : x + y = .ofInt n (x.toInt + y.toInt) := by
  rw [BitVec.ofInt_add, BitVec.ofInt_toInt, BitVec.ofInt_toInt]

theorem sub_eq_ofInt : x - y = .ofInt n (x.toInt - y.toInt) := by
  rw [Int.sub_eq_add_neg, BitVec.ofInt_add, BitVec.ofInt_neg, BitVec.ofInt_toInt, BitVec.ofInt_toInt, BitVec.sub_eq_add_neg]

theorem mul_eq_ofInt : x * y = .ofInt n (x.toInt * y.toInt) := by
  rw [BitVec.ofInt_mul, BitVec.ofInt_toInt, BitVec.ofInt_toInt]

theorem shiftLeft_eq_ofNat (k : Nat) : x <<< k = .ofNat n (x.toNat * 2 ^ k) := by
  apply BitVec.eq_of_toNat_eq
  rw [BitVec.toNat_shiftLeft, BitVec.toNat_ofNat, Nat.shiftLeft_eq]

theorem ushiftRight_eq_ofNat (k : Nat) : x >>> k = .ofNat n (x.toNat / 2 ^ k) := by
  rw [← Nat.shiftRight_eq_div_pow, ← BitVec.toNat_ushiftRight, BitVec.ofNat_toNat, BitVec.setWidth_eq]

theorem sshiftRight_eq_ofInt (k : Nat) : x.sshiftRight k = .ofInt n (x.toInt / 2 ^ k) := by
  rw [BitVec.sshiftRight, Int.shiftRight_eq_div_pow, natCast_two_pow]

/-- The conditions of Table 4.5, in the order of their codes. -/
theorem cmpHolds_iff (k : BitVec 4) (hk : k.toNat < 12) : cmpHolds k x y = true ↔
    [x = y, x ≠ y, x.toInt < y.toInt, x.toInt ≥ y.toInt, x.toNat < y.toNat, x.toNat ≥ y.toNat,
      x.toInt > y.toInt, x.toInt ≤ y.toInt, x.toNat > y.toNat, x.toNat ≤ y.toNat, x &&& y = 0, x &&& y ≠ 0].getD
      k.toNat False := by
  unfold cmpHolds
  generalize k.toNat = code at hk
  have codes : code = 0 ∨ code = 1 ∨ code = 2 ∨ code = 3 ∨ code = 4 ∨ code = 5 ∨ code = 6 ∨ code = 7 ∨ code = 8 ∨
      code = 9 ∨ code = 10 ∨ code = 11 := by omega
  rcases codes with rfl | rfl | rfl | rfl | rfl | rfl | rfl | rfl | rfl | rfl | rfl | rfl <;>
    simp [BitVec.slt_eq_decide, BitVec.ult_eq_decide]

end Exact

theorem laneMin_eq (a b : Lane) : laneMin a b = if a.toInt ≤ b.toInt then a else b := by
  unfold laneMin
  rw [BitVec.slt_eq_decide]
  by_cases h : a.toInt ≤ b.toInt
  · simp [h, Int.not_lt.2 h]
  · simp [h, Int.not_le.1 h]

/-- Where the two are equal, either is the larger. -/
theorem laneMax_eq (a b : Lane) : laneMax a b = if a.toInt ≤ b.toInt then b else a := by
  unfold laneMax
  rw [BitVec.slt_eq_decide]
  rcases Int.lt_trichotomy a.toInt b.toInt with h | h | h
  · simp [h, Int.le_of_lt h]
  · simp [BitVec.toInt_inj.1 h]
  · simp [Int.not_le.2 h, Int.not_lt.2 (Int.le_of_lt h)]

theorem laneAbsDiff_eq (a b : Lane) :
    laneAbsDiff a b = .ofInt 32 (if a.toInt ≤ b.toInt then b.toInt - a.toInt else a.toInt - b.toInt) := by
  unfold laneAbsDiff
  rw [← BitVec.ofInt_natCast]
  congr 1
  split <;> omega

theorem laneDot4_eq (d a b : Lane) : laneDot4 d a b = .ofInt 32 (d.toInt + ((List.range 4).map fun k =>
    (a.extractLsb' (8 * k) 8).toInt * (b.extractLsb' (8 * k) 8).toInt).sum) := by
  unfold laneDot4 byteInt
  simp [List.range_succ, Int.add_assoc]

theorem addCarry_exact (p q : Lane) (k : Bool) :
    ((p + q + BitVec.ofNat 32 k.toNat).toNat : Int) + 2 ^ 32 * (carryOut p q k).toNat = p.toNat + q.toNat + k.toNat := by
  have hp := p.isLt
  have hq := q.isLt
  have hk := k.toNat_le
  rw [BitVec.toNat_add, BitVec.toNat_add, BitVec.toNat_ofNat]
  unfold carryOut
  by_cases h : 2 ^ 32 ≤ p.toNat + q.toNat + k.toNat <;>
    simp only [h, decide_true, decide_false, Bool.toNat_true, Bool.toNat_false] <;> omega

theorem subBorrow_exact (p q : Lane) (k : Bool) :
    (p.toNat : Int) - q.toNat - k.toNat =
      (p - q - BitVec.ofNat 32 k.toNat).toNat - 2 ^ 32 * (borrowOut p q k).toNat := by
  have hp := p.isLt
  have hq := q.isLt
  have hk := k.toNat_le
  rw [BitVec.toNat_sub, BitVec.toNat_sub, BitVec.toNat_ofNat]
  unfold borrowOut
  by_cases h : p.toNat < q.toNat + k.toNat <;>
    simp only [h, decide_true, decide_false, Bool.toNat_true, Bool.toNat_false] <;> omega

/-! ## Counts -/

theorem popCount_eq_countP (k n : Nat) : popCount k n = (List.range k).countP n.testBit := by
  induction k generalizing n with
  | zero => rfl
  | succ k ih =>
    have tail : n.testBit ∘ Nat.succ = (n / 2).testBit := funext fun i => Nat.testBit_succ n i
    rw [popCount, ih, List.range_succ_eq_map, List.countP_cons, List.countP_map, tail, Nat.testBit_zero]
    rcases Nat.mod_two_eq_zero_or_one n with h | h <;> simp [h, Nat.add_comm]

theorem popCount_toNat {n : Nat} (k : Nat) (x : BitVec n) :
    popCount k x.toNat = (List.range k).countP fun i => x.getLsbD i := by
  simp only [popCount_eq_countP, ← BitVec.testBit_toNat]

/-- The leading zeros end at the highest one bit. -/
theorem leadingZeros_toNat {n : Nat} (x : BitVec n) : leadingZeros n x.toNat ≤ n ∧
    (∀ i, n - leadingZeros n x.toNat ≤ i → x.getLsbD i = false) ∧
    (leadingZeros n x.toNat < n → x.getLsbD (n - 1 - leadingZeros n x.toNat) = true) := by
  unfold leadingZeros
  by_cases h0 : x.toNat = 0
  · simp [BitVec.eq_of_toNat_eq (h0.trans BitVec.toNat_zero.symm)]
  · have hlog : x.toNat.log2 < n := (Nat.log2_lt h0).2 x.isLt
    simp only [h0, if_false, ← BitVec.testBit_toNat]
    refine ⟨by omega, fun i hi => ?_, fun _ => ?_⟩
    · exact Nat.testBit_lt_two_pow ((Nat.log2_lt h0).1 (by omega))
    · rw [show n - 1 - (n - 1 - x.toNat.log2) = x.toNat.log2 by omega]
      exact Nat.testBit_log2 h0

/-- The first lane of a mask that meets a condition. -/
theorem find?_lanesOf {m : Lane} {p : Nat → Bool} {l : Nat} : (lanesOf m).find? p = some l ↔
    (m.getLsbD l = true ∧ p l = true) ∧ ∀ k, k < l → m.getLsbD k = true → p k = false := by
  have inRange : m.getLsbD l = true → l < 32 := fun h => lt_of_mem_lanesOf (mem_lanesOf.2 h)
  rw [lanesOf, List.find?_filter, List.find?_range_eq_some]
  simp only [decide_eq_true_eq, List.mem_range, Bool.not_eq_true', decide_eq_false_iff_not, not_and, Bool.not_eq_true]
  exact ⟨fun ⟨hl, _, hk⟩ => ⟨hl, hk⟩, fun ⟨hl, hk⟩ => ⟨hl, inRange hl.1, hk⟩⟩

theorem lowestLane_spec (m : Lane) : lowestLane m ≤ 32 ∧ (∀ i, i < lowestLane m → m.getLsbD i = false) ∧
    (lowestLane m < 32 → m.getLsbD (lowestLane m) = true) := by
  have first : lowestLane m = ((lanesOf m).find? fun _ => true).getD 32 := by
    unfold lowestLane
    cases lanesOf m <;> rfl
  rw [first]
  cases h : (lanesOf m).find? fun _ => true with
  | none =>
    refine ⟨Nat.le_refl _, fun i _ => ?_, fun h => absurd h (Nat.lt_irrefl _)⟩
    rw [List.find?_eq_none] at h
    exact Bool.eq_false_iff.2 fun hi => h i (mem_lanesOf.2 hi) rfl
  | some l =>
    obtain ⟨⟨hl, _⟩, below⟩ := find?_lanesOf.1 h
    refine ⟨Nat.le_of_lt (lt_of_mem_lanesOf (mem_lanesOf.2 hl)), fun i hi => ?_, fun _ => hl⟩
    exact Bool.eq_false_iff.2 fun hm => by simpa using below i hi hm

/-! ## Bits -/

/-- The bits that a loop sets, one for each number that passes a test. -/
theorem foldl_laneBit_if_getLsbD (ls : List Nat) (p : Nat → Bool) (f : Nat → Nat) (hf : ∀ k ∈ ls, f k < 32) (i : Nat) :
    (ls.foldl (fun (r : Lane) k => if p k then r ||| laneBit (f k) else r) 0).getLsbD i =
      decide (∃ k ∈ ls, p k = true ∧ f k = i) := by
  have loop : ls.foldl (fun (r : Lane) k => if p k then r ||| laneBit (f k) else r) 0 = maskOf ((ls.filter p).map f) := by
    rw [maskOf, List.foldl_map, List.foldl_filter]
  have inRange : ∀ l ∈ (ls.filter p).map f, l < 32 := by
    intro l hl
    obtain ⟨k, hk, rfl⟩ := List.mem_map.1 hl
    exact hf k (List.mem_filter.1 hk).1
  rw [loop, maskOf_getLsbD _ inRange]
  simp only [List.mem_map, List.mem_filter, and_assoc]

theorem laneReverse_getLsbD (a : Lane) {i : Nat} (hi : i < 32) : (laneReverse a).getLsbD i = a.getLsbD (31 - i) := by
  rw [laneReverse, foldl_laneBit_if_getLsbD _ a.getLsbD (31 - ·) (fun k _ => by omega)]
  rw [Bool.eq_iff_iff, decide_eq_true_iff]
  constructor
  · rintro ⟨k, hk, ha, rfl⟩
    rw [List.mem_range] at hk
    rwa [show 31 - (31 - k) = k by omega]
  · exact fun ha => ⟨31 - i, List.mem_range.2 (by omega), ha, by omega⟩

theorem laneLop3_getLsbD (t : BitVec 8) (d a b : Lane) {i : Nat} (hi : i < 32) : (laneLop3 t d a b).getLsbD i =
    t.getLsbD (4 * (a.getLsbD i).toNat + 2 * (b.getLsbD i).toNat + (d.getLsbD i).toNat) := by
  refine (foldl_laneBit_if_getLsbD (List.range 32)
    (fun k => t.getLsbD (4 * (a.getLsbD k).toNat + 2 * (b.getLsbD k).toNat + (d.getLsbD k).toNat)) (fun k => k)
    (fun k hk => List.mem_range.1 hk) i).trans ?_
  rw [Bool.eq_iff_iff, decide_eq_true_iff]
  constructor
  · rintro ⟨k, -, ht, rfl⟩
    exact ht
  · exact fun ht => ⟨i, List.mem_range.2 hi, ht, rfl⟩

theorem laneFunnelLeft_getLsbD (d a b : Lane) {i : Nat} (hi : i < 32) : (laneFunnelLeft d a b).getLsbD i =
    if i < shift5 b then a.getLsbD (32 - shift5 b + i) else d.getLsbD (i - shift5 b) := by
  have count : shift5 b < 32 := Nat.mod_lt _ (by decide)
  simp only [laneFunnelLeft, BitVec.getLsbD_extractLsb', hi, decide_true, Bool.true_and, BitVec.getLsbD_append]
  by_cases h : i < shift5 b
  · rw [if_pos h, if_pos (by omega)]
  · rw [if_neg h, if_neg (by omega), show 32 - shift5 b + i - 32 = i - shift5 b by omega]

theorem laneFunnelRight_getLsbD (d a b : Lane) {i : Nat} (hi : i < 32) : (laneFunnelRight d a b).getLsbD i =
    if i + shift5 b < 32 then d.getLsbD (i + shift5 b) else a.getLsbD (i + shift5 b - 32) := by
  simp only [laneFunnelRight, BitVec.getLsbD_extractLsb', hi, decide_true, Bool.true_and, BitVec.getLsbD_append,
    Nat.add_comm i]

theorem laneExtractUnsigned_getLsbD (a b : Lane) {i : Nat} (hi : i < 32) : (laneExtractUnsigned a b).getLsbD i =
    (decide (i < (field32 b).2) && a.getLsbD ((field32 b).1 + i)) := by
  simp only [laneExtractUnsigned, BitVec.getLsbD_ofNat, hi, decide_true, Bool.true_and, Nat.testBit_mod_two_pow,
    Nat.testBit_div_two_pow, BitVec.testBit_toNat, Nat.add_comm i]

/-- VBFX.i32 extends the field's sign. -/
theorem laneExtractSigned_eq_signExtend (a b : Lane) :
    laneExtractSigned a b = (a.extractLsb' (field32 b).1 (field32 b).2).signExtend 32 := by
  rcases hf : field32 b with ⟨pos, w⟩
  simp only [laneExtractSigned, hf, BitVec.signExtend, BitVec.toInt_eq_toNat_cond, BitVec.extractLsb'_toNat,
    Nat.shiftRight_eq_div_pow]
  cases w with
  | zero => simp [Nat.mod_one]
  | succ w =>
    have half : 2 ^ w ≤ a.toNat / 2 ^ pos % 2 ^ (w + 1) ↔ ¬ 2 * (a.toNat / 2 ^ pos % 2 ^ (w + 1)) < 2 ^ (w + 1) := by
      rw [Nat.pow_succ]; omega
    rw [if_neg (Nat.succ_ne_zero w), Nat.add_sub_cancel, ite_cond_congr (propext half), ite_not,
      apply_ite (BitVec.ofInt 32), BitVec.ofInt_natCast, natCast_two_pow]

theorem laneExtractSigned_getLsbD (a b : Lane) {i : Nat} (hi : i < 32) : (laneExtractSigned a b).getLsbD i =
    (decide (0 < (field32 b).2) && a.getLsbD ((field32 b).1 + min i ((field32 b).2 - 1))) := by
  rw [laneExtractSigned_eq_signExtend, BitVec.getLsbD_signExtend, BitVec.msb_eq_getLsbD_last,
    BitVec.getLsbD_extractLsb', BitVec.getLsbD_extractLsb']
  generalize (field32 b).2 = w
  by_cases h : i < w
  · simp only [hi, h, if_true, decide_true, Bool.true_and, Nat.zero_lt_of_lt h, Nat.min_eq_left (Nat.le_sub_one_of_lt h)]
  · have last : w - 1 < w ↔ 0 < w := by omega
    simp only [hi, h, last, if_false, decide_true, Bool.true_and, Nat.min_eq_right (show w - 1 ≤ i by omega)]

theorem laneInsert_getLsbD (d a b : Lane) {i : Nat} (hi : i < 32) : (laneInsert d a b).getLsbD i =
    if (field32 b).1 ≤ i ∧ i < (field32 b).1 + (field32 b).2 then a.getLsbD (i - (field32 b).1) else d.getLsbD i := by
  have field : i - (field32 b).1 < (field32 b).2 ∧ (field32 b).1 ≤ i ↔
      (field32 b).1 ≤ i ∧ i < (field32 b).1 + (field32 b).2 := by omega
  simp only [laneInsert, BitVec.getLsbD_or, BitVec.getLsbD_and, BitVec.getLsbD_not, BitVec.getLsbD_ofNat, hi,
    decide_true, Bool.true_and, Nat.testBit_mul_two_pow, Nat.testBit_two_pow_sub_one, Nat.testBit_mod_two_pow,
    BitVec.testBit_toNat]
  by_cases h : (field32 b).1 ≤ i ∧ i < (field32 b).1 + (field32 b).2
  · simp [h, (field.2 h).1]
  · rw [if_neg h]
    by_cases hpos : (field32 b).1 ≤ i
    · simp [show ¬ i - (field32 b).1 < (field32 b).2 by omega]
    · simp [hpos]

end Sys2Proof.Machine
end

section
/-! The integer, mask and move instructions by their shapes, and the statements that settle by them. -/

namespace Sys2Proof.Machine

/-! ## Runs of registers -/

theorem Ctx.Fits.subset {c : Ctx} {rs ts : List (Nat × Nat)} (h : c.Fits rs) (sub : ts ⊆ rs) : c.Fits ts :=
  fun r hr => h r (sub hr)

theorem Ctx.Clean.subset {c : Ctx} {lanes : Lane} {rs ts : List (Nat × Nat)} (h : c.Clean lanes rs) (sub : ts ⊆ rs) :
    c.Clean lanes ts := fun l hl r hr => h l hl r (sub hr)

/-- A register read twice is checked once. -/
theorem Ctx.Fits.cons_head {c : Ctx} {p : Nat × Nat} {rs : List (Nat × Nat)} (h : c.Fits (p :: rs)) :
    c.Fits (p :: p :: rs) := h.subset (by simp)

theorem Ctx.Clean.cons {c : Ctx} {lanes : Lane} {p : Nat × Nat} {rs : List (Nat × Nat)} (hp : c.Clean lanes [p])
    (h : c.Clean lanes rs) : c.Clean lanes (p :: rs) := by
  rintro l hl r (_ | ⟨_, hr⟩)
  · exact hp l hl p List.mem_cons_self
  · exact h l hl r hr

theorem Ctx.Clean.nil (c : Ctx) (lanes : Lane) : c.Clean lanes [] := fun _ _ _ hr => absurd hr List.not_mem_nil

/-! ## Shapes -/

/-- A check that passes lets the meaning go on. -/
theorem bind_of_ok {α β : Type} {x : Except Stop α} {a : α} {f : α → Except Stop β} {r : Except Stop β}
    (hx : x = .ok a) (hf : f a = r) : (x >>= f) = r := by
  rw [hx, ← hf]
  rfl

/-- A check that fails stops it. -/
theorem bind_of_error {α β : Type} {x : Except Stop α} {e : Stop} {f : α → Except Stop β} (hx : x = .error e) :
    (x >>= f) = .error e := by
  rw [hx]
  rfl

theorem Group.maskFrom_setMBits_filter (g : Group) (n : Nat) (lanes : Lane) (p : Nat → Bool) :
    (g.setMBits n lanes (maskOf ((lanesOf lanes).filter p))).MaskFrom g n lanes p :=
  { g.maskFrom_setMBits n lanes _ with
    value := fun l hl => by rw [Group.setMBits_bit, if_pos hl, maskOf_filter_getLsbD, hl, Bool.true_and] }

theorem Group.maskFrom_setM (g : Group) (n : Nat) (v : Lane) :
    (g.setM n v).MaskFrom g n (BitVec.allOnes 32) v.getLsbD where
  value l _ := by rw [Group.m_setM, if_pos rfl]
  kept l hl := by
    rw [BitVec.getLsbD_allOnes, decide_eq_false_iff_not, Nat.not_lt] at hl
    rw [BitVec.getLsbD_of_ge _ _ hl, BitVec.getLsbD_of_ge _ _ hl]
  others j hj := by rw [Group.m_setM, if_neg hj.symm]
  rest := rfl

section Shapes

variable {s : State} {c : Ctx} (h : s.ctx? = some c) {i : Instr}
include h

/-- A vector instruction of one register completes with its function of each lane. -/
theorem vectorInt_result {rd : List (Nat × Nat)} {d : Nat} {f : Ctx → Nat → Lane} {r : Nat → Lane}
    (fit : c.Fits ((d, 1) :: rd)) (clean : c.Clean c.active rd) (hi : exec i s = vectorInt s rd d f)
    (e : ∀ l, f c l = r l) : VectorResult s c i d 1 (fun l _ => r l) 0#4 :=
  vectorResult_of_int (hi.trans (vectorInt_next h fit clean f)) fun l _ _ _ => e l

/-- The same, where the result is said bit by bit. -/
theorem vectorInt_bits {rd : List (Nat × Nat)} {d : Nat} {f : Ctx → Nat → Lane} {p : Nat → Nat → Bool}
    (fit : c.Fits ((d, 1) :: rd)) (clean : c.Clean c.active rd) (hi : exec i s = vectorInt s rd d f)
    (e : ∀ l i, i < 32 → (f c l).getLsbD i = p l i) :
    ∃ r : Nat → Lane, VectorResult s c i d 1 (fun l _ => r l) 0#4 ∧ ∀ l i, i < 32 → (r l).getLsbD i = p l i :=
  ⟨f c, vectorInt_result h fit clean hi fun _ => rfl, e⟩

/-- An instruction that writes a mask register whole. -/
theorem maskResult_whole {n : Nat} {f : Ctx → Lane} {v : Lane}
    (hi : exec i s = run s fun c' => .ok (c'.done s (c'.g.setM n (f c')))) (e : f c = v) :
    MaskResult s c i n (BitVec.allOnes 32) fun l => v.getLsbD l :=
  ⟨_, hi.trans (run_ok h rfl), e ▸ c.g.maskFrom_setM n (f c)⟩

/-- An instruction that writes a scalar register, without a check. -/
theorem scalarResult_run {d : BitVec 6} {f : Ctx → Word} {w : Word}
    (hi : exec i s = run s fun c' => .ok (c'.done s (c'.g.setS d (f c')))) (e : f c = w) : ScalarResult s c i d w :=
  scalarResult_of (hi.trans (run_ok h rfl)) e

/-- A compare gives each active lane's bit. -/
theorem vectorMask_result {rd : List (Nat × Nat)} {m : Nat} {f : Ctx → Nat → Bool} (fit : c.Fits rd)
    (clean : c.Clean c.active rd) (hi : exec i s = vectorMask s rd m f) : MaskResult s c i m c.active (f c) :=
  ⟨_, hi.trans (vectorMask_next h fit clean f), c.g.maskFrom_setMBits_filter m c.active (f c)⟩

/-- A carry form writes the lanes' results, and then the lanes' bits of m7. -/
theorem carryOp_result {x : Bool} {b a d : BitVec 7} {f : Lane → Lane → Bool → Lane} {carry : Lane → Lane → Bool → Bool}
    (fit : c.Fits ((d.toNat, 1) :: (a.toNat, 1) :: runB x b 1)) (clean : c.Clean c.active ((a.toNat, 1) :: runB x b 1))
    (hi : exec i s = carryOp s x b a d f carry) :
    ∃ g1 g2 : Group, exec i s = .next (c.done s g2) ∧
      g1.VectorFrom c.g (c.g.vKey d.toNat) 1 c.active
        (fun l _ => f (c.g.v a.toNat l) (c.srcB x b l) ((c.g.m 7).getLsbD l)) ∧
      g2.MaskFrom g1 7 c.active fun l => carry (c.g.v a.toNat l) (c.srcB x b l) ((c.g.m 7).getLsbD l) := by
  refine ⟨_, _, hi.trans (run_ok h ?_), c.g.vectorFrom_setCells _ 1 c.active _,
    Group.maskFrom_setMBits_filter _ 7 c.active _⟩
  exact bind_of_ok (Ctx.checkRuns_ok fit) (bind_of_ok (Ctx.checkEcc_ok clean) rfl)

end Shapes

/-! ## Mask registers -/

/-- Settles O5: five of the instructions write a mask register whole, four a scalar register. -/
theorem maskInstructions : Obligations.MaskInstructions := by
  unfold Obligations.MaskInstructions
  intro s c k b a src d h B whole
  obtain ⟨le, below, found⟩ := lowestLane_spec B
  refine ⟨maskResult_whole h (exec_mand ..) rfl, maskResult_whole h (exec_mor ..) rfl, maskResult_whole h (exec_mxor ..) rfl,
    maskResult_whole h (exec_mnot ..) rfl, maskResult_whole h (exec_mset ..) rfl, ?pop,
    ⟨lowestLane B, ?find, le, below, found⟩, ?get, ?lanes⟩
  case pop => exact scalarResult_run h (exec_mpop ..) (congrArg (BitVec.ofNat 64) (popCount_toNat 32 B))
  case find => exact scalarResult_run h (exec_mfind ..) rfl
  case get => exact scalarResult_run h (exec_mget ..) rfl
  case lanes => exact scalarResult_run h (exec_mgetLanes ..) rfl

/-! ## Arithmetic and logic -/

/-- Settles O6: each is a vector instruction of one register, whose function of a lane is the exact one of R123 or R124. -/
theorem vectorIntegerResults : Obligations.VectorIntegerResults := by
  unfold Obligations.VectorIntegerResults
  intro s c x b a d h fit clean lanes
  refine ⟨?add, ?sub, ?mul, ?mulh, ?min, ?max, ?absd, ?and, ?or, ?xor, ?shl, ?shr, ?sra, fun cleanD => ?dot⟩
  case add => exact vectorInt_result h fit clean (exec_vadd ..) fun _ => add_eq_ofInt _ _
  case sub => exact vectorInt_result h fit clean (exec_vsub ..) fun _ => sub_eq_ofInt _ _
  case mul => exact vectorInt_result h fit clean (exec_vmul ..) fun _ => mul_eq_ofInt _ _
  case mulh => exact vectorInt_result h fit clean (exec_vmulh ..) fun _ => rfl
  case min => exact vectorInt_result h fit clean (exec_vmin ..) fun _ => laneMin_eq _ _
  case max => exact vectorInt_result h fit clean (exec_vmax ..) fun _ => laneMax_eq _ _
  case absd => exact vectorInt_result h fit clean (exec_vabsd ..) fun _ => laneAbsDiff_eq _ _
  case and => exact vectorInt_result h fit clean (exec_vand ..) fun _ => rfl
  case or => exact vectorInt_result h fit clean (exec_vor ..) fun _ => rfl
  case xor => exact vectorInt_result h fit clean (exec_vxor ..) fun _ => rfl
  case shl => exact vectorInt_result h fit clean (exec_vshl ..) fun _ => shiftLeft_eq_ofNat _ _
  case shr => exact vectorInt_result h fit clean (exec_vshr ..) fun _ => ushiftRight_eq_ofNat _ _
  case sra => exact vectorInt_result h fit clean (exec_vsra ..) fun _ => sshiftRight_eq_ofInt _ _
  case dot => exact vectorInt_result h fit.cons_head (cleanD.cons clean) (exec_vdot4 ..) fun _ => laneDot4_eq _ _ _

/-! ## Bits -/

/-- Settles O7: each is a vector instruction of one register, whose function of a lane is known bit by bit. -/
theorem vectorBitResults : Obligations.VectorBitResults := by
  unfold Obligations.VectorBitResults
  intro s c x b a d t b6 a6 d6 h src bits pos w A D fit clean
  have fitA : c.Fits [(d.toNat, 1), (a.toNat, 1)] := fit.subset (by simp)
  have cleanA : c.Clean c.active [(a.toNat, 1)] := clean.subset (by simp)
  refine ⟨?bfxN, ?bfxI, ?brev, ?not, ?popc, ?clz, fun cleanD => ⟨?fshl, ?fshr, ?bfi⟩, fun fit6 clean6 => ?lop3⟩
  case bfxN => exact vectorInt_bits h fit clean (exec_vbfxN32 ..) fun l _ => laneExtractUnsigned_getLsbD (A l) (src l)
  case bfxI => exact vectorInt_bits h fit clean (exec_vbfxI32 ..) fun l _ => laneExtractSigned_getLsbD (A l) (src l)
  case brev => exact vectorInt_bits h fitA cleanA (exec_vbrev ..) fun l _ => laneReverse_getLsbD (A l)
  case not =>
    exact vectorInt_bits h fitA cleanA (exec_vnot ..) fun l i hi => by
      rw [BitVec.getLsbD_not, decide_eq_true hi, Bool.true_and]
  case popc =>
    exact vectorInt_result h fitA cleanA (exec_vpopc ..) fun l => congrArg (BitVec.ofNat 32) (popCount_toNat 32 (A l))
  case clz =>
    exact ⟨fun l => leadingZeros 32 (A l).toNat, vectorInt_result h fitA cleanA (exec_vclz ..) fun _ => rfl,
      fun l => leadingZeros_toNat (A l)⟩
  case fshl =>
    exact vectorInt_bits h fit.cons_head (cleanD.cons clean) (exec_vfshl ..)
      fun l _ => laneFunnelLeft_getLsbD (D l) (A l) (src l)
  case fshr =>
    exact vectorInt_bits h fit.cons_head (cleanD.cons clean) (exec_vfshr ..)
      fun l _ => laneFunnelRight_getLsbD (D l) (A l) (src l)
  case bfi =>
    exact vectorInt_bits h fit.cons_head (cleanD.cons clean) (exec_vbfi ..)
      fun l _ => laneInsert_getLsbD (D l) (A l) (src l)
  case lop3 =>
    exact vectorInt_bits h fit6.cons_head clean6 (exec_vlop3 ..) fun l _ => laneLop3_getLsbD t _ _ _

/-! ## Immediates and the 16-bit forms -/

theorem add_limm {n : Nat} (a : Lane) (imm : BitVec n) : a + limm imm = .ofInt 32 (a.toInt + imm.toInt) := by
  rw [BitVec.ofInt_add, BitVec.ofInt_toInt, limm, BitVec.signExtend]

/-- The 16-bit VMOV is a vector instruction unless it names one register twice (R46). -/
theorem exec_vmov16_of_ne {x : Bool} {src d : BitVec 5} (other : x = true ∨ src ≠ d) (s : State) :
    exec (.vmov16 x src d) s = vectorInt s (shortRun x src) d.toNat fun c l => c.shortSrc x src l := by
  have moves : (!x && src == d) = false := by
    rcases other with rfl | hne
    · rfl
    · rw [beq_eq_false_iff_ne.2 hne, Bool.and_false]
  rw [exec_vmov16, execVmov16, moves, if_neg Bool.false_ne_true]

/-- Settles O8: the immediate and the 16-bit forms compute the functions of the 32-bit forms. -/
theorem vectorImmediateAndShortResults : Obligations.VectorImmediateAndShortResults := by
  unfold Obligations.VectorImmediateAndShortResults
  intro s c x i8 i5 i15 a d src d5 h S from_
  refine ⟨fun fit => ?li, fun fit clean => ⟨?addi, ?andi, ?ori, ?xori, ?shli, ?shri, ?srai⟩, fun fit clean other => ?mov,
    fun fit clean => ⟨?add, ?sub, ?mul, ?and, ?or, ?xor, ?shl, ?shr, ?sra⟩, fun fit clean => ?addi16⟩
  case li => exact vectorInt_result h fit (.nil c _) (exec_vli ..) fun _ => rfl
  case addi => exact vectorInt_result h fit clean (exec_vaddi ..) fun _ => add_limm _ _
  case andi => exact vectorInt_result h fit clean (exec_vandi ..) fun _ => rfl
  case ori => exact vectorInt_result h fit clean (exec_vori ..) fun _ => rfl
  case xori => exact vectorInt_result h fit clean (exec_vxori ..) fun _ => rfl
  case shli => exact vectorInt_result h fit clean (exec_vshli ..) fun _ => shiftLeft_eq_ofNat _ _
  case shri => exact vectorInt_result h fit clean (exec_vshri ..) fun _ => ushiftRight_eq_ofNat _ _
  case srai => exact vectorInt_result h fit clean (exec_vsrai ..) fun _ => sshiftRight_eq_ofInt _ _
  case mov => exact vectorInt_result h fit clean (exec_vmov16_of_ne other s) fun _ => rfl
  case add => exact vectorInt_result h fit.cons_head clean (exec_vadd16 ..) fun _ => add_eq_ofInt _ _
  case sub => exact vectorInt_result h fit.cons_head clean (exec_vsub16 ..) fun _ => sub_eq_ofInt _ _
  case mul => exact vectorInt_result h fit.cons_head clean (exec_vmul16 ..) fun _ => mul_eq_ofInt _ _
  case and => exact vectorInt_result h fit.cons_head clean (exec_vand16 ..) fun _ => rfl
  case or => exact vectorInt_result h fit.cons_head clean (exec_vor16 ..) fun _ => rfl
  case xor => exact vectorInt_result h fit.cons_head clean (exec_vxor16 ..) fun _ => rfl
  case shl => exact vectorInt_result h fit.cons_head clean (exec_vshl16 ..) fun _ => shiftLeft_eq_ofNat _ _
  case shr => exact vectorInt_result h fit.cons_head clean (exec_vshr16 ..) fun _ => ushiftRight_eq_ofNat _ _
  case sra => exact vectorInt_result h fit.cons_head clean (exec_vsra16 ..) fun _ => sshiftRight_eq_ofInt _ _
  case addi16 => exact vectorInt_result h fit.cons_head clean (exec_vaddi16 ..) fun _ => add_limm _ _

/-! ## Carries -/

/-- Settles O9: each lane's result with its carry or borrow out is the exact sum or difference. -/
theorem carryForms : Obligations.CarryForms := by
  unfold Obligations.CarryForms
  intro s c x b a d h fit clean B A carry completes
  exact ⟨⟨_, _, carryOp_result h fit clean (exec_vaddc ..), fun l => addCarry_exact (A l) (B l) _⟩,
    ⟨_, _, carryOp_result h fit clean (exec_vsubb ..), fun l => subBorrow_exact (A l) (B l) _⟩⟩

/-! ## Compares and selects -/

theorem and_laneBit (m : Lane) {l : Nat} (hl : l < 32) : m &&& laneBit l = if m.getLsbD l then laneBit l else 0 := by
  refine BitVec.eq_of_getLsbD_eq fun k _ => ?_
  rw [BitVec.getLsbD_and, laneBit_getLsbD l k hl]
  by_cases hk : k = l
  · subst hk
    cases hm : m.getLsbD k <;> simp [laneBit_getLsbD _ _ hl]
  · cases hm : m.getLsbD l <;> simp [hk, laneBit_getLsbD _ _ hl]

/-- VMOVS reads its lane only where that lane is active (R131). -/
theorem exec_vmovs_next {s : State} {c : Ctx} (h : s.ctx? = some c) (b : BitVec 6) (a : BitVec 7) (d : BitVec 6)
    (fit : c.Fits [(a.toNat, 1)])
    (clean : c.Clean (c.active &&& laneBit ((c.g.s b).toNat % 32)) [(a.toNat, 1)]) :
    exec (.vmovs b a d) s = .next (c.done s (c.g.setS d (if c.active.getLsbD ((c.g.s b).toNat % 32) then
      (c.g.v a.toNat ((c.g.s b).toNat % 32)).setWidth 64 else 0))) := by
  rw [and_laneBit _ (Nat.mod_lt _ (by decide))] at clean
  exact (exec_vmovs ..).trans (run_ok h (bind_of_ok (Ctx.checkRuns_ok fit) (bind_of_ok (Ctx.checkEcc_ok clean) rfl)))

/-- Settles O10: the compare by its table of conditions, the selects and moves by their functions of a lane. -/
theorem vectorComparesAndSelects : Obligations.VectorComparesAndSelects := by
  unfold Obligations.VectorComparesAndSelects
  intro s c x b a d k m sb sd h hk A B holds n
  refine ⟨fun fit clean => ?icmp, fun fit clean => ?sel, fun fit clean => ⟨?mov, ?movxl⟩, fun fit clean => ?movs⟩
  case icmp => exact ⟨_, vectorMask_result h fit clean (exec_vicmp ..), fun l => cmpHolds_iff (A l) (B l) k hk⟩
  case sel => exact vectorInt_result h fit clean (exec_vsel ..) fun _ => rfl
  case mov => exact vectorInt_result h fit clean (exec_vmov ..) fun _ => rfl
  case movxl =>
    refine vectorInt_result h fit clean (exec_vmovxl ..) fun l => ?_
    change BitVec.ofNat 32 l + B l = BitVec.ofNat 32 (l + (B l).toNat)
    rw [BitVec.ofNat_add, BitVec.ofNat_toNat, BitVec.setWidth_eq]
  case movs => exact scalarResult_of (exec_vmovs_next h sb a sd fit clean) rfl

/-! ## Indexed moves -/

section IndexedMoves

variable {c : Ctx} {n : Nat → Nat}

theorem Ctx.checkIndices_ok (low : ∀ l, c.active.getLsbD l = true → n l < c.g.regs.alloc) : c.checkIndices n = .ok () := by
  have none_high : (c.lanes.find? fun l => decide (c.g.regs.alloc ≤ n l)) = none :=
    List.find?_eq_none.2 fun l hl => by simpa using low l (mem_lanesOf.1 hl)
  rw [Ctx.checkIndices, none_high]

/-- The lowest lane out of range is the one that the record names (R132). -/
theorem Ctx.checkIndices_error {l : Nat} (hl : c.active.getLsbD l = true) (high : c.g.regs.alloc ≤ n l)
    (first : ∀ k, k < l → c.active.getLsbD k = true → n k < c.g.regs.alloc) :
    c.checkIndices n = .error (.trap { cause := .illegal, lane := l, word := BitVec.ofNat 64 c.word }) := by
  have found : (c.lanes.find? fun l => decide (c.g.regs.alloc ≤ n l)) = some l :=
    find?_lanesOf.2 ⟨⟨hl, by simpa using high⟩, fun k hk ha => by simpa using first k hk ha⟩
  rw [Ctx.checkIndices, found]

/-- VMOVX finds no poison in the register of its index source, nor in the entries that the indices name. -/
theorem Ctx.checkCells_indexed_ok {x : Bool} {b : BitVec 7} (clean : c.Clean c.active (runB x b 1))
    (named : ∀ l, c.active.getLsbD l = true → 32 * n l + l ∉ c.g.regs.poison) :
    c.checkCells (fun k l => c.active.getLsbD l &&
      ((runB x b 1).any (fun r => k == c.g.vKey r.1) || (k == n l && decide (k < 512)))) = .ok () := by
  refine Ctx.checkCells_ok fun i hi => Bool.eq_false_iff.2 fun hread => ?_
  simp only [Bool.and_eq_true, Bool.or_eq_true, List.any_eq_true, beq_iff_eq] at hread
  obtain ⟨hl, ⟨r, hr, hkey⟩ | ⟨hkey, _⟩⟩ := hread
  · have one : r.2 = 1 := by
      cases x
      · rw [List.mem_singleton.1 hr]
      · exact absurd hr List.not_mem_nil
    refine clean _ hl r hr 0 (by omega) ?_
    rwa [Nat.add_zero, ← hkey, Nat.div_add_mod]
  · refine named _ hl ?_
    rwa [← hkey, Nat.div_add_mod]

end IndexedMoves

/-- The cells that VMOVXW writes: lane l of the register that lane l names. -/
def indexedCells (lanes : Lane) (n : Nat → Nat) (f : Nat → Lane) : List (Nat × Lane) :=
  (lanesOf lanes).map fun l => (32 * n l + l, f l)

section IndexedCells

variable (g : Group) {lanes : Lane} (n : Nat → Nat) (f : Nat → Lane)

theorem mem_indexedCells {p : Nat × Lane} :
    p ∈ indexedCells lanes n f ↔ ∃ l, lanes.getLsbD l = true ∧ (32 * n l + l, f l) = p := by
  simp only [indexedCells, List.mem_map, mem_lanesOf]

/-- Lanes write entries of their own, so each finds its value there. -/
theorem Group.cell_setCells_indexed {l : Nat} (hl : lanes.getLsbD l = true) :
    (g.setCells (indexedCells lanes n f)).cell (n l) l = f l := by
  have hl32 := lt_of_mem_lanesOf (mem_lanesOf.2 hl)
  rw [Group.cell_eq_cellAt _ _ _ hl32]
  refine Group.cellAt_setCells_of_mem _ _ _ _ ((mem_indexedCells n f).2 ⟨l, hl, rfl⟩) fun p hp e => ?_
  obtain ⟨k, hk, rfl⟩ := (mem_indexedCells n f).1 hp
  have hk32 := lt_of_mem_lanesOf (mem_lanesOf.2 hk)
  rw [show k = l by simp only at e; omega]

theorem Group.cell_setCells_indexed_other {i l : Nat} (hl : l < 32) (other : ¬ (lanes.getLsbD l = true ∧ i = n l)) :
    (g.setCells (indexedCells lanes n f)).cell i l = g.cell i l := by
  rw [Group.cell_eq_cellAt _ _ _ hl, Group.cell_eq_cellAt _ _ _ hl]
  refine Group.cellAt_setCells_of_not_mem _ _ _ fun p hp e => other ?_
  obtain ⟨k, hk, rfl⟩ := (mem_indexedCells n f).1 hp
  have hk32 := lt_of_mem_lanesOf (mem_lanesOf.2 hk)
  have same : k = l := by simp only at e; omega
  subst same
  exact ⟨hk, by simp only at e; omega⟩

/-- Whatever cells are written, the vector banks and the poison alone change. -/
theorem Group.setCells_eq (cells : List (Nat × Lane)) : g.setCells cells =
    { g with regs := { g.regs with v := (g.setCells cells).regs.v, tv := (g.setCells cells).regs.tv,
                                   poison := (g.setCells cells).regs.poison } } :=
  Group.eq_of_parts (by simp) (g.setCells_regs _) (by simp) (by simp) (by simp) (by simp)

end IndexedCells

/-- Settles O11: a lane's entry is its own, so writes by index do not meet. -/
theorem indexedMoves : Obligations.IndexedMoves := by
  unfold Obligations.IndexedMoves
  intro s c x b a d h _ B nr nw refused
  refine ⟨fun fit clean named => ⟨fun low => ?read, fun l hl high first => ?readRefused⟩,
    fun fit clean => ⟨fun low => ?write, fun l hl high first => ?writeRefused⟩⟩
  case read =>
    exact vectorResult_of_int ((exec_vmovx ..).trans (run_ok h (bind_of_ok (Ctx.checkRuns_ok fit)
      (bind_of_ok (Ctx.checkCells_indexed_ok clean named) (bind_of_ok (Ctx.checkIndices_ok low) rfl)))))
      fun _ _ _ _ => rfl
  case readRefused =>
    exact (exec_vmovx ..).trans (run_error h (bind_of_ok (Ctx.checkRuns_ok fit)
      (bind_of_ok (Ctx.checkCells_indexed_ok clean named) (bind_of_error (Ctx.checkIndices_error hl high first)))))
  case write =>
    refine ⟨c.g.setCells (indexedCells c.active nw (c.g.v a.toNat)), (exec_vmovxw ..).trans (run_ok h ?_),
      fun l hl => c.g.cell_setCells_indexed nw _ hl, fun i l hl other => c.g.cell_setCells_indexed_other nw _ hl other,
      c.g.setCells_eq _⟩
    exact bind_of_ok (Ctx.checkRuns_ok fit) (bind_of_ok (Ctx.checkEcc_ok clean) (bind_of_ok (Ctx.checkIndices_ok low) rfl))
  case writeRefused =>
    exact (exec_vmovxw ..).trans (run_error h (bind_of_ok (Ctx.checkRuns_ok fit)
      (bind_of_ok (Ctx.checkEcc_ok clean) (bind_of_error (Ctx.checkIndices_error hl high first)))))

end Sys2Proof.Machine
end

section
/-! The floating-point instructions of fixed latency by their shapes (R141 to R150), and the statements that settle by
them. -/

namespace Sys2Proof.Machine

/-! ## The operands -/

/-- Word k of the vb operand of a pair: of the register pair, or with X = 1 of the 64-bit scalar (R141). -/
def Ctx.pairWord (c : Ctx) (x : Bool) (b : BitVec 7) (k l : Nat) : Nat :=
  if x then (c.g.s (b.setWidth 6)).toNat / 2 ^ (32 * k) % 2 ^ 32 else (c.g.vRun b.toNat k l).toNat

theorem Ctx.srcPair_toNat (c : Ctx) (x : Bool) (b : BitVec 7) {k : Nat} (hk : k < 2) (l : Nat) :
    (c.srcPair x b k l).toNat = c.pairWord x b k l := by
  unfold Ctx.srcPair Ctx.pairWord
  cases x with
  | false => rfl
  | true =>
    obtain rfl | rfl : k = 0 ∨ k = 1 := by omega
    · simp
    · simp [BitVec.toNat_ushiftRight, Nat.shiftRight_eq_div_pow]

theorem Ctx.srcPair64_eq (c : Ctx) (x : Bool) (b : BitVec 7) (l : Nat) :
    c.srcPair64 x b l = c.pairWord x b 1 l * 2 ^ 32 + c.pairWord x b 0 l := by
  rw [Ctx.srcPair64, c.srcPair_toNat x b (by decide), c.srcPair_toNat x b (by decide)]

/-- The destination's run is checked once, though an instruction that also reads it names it twice. -/
theorem Ctx.Fits.readD {c : Ctx} {p : Nat × Nat} {rs : List (Nat × Nat)} (h : c.Fits (p :: rs)) (readD : Bool) :
    c.Fits (p :: ((if readD then [p] else []) ++ rs)) := by
  cases readD
  · exact h
  · exact h.cons_head

theorem Ctx.Clean.readD {c : Ctx} {lanes : Lane} {p : Nat × Nat} {rs : List (Nat × Nat)} (h : c.Clean lanes rs)
    {readD : Bool} (hp : readD = true → c.Clean lanes [p]) : c.Clean lanes ((if readD then [p] else []) ++ rs) := by
  cases readD
  · exact h
  · exact (hp rfl).cons h

theorem foldl_range_two {α : Type} (f : α → Nat → α) (a : α) : (List.range 2).foldl f a = f (f a 0) 1 := rfl

/-! ## Shapes -/

section Shapes

variable {s : State} {c : Ctx} (h : s.ctx? = some c) {i : Instr}
include h

/-- A vector instruction of one register that raises flags completes with its function of each lane, and with the flags
of the active lanes together. -/
theorem vectorOp_result {rd : List (Nat × Nat)} {d : Nat} {f : Ctx → Nat → Nat → Lane × Flags} {r : Nat → Lane × Flags}
    (fit : c.Fits ((d, 1) :: rd)) (clean : c.Clean c.active rd) (hi : exec i s = vectorOp s rd d 1 f)
    (e : ∀ l, f c l 0 = r l) : VectorResult s c i d 1 (fun l _ => (r l).1) (c.allFlags fun l => (r l).2) := by
  obtain rfl : (f c · 0) = r := funext e
  refine vectorResult_of (hi.trans (vectorOp_next h fit clean f)) fun l j _ hj => ?_
  rw [Nat.lt_one_iff.1 hj]

theorem floatOp_result {readD x : Bool} {b a d : BitVec 7} {f : Mode → Lane → Lane → Lane → Lane × Flags}
    {r : Nat → Lane × Flags} (fit : c.Fits ((d.toNat, 1) :: (a.toNat, 1) :: runB x b 1))
    (clean : c.Clean c.active ((a.toNat, 1) :: runB x b 1)) (hi : exec i s = floatOp s readD x b a d f)
    (cleanD : readD = true → c.Clean c.active [(d.toNat, 1)])
    (e : ∀ l, f c.g.mode (c.g.v d.toNat l) (c.g.v a.toNat l) (c.srcB x b l) = r l) :
    VectorResult s c i d.toNat 1 (fun l _ => (r l).1) (c.allFlags fun l => (r l).2) :=
  vectorOp_result h (fit.readD readD) (clean.readD cleanD) hi e

theorem shortFloat_result {x : Bool} {src d : BitVec 5} {f : Mode → Lane → Lane → Lane × Flags} {r : Nat → Lane × Flags}
    (fit : c.Fits ((d.toNat, 1) :: shortRun x src)) (clean : c.Clean c.active ((d.toNat, 1) :: shortRun x src))
    (hi : exec i s = shortFloat s x src d f) (e : ∀ l, f c.g.mode (c.g.v d.toNat l) (c.shortSrc x src l) = r l) :
    VectorResult s c i d.toNat 1 (fun l _ => (r l).1) (c.allFlags fun l => (r l).2) :=
  vectorOp_result h fit.cons_head clean hi e

/-- A form on pairs of FP32 elements: each element of the destination from those of the operands (R148). -/
theorem pairOp_result {readD x : Bool} {b a d : BitVec 7} {f : Mode → Nat → Nat → Nat → Nat × Flags}
    {r : Nat → Nat → Nat × Flags} (fit : c.Fits ((d.toNat, 2) :: (a.toNat, 2) :: runB x b 2))
    (clean : c.Clean c.active ((a.toNat, 2) :: runB x b 2)) (hi : exec i s = pairOp s readD x b a d f)
    (cleanD : readD = true → c.Clean c.active [(d.toNat, 2)])
    (e : ∀ l k, f c.g.mode (c.g.vRun a.toNat k l).toNat (c.pairWord x b k l) (c.g.vRun d.toNat k l).toNat = r l k) :
    VectorResult s c i d.toNat 2 (fun l k => .ofNat 32 (r l k).1)
      (c.lanes.foldl (fun fl l => fl ||| (r l 0).2 ||| (r l 1).2) 0#4) := by
  have element : ∀ l k, k < 2 → f c.g.mode (c.g.vRun a.toNat k l).toNat (c.srcPair x b k l).toNat
      (c.g.vRun d.toNat k l).toNat = r l k := fun l k hk => by rw [c.srcPair_toNat x b hk, e]
  have completes := hi.trans (vectorOp_next h (fit.readD readD) (clean.readD cleanD) _)
  simp only [foldl_range_two, laneOf, element _ 0 (by decide), element _ 1 (by decide)] at completes
  exact vectorResult_of completes fun l k _ hk => congrArg (fun q : Nat × Flags => BitVec.ofNat 32 q.1) (element l k hk)

/-- A form on FP64 values: the two words of the one result, whose flags count once (R150). -/
theorem doubleOp_result {readD x : Bool} {b a d : BitVec 7} {f : Mode → Nat → Nat → Nat → Nat × Flags}
    {r : Nat → Nat × Flags} (fit : c.Fits ((d.toNat, 2) :: (a.toNat, 2) :: runB x b 2))
    (clean : c.Clean c.active ((a.toNat, 2) :: runB x b 2)) (hi : exec i s = doubleOp s readD x b a d f)
    (cleanD : readD = true → c.Clean c.active [(d.toNat, 2)])
    (e : ∀ l, f c.g.mode (c.g.pair a.toNat l) (c.pairWord x b 1 l * 2 ^ 32 + c.pairWord x b 0 l) (c.g.pair d.toNat l) = r l) :
    VectorResult s c i d.toNat 2 (fun l k => .ofNat 32 ((r l).1 / 2 ^ (32 * k))) (c.allFlags fun l => (r l).2) := by
  have value : ∀ l, f c.g.mode (c.g.pair a.toNat l) (c.srcPair64 x b l) (c.g.pair d.toNat l) = r l := fun l => by
    rw [c.srcPair64_eq, e]
  have completes := hi.trans (vectorOp_next h (fit.readD readD) (clean.readD cleanD) _)
  simp only [foldl_range_two, value, BitVec.or_assoc, BitVec.or_self] at completes
  exact vectorResult_of completes fun _ _ _ _ => rfl

end Shapes

/-! ## One register -/

/-- VFCPYS drops the sign bit of a. -/
theorem and_magnitude_eq (a : Lane) : a &&& 0x7FFFFFFF = (a.setWidth 31).setWidth 32 := by
  apply BitVec.eq_of_toNat_eq
  have magnitude : (0x7FFFFFFF : Lane).toNat = 2 ^ 31 - 1 := rfl
  rw [BitVec.toNat_and, magnitude, Nat.and_two_pow_sub_one_eq_mod, BitVec.toNat_setWidth, BitVec.toNat_setWidth]
  omega

/-- Settles O12: each is a floating form of one register; the three that add to vd read it as well. -/
theorem floatResults : Obligations.FloatResults := by
  unfold Obligations.FloatResults
  intro s c x b a d h fit clean lanes
  refine ⟨?add, ?sub, ?mul, ?min, ?max, ?scale, ?copySign, ?addBf16, ?mulBf16, ?addF16, ?mulF16,
    fun cleanD => ⟨?fma, ?fmaBf16, ?fmaF16⟩⟩
  case add => exact floatOp_result h fit clean (exec_vfadd ..) nofun fun _ => rfl
  case sub => exact floatOp_result h fit clean (exec_vfsub ..) nofun fun _ => rfl
  case mul => exact floatOp_result h fit clean (exec_vfmul ..) nofun fun _ => rfl
  case min => exact floatOp_result h fit clean (exec_vfmin ..) nofun fun _ => rfl
  case max => exact floatOp_result h fit clean (exec_vfmax ..) nofun fun _ => rfl
  case scale => exact floatOp_result h fit clean (exec_vfscale ..) nofun fun _ => rfl
  case copySign =>
    exact floatOp_result h fit clean (exec_vfcpys ..) nofun fun l =>
      congrArg (fun m => (m ||| (c.srcB x b l &&& 0x80000000#32), 0#4)) (and_magnitude_eq (c.g.v a.toNat l))
  case addBf16 => exact floatOp_result h fit clean (exec_vhaddBf16 ..) nofun fun _ => rfl
  case mulBf16 => exact floatOp_result h fit clean (exec_vhmulBf16 ..) nofun fun _ => rfl
  case addF16 => exact floatOp_result h fit clean (exec_vhaddF16 ..) nofun fun _ => rfl
  case mulF16 => exact floatOp_result h fit clean (exec_vhmulF16 ..) nofun fun _ => rfl
  case fma => exact floatOp_result h fit clean (exec_vfma ..) (fun _ => cleanD) fun _ => rfl
  case fmaBf16 => exact floatOp_result h fit clean (exec_vhfmaBf16 ..) (fun _ => cleanD) fun _ => rfl
  case fmaF16 => exact floatOp_result h fit clean (exec_vhfmaF16 ..) (fun _ => cleanD) fun _ => rfl

/-! ## One source, compares, and pairs -/

/-- Settles O13: VFMAD, the one-source forms and the 16-bit forms are vector instructions of one register, VFCMP one of
a mask register; the pairs are FP32 elements or the words of FP64 values. -/
theorem floatUnaryAndPairResults : Obligations.FloatUnaryAndPairResults := by
  unfold Obligations.FloatUnaryAndPairResults
  refine ⟨?registers, ?pairs⟩
  case registers =>
    intro s c n x k6 b6 a6 d6 r b a d k m src d5 h flags
    refine ⟨fun fit clean => ?mad, fun fit clean => ⟨?abs, ?neg, ?round, ?class_, ?exponent⟩, fun fit clean => ?compare,
      fun fit clean => ⟨?add, ?sub, ?mul, ?min, ?max⟩⟩
    case mad => exact vectorOp_result h fit clean (exec_vfmad ..) fun _ => rfl
    case abs => exact vectorInt_result h fit clean (exec_vfabs ..) fun _ => rfl
    case neg => exact vectorInt_result h fit clean (exec_vfneg ..) fun _ => rfl
    case round => exact vectorInt_result h fit clean (exec_vfrnd ..) fun _ => rfl
    case class_ => exact vectorInt_result h fit clean (exec_vfclass ..) fun _ => rfl
    case exponent => exact vectorInt_result h fit clean (exec_vfexpo ..) fun _ => rfl
    case compare => exact vectorMask_result h fit clean (exec_vfcmp ..)
    case add => exact shortFloat_result h fit clean (exec_vfadd16 ..) fun _ => rfl
    case sub => exact shortFloat_result h fit clean (exec_vfsub16 ..) fun _ => rfl
    case mul => exact shortFloat_result h fit clean (exec_vfmul16 ..) fun _ => rfl
    case min => exact shortFloat_result h fit clean (exec_vfmin16 ..) fun _ => rfl
    case max => exact shortFloat_result h fit clean (exec_vfmax16 ..) fun _ => rfl
  case pairs =>
    intro s c x b a d h fit clean S word wordB pairs doubles
    refine ⟨?add, ?mul, ?addF64, ?mulF64, ?minF64, ?maxF64, fun cleanD => ⟨?fma, ?fmaF64⟩⟩
    case add => exact pairOp_result h fit clean (exec_vpfadd ..) nofun fun _ _ => rfl
    case mul => exact pairOp_result h fit clean (exec_vpfmul ..) nofun fun _ _ => rfl
    case addF64 => exact doubleOp_result h fit clean (exec_vdadd ..) nofun fun _ => rfl
    case mulF64 => exact doubleOp_result h fit clean (exec_vdmul ..) nofun fun _ => rfl
    case minF64 => exact doubleOp_result h fit clean (exec_vdmin ..) nofun fun _ => rfl
    case maxF64 => exact doubleOp_result h fit clean (exec_vdmax ..) nofun fun _ => rfl
    case fma => exact pairOp_result h fit clean (exec_vpfma ..) (fun _ => cleanD) fun _ _ => rfl
    case fmaF64 => exact doubleOp_result h fit clean (exec_vdfma ..) (fun _ => cleanD) fun _ => rfl

end Sys2Proof.Machine
end

section
/-! The kind-B arithmetic by its shape (R39, R40, R151 to R163), and the statements that settle by it. -/

namespace Sys2Proof.Machine

/-! ## Shapes -/

section Shapes

variable {s : State} {c : Ctx} (h : s.ctx? = some c) {i : Instr}
include h

/-- Without a flag B a kind-B instruction is ILLEGAL (R40). -/
theorem kindB_illegal {rd : List (Nat × Nat)} {d n : Nat} {sw : Ctx → List (Nat × Word)} {fp : Ctx → Flags}
    {f : Ctx → Nat → Nat → Lane} (fit : c.Fits ((d, n) :: rd)) (flag : c.flagB = none)
    (hi : exec i s = kindB s rd d n sw fp f) : exec i s = .next (c.stopped s c.illegal) := by
  have noFlag : c.needB = .error c.illegal := by rw [Ctx.needB, flag, Option.isSome_none, need_false]
  exact hi.trans (run_error h (bind_of_ok (Ctx.checkRuns_ok fit) (bind_of_error noFlag)))

variable (flag : c.flagB.isSome)
include flag

/-- A kind-B instruction that writes vector registers alone goes on with its function of each lane in flight. -/
theorem kindB_result {rd : List (Nat × Nat)} {d n : Nat} {fp : Ctx → Flags} {f : Ctx → Nat → Nat → Lane}
    {r : Nat → Nat → Lane} (fit : c.Fits ((d, n) :: rd)) (clean : c.Clean c.active rd)
    (hi : exec i s = kindB s rd d n (fun _ => []) fp f) (e : ∀ l j, f c l j = r l j) : LaterVector s c i d n r (fp c) :=
  laterVector_of (hi.trans (kindB_next h fit flag clean _ _ _)) fun l j _ _ => e l j

end Shapes

/-! ## Special functions and division -/

/-- Settles O16: each is a kind-B instruction of one register; VFDIVX reads its destination as well. -/
theorem specialFunctionResults : Obligations.SpecialFunctionResults := by
  unfold Obligations.SpecialFunctionResults
  intro s c x b a d h
  refine ⟨fun fit flag => ?illegal, fun fit flag clean => ?special, fun fit flag clean => ⟨?estimate, fun cleanD => ?exact_⟩⟩
  case illegal =>
    simp only [List.forall_mem_cons, List.not_mem_nil, false_imp_iff, implies_true, and_true]
    exact ⟨kindB_illegal h fit flag (exec_vrcp ..), kindB_illegal h fit flag (exec_vrsqrt ..),
      kindB_illegal h fit flag (exec_vsqrt ..), kindB_illegal h fit flag (exec_vexp2 ..),
      kindB_illegal h fit flag (exec_vlog2 ..), kindB_illegal h fit flag (exec_vsin ..),
      kindB_illegal h fit flag (exec_vcos ..), kindB_illegal h fit flag (exec_vtanh ..),
      kindB_illegal h fit flag (exec_vsigm ..)⟩
  case special =>
    intro lanes
    refine ⟨?rcp, ?rsqrt, ?sqrt, ?exp2, ?log2, ?sin, ?cos, ?tanh, ?sigm⟩
    case rcp => exact kindB_result h flag fit clean (exec_vrcp ..) fun _ _ => rfl
    case rsqrt => exact kindB_result h flag fit clean (exec_vrsqrt ..) fun _ _ => rfl
    case sqrt => exact kindB_result h flag fit clean (exec_vsqrt ..) fun _ _ => rfl
    case exp2 => exact kindB_result h flag fit clean (exec_vexp2 ..) fun _ _ => rfl
    case log2 => exact kindB_result h flag fit clean (exec_vlog2 ..) fun _ _ => rfl
    case sin => exact kindB_result h flag fit clean (exec_vsin ..) fun _ _ => rfl
    case cos => exact kindB_result h flag fit clean (exec_vcos ..) fun _ _ => rfl
    case tanh => exact kindB_result h flag fit clean (exec_vtanh ..) fun _ _ => rfl
    case sigm => exact kindB_result h flag fit clean (exec_vsigm ..) fun _ _ => rfl
  case estimate => exact kindB_result h flag fit clean (exec_vfdivs ..) fun _ _ => rfl
  case exact_ => exact kindB_result h flag fit.cons_head (cleanD.cons clean) (exec_vfdivx ..) fun _ _ => rfl

/-! ## Packing -/

/-- `n` fields of `w` bits, one above the other, as VPACK adds them up (R161). -/
def packFields (f : Nat → Nat) (w n : Nat) : Nat := (List.range n).foldl (fun x k => x + f k % 2 ^ w * 2 ^ (w * k)) 0

theorem packFields_succ (f : Nat → Nat) (w n : Nat) :
    packFields f w (n + 1) = 2 ^ (w * n) * (f n % 2 ^ w) + packFields f w n := by
  rw [packFields, List.range_succ, List.foldl_append, List.foldl_cons, List.foldl_nil, ← packFields, Nat.add_comm,
    Nat.mul_comm]

theorem packFields_lt (f : Nat → Nat) (w n : Nat) : packFields f w n < 2 ^ (w * n) := by
  induction n with
  | zero => exact Nat.one_pos
  | succ n ih =>
    rw [packFields_succ, Nat.mul_succ, Nat.pow_add]
    calc 2 ^ (w * n) * (f n % 2 ^ w) + packFields f w n
        < 2 ^ (w * n) * (f n % 2 ^ w) + 2 ^ (w * n) := Nat.add_lt_add_left ih _
      _ = 2 ^ (w * n) * (f n % 2 ^ w + 1) := (Nat.mul_succ ..).symm
      _ ≤ 2 ^ (w * n) * 2 ^ w := Nat.mul_le_mul_left _ (Nat.mod_lt _ (Nat.two_pow_pos w))

/-- A bit is that of the field in which it lies. -/
theorem packFields_testBit (f : Nat → Nat) {w : Nat} (hw : 0 < w) (n i : Nat) :
    (packFields f w n).testBit i = (decide (i / w < n) && (f (i / w)).testBit (i % w)) := by
  induction n with
  | zero => simp [packFields]
  | succ n ih =>
    rw [packFields_succ, Nat.testBit_two_pow_mul_add _ (packFields_lt f w n), ih, Nat.testBit_mod_two_pow]
    have place : i = w * (i / w) + i % w := (Nat.div_add_mod i w).symm
    have within : i % w < w := Nat.mod_lt i hw
    obtain below | rfl | above := Nat.lt_trichotomy (i / w) n
    · have : i < w * n := by rwa [Nat.mul_comm, ← Nat.div_lt_iff_lt_mul hw]
      simp [this, below, Nat.lt_succ_of_lt below]
    · have : ¬ i < w * (i / w) := by omega
      simp [this, within, show i - w * (i / w) = i % w by omega]
    · have : w * (n + 1) ≤ w * (i / w) := Nat.mul_le_mul_left w above
      rw [Nat.mul_succ] at this
      simp [show ¬ i < w * n by omega, show ¬ i - w * n < w by omega, show ¬ i / w < n + 1 by omega]

theorem packWidth_pos (w : BitVec 2) : 0 < (packWidth w).1 := by
  unfold packWidth
  split <;> decide

/-! ## Conversion, quantisation and random numbers -/

section Completion

variable {s : State} {c : Ctx} (h : s.ctx? = some c) (flag : c.flagB.isSome) {i : Instr}
include h flag

/-- A kind-B instruction that writes a scalar register besides its vector registers. -/
theorem kindB_scalar_result {rd : List (Nat × Nat)} {d n : Nat} {sd : BitVec 6} {w : Ctx → Word} {fp : Ctx → Flags}
    {f : Ctx → Nat → Nat → Lane} (fit : c.Fits ((d, n) :: rd)) (clean : c.Clean c.active rd)
    (hi : exec i s = kindB s rd d n (fun c' => [(c'.g.sKey sd, w c')]) fp f) :
    LaterResult s c i fun after g => ∃ g1 g2 : Group, after = g2.orFp (fp c) ∧
      g1.VectorFrom g (c.g.vKey d) n c.active (f c) ∧ g2.ScalarFrom g1 sd (w c) := by
  refine laterResult_of (hi.trans (kindB_next h fit flag clean _ _ _)) fun g bank => ?_
  rw [List.foldl_cons, List.foldl_nil, Group.setSKey_sKey _ _ _ _ (by rw [Group.setCells_flow, bank])]
  exact ⟨_, _, rfl, g.vectorFrom_setCells _ n c.active (f c), Group.scalarFrom_setS _ sd (w c)⟩

/-- VDQNT, where the scale word names a format. -/
theorem vdqnt_result {sr : BitVec 6} {a d : BitVec 7} {f : Fmt} (fit : c.Fits [(d.toNat, 1), (a.toNat, 1)])
    (clean : c.Clean c.active [(a.toNat, 1)]) (low : (c.g.s sr).toNat < 4096)
    (known : scaleFmt ((c.g.s sr).toNat / 256) = some f) :
    LaterVector s c (.vdqnt sr a d) d.toNat 1
      (fun l _ => .ofNat 32 (dequantise f c.g.mode ((c.g.s sr).toNat % 256) (c.g.v a.toNat l).toNat).1)
      (c.allFlags fun l => (dequantise f c.g.mode ((c.g.s sr).toNat % 256) (c.g.v a.toNat l).toNat).2) := by
  refine laterVector_of ((exec_vdqnt ..).trans (run_ok h (bind_of_ok (Ctx.checkRuns_ok fit)
    (bind_of_ok (need_of flag _) (bind_of_ok (Ctx.checkEcc_ok clean) ?launch))))) fun _ _ _ _ => rfl
  case launch => simp only [if_pos low, known, laneOf]

end Completion

/-- Code 4 is the rounding code of SR (R157). -/
theorem toNat_beq_four (r : BitVec 3) : (r.toNat == 4) = decide (r = 4) := by
  rw [Bool.eq_iff_iff, beq_iff_eq, decide_eq_true_iff]
  exact BitVec.toNat_inj (y := 4#3)

/-- Settles O17: each is a kind-B instruction; VCVT checks the run of its random halfwords too, and reads it under SR
alone, VQNT also writes its scale word, and the fields that VPACK adds do not overlap. -/
theorem conversionResults : Obligations.ConversionResults := by
  unfold Obligations.ConversionResults
  intro s c r p a d w sr h flag flags word runs
  refine ⟨?convert, fun fit clean => ⟨?quantise, fun f low known => ?dequantise, ?random⟩, fun fit clean => ?pack,
    fun fit clean => ?unpack⟩
  case convert =>
    intro random bits el fit clean
    have meaning := exec_vcvt s r p a d
    simp only [execVcvt, toNat_beq_four, decide_eq_true_eq] at meaning
    have randomRead : (if r = 4 then [(d.toNat + runs.2.2, if r = 4 then (runs.1 + 1) / 2 else 0)] else []) = random :=
      ite_congr rfl (fun stochastic => by rw [if_pos stochastic]) fun _ => rfl
    rw [← randomRead] at clean
    exact laterVector_of (meaning.trans (kindBOver_next h fit flag clean _ _ _)) fun _ _ _ _ => rfl
  case quantise =>
    intro quantised
    refine ⟨?e4m3, ?e5m2, ?e2m1, ?lg6, ?i8⟩
    case e4m3 => exact kindB_scalar_result h flag fit clean (exec_vqntE4m3 ..)
    case e5m2 => exact kindB_scalar_result h flag fit clean (exec_vqntE5m2 ..)
    case e2m1 => exact kindB_scalar_result h flag fit clean (exec_vqntE2m1 ..)
    case lg6 => exact kindB_scalar_result h flag fit clean (exec_vqntLg6 ..)
    case i8 => exact kindB_scalar_result h flag fit clean (exec_vqntI8 ..)
  case dequantise => exact vdqnt_result h flag fit clean low known
  case random =>
    exact ⟨kindB_result h flag fit clean (exec_vrandB32 ..) fun _ _ => rfl,
      kindB_result h flag fit clean (exec_vrandF32 ..) fun _ _ => rfl⟩
  case pack =>
    refine ⟨_, kindB_result h flag fit clean (exec_vpack ..) fun _ _ => rfl, fun l i hi => ?_⟩
    rw [BitVec.getLsbD_ofNat, decide_eq_true hi, Bool.true_and]
    exact packFields_testBit (fun k => (c.g.vRun a.toNat k l).toNat) (packWidth_pos w) _ i
  case unpack => exact kindB_result h flag fit clean (exec_vunpack ..) fun _ _ => rfl

end Sys2Proof.Machine
end

section
/-! The instructions that read other lanes of their group: neighbours, permutes and broadcasts, edge forms, and votes
(R164 to R169, R174). -/

namespace Sys2Proof.Machine

/-! ## Reads of other lanes -/

/-- The first register of a run whose entries are clean holds no poisoned entry in these lanes. -/
theorem Ctx.Clean.not_poisoned {c : Ctx} {lanes : Lane} {rs : List (Nat × Nat)} (clean : c.Clean lanes rs)
    {r : Nat × Nat} (hr : r ∈ rs) (hn : 0 < r.2) {i : Nat} (hl : lanes.getLsbD (i % 32) = true)
    (key : i / 32 = c.g.vKey r.1) : i ∉ c.g.regs.poison := by
  have := clean _ hl r hr 0 hn
  rwa [Nat.add_zero, ← key, Nat.div_add_mod] at this

/-- Where the entry of every lane is clean, so are those that any lanes read (R164). -/
theorem Ctx.Clean.sources {c : Ctx} {a : Nat} (clean : c.Clean (BitVec.allOnes 32) [(a, 1)]) (lanes : Lane) {i : Nat}
    (hi : i ∈ c.g.regs.poison) : (lanes.getLsbD (i % 32) && i / 32 == c.g.vKey a) = false := by
  refine Bool.eq_false_iff.2 fun hread => ?_
  rw [Bool.and_eq_true, beq_iff_eq] at hread
  refine clean.not_poisoned List.mem_cons_self Nat.one_pos ?_ hread.2 hi
  rw [BitVec.getLsbD_allOnes, decide_eq_true (Nat.mod_lt _ (by decide))]

theorem mem_runB_count {x : Bool} {b : BitVec 7} {n : Nat} {r : Nat × Nat} (h : r ∈ runB x b n) : r.2 = n := by
  cases x
  · rw [List.mem_singleton.1 h]
  · exact absurd h List.not_mem_nil

/-- The check of a cross-lane instruction: the source lanes of va, and the index entries of the active lanes. -/
theorem Ctx.checkCells_crossLane_ok {c : Ctx} {a : Nat} {rd : List (Nat × Nat)} (lanes : Lane)
    (clean : c.Clean (BitVec.allOnes 32) [(a, 1)]) (cleanB : c.Clean c.active rd) (one : ∀ r ∈ rd, r.2 = 1) :
    c.checkCells (fun k l => (lanes.getLsbD l && k == c.g.vKey a) ||
      (c.active.getLsbD l && rd.any fun r => k == c.g.vKey r.1)) = .ok () := by
  refine Ctx.checkCells_ok fun i hi => ?_
  rw [clean.sources lanes hi, Bool.false_or]
  refine Bool.eq_false_iff.2 fun hread => ?_
  simp only [Bool.and_eq_true, List.any_eq_true, beq_iff_eq] at hread
  obtain ⟨hl, r, hr, key⟩ := hread
  exact cleanB.not_poisoned hr (by rw [one r hr]; exact Nat.one_pos) hl key hi

section Shapes

variable {s : State} {c : Ctx} (h : s.ctx? = some c) (flag : c.flagB.isSome = true) {i : Instr}
include h flag

/-- A cross-lane instruction goes on with each active lane's source entry in flight. -/
theorem crossLane_result {rd : List (Nat × Nat)} {a d : Nat} {src : Ctx → Nat → Nat} {out : Ctx → Nat → Lane}
    {r : Nat → Lane} (fit : c.Fits ((d, 1) :: (a, 1) :: rd)) (clean : c.Clean (BitVec.allOnes 32) [(a, 1)])
    (cleanB : c.Clean c.active rd) (one : ∀ p ∈ rd, p.2 = 1)
    (hi : exec i s = crossLane s rd a d (fun c' l => some (src c' l)) out) (e : ∀ l, l < 32 → c.g.v a (src c l) = r l) :
    LaterVector s c i d 1 (fun l _ => r l) 0#4 := by
  refine laterVector_of (f := fun l _ => c.g.v a (src c l)) (hi.trans (run_ok h ?_)) fun l _ hl _ => e l hl
  exact bind_of_ok (Ctx.checkRuns_ok fit) (bind_of_ok (need_of flag _)
    (bind_of_ok (Ctx.checkCells_crossLane_ok _ clean cleanB one) rfl))

/-- A vote goes on with the mask of the active lanes that pass its test in flight. -/
theorem voteForm_result {a : BitVec 7} {d : BitVec 6} {f : Ctx → Nat → Bool} (fit : c.Fits [(a.toNat, 1)])
    (clean : c.Clean c.active [(a.toNat, 1)]) (hi : exec i s = voteForm s a d f) :
    LaterScalar s c i d ((maskOf (c.lanes.filter (f c))).setWidth 64) := by
  refine laterScalar_of (hi.trans (run_ok h ?_)) rfl
  exact bind_of_ok (Ctx.checkRuns_ok fit) (bind_of_ok (need_of flag _) (bind_of_ok (Ctx.checkEcc_ok clean) rfl))

end Shapes

theorem toNat_extractLsb'_five {n : Nat} (x : BitVec n) : (x.extractLsb' 0 5).toNat = x.toNat % 32 := by
  rw [BitVec.extractLsb'_toNat, Nat.shiftRight_zero]

/-- Settles O18: each names one source lane for each active lane, from its number, from the word, or from an operand. -/
theorem crossLaneReads : Obligations.CrossLaneReads := by
  unfold Obligations.CrossLaneReads
  intro s c x b a d n sr h flag fit clean cleanB A B
  have fitA : c.Fits [(d.toNat, 1), (a.toNat, 1)] := fit.subset (by simp)
  have noIndex : c.Clean c.active [] := .nil c _
  refine ⟨?left, ?right, ?shuffle, ?imm, ?scalar⟩
  case left =>
    refine crossLane_result h flag fitA clean noIndex nofun (exec_vnblRing ..) fun l hl => congrArg A ?_
    split <;> omega
  case right =>
    refine crossLane_result h flag fitA clean noIndex nofun (exec_vnbrRing ..) fun l hl => congrArg A ?_
    split <;> omega
  case shuffle =>
    exact crossLane_result h flag fit clean cleanB (fun _ => mem_runB_count) (exec_vshuf ..) fun l _ =>
      congrArg A (toNat_extractLsb'_five (B l)).symm
  case imm => exact crossLane_result h flag fitA clean noIndex nofun (exec_vbcastImm ..) fun _ _ => rfl
  case scalar =>
    exact crossLane_result h flag fitA clean noIndex nofun (exec_vbcastScalar ..) fun _ _ =>
      congrArg A (toNat_extractLsb'_five (c.g.s sr)).symm

/-! ## Votes -/

theorem setWidth_maskOf_filter_getLsbD (m : Lane) (p : Nat → Bool) (l : Nat) :
    ((maskOf ((lanesOf m).filter p)).setWidth 64).getLsbD l = true ↔ m.getLsbD l = true ∧ p l = true := by
  rw [BitVec.getLsbD_setWidth, maskOf_filter_getLsbD, Bool.and_eq_true, Bool.and_eq_true, decide_eq_true_iff]
  refine and_iff_right_of_imp fun ⟨hl, _⟩ => ?_
  exact Nat.lt_trans (lt_of_mem_lanesOf (mem_lanesOf.2 hl)) (by decide)

/-- A lane of a mask has a lowest lane beside it, which is the one that has no lane of the mask below. -/
theorem eq_lowestLane_iff {m : Lane} {n : Nat} :
    (m.getLsbD n = true ∧ ∀ k, k < n → m.getLsbD k = false) ↔ m.getLsbD n = true ∧ n = lowestLane m := by
  obtain ⟨_, below, found⟩ := lowestLane_spec m
  refine and_congr_right fun hn => ⟨fun none_below => ?_, fun e => e ▸ below⟩
  have le : lowestLane m ≤ n := Nat.le_of_not_lt fun h => Bool.false_ne_true ((below n h).symm.trans hn)
  have n32 := lt_of_mem_lanesOf (mem_lanesOf.2 hn)
  refine Nat.le_antisymm (Nat.le_of_not_lt fun h => ?_) le
  exact Bool.false_ne_true ((none_below _ h).symm.trans (found (by omega)))

theorem lowestLane_active {m : Lane} {l : Nat} (hl : m.getLsbD l = true) : m.getLsbD (lowestLane m) = true := by
  obtain ⟨_, below, found⟩ := lowestLane_spec m
  have l32 := lt_of_mem_lanesOf (mem_lanesOf.2 hl)
  have le : lowestLane m ≤ l := Nat.le_of_not_lt fun h => Bool.false_ne_true ((below l h).symm.trans hl)
  exact found (by omega)

/-- Settles O19: the mask of the lanes that pass the test, where VVOTE.eq compares with the lowest active lane. -/
theorem votes : Obligations.Votes := by
  unfold Obligations.Votes
  intro s c a d h flag fit clean
  refine ⟨⟨_, voteForm_result h flag fit clean (exec_vvoteBallot ..), fun l => ?ballot⟩,
    ⟨_, voteForm_result h flag fit clean (exec_vvoteEq ..), fun l => ?eq⟩⟩
  case ballot => rw [Ctx.lanes, setWidth_maskOf_filter_getLsbD, bne_iff_ne]
  case eq =>
    rw [Ctx.lanes, setWidth_maskOf_filter_getLsbD, beq_iff_eq]
    refine and_congr_right fun hl => ⟨fun e => ?_, fun ⟨n, hn, none_below, e⟩ => ?_⟩
    · obtain ⟨hn, none_below⟩ := eq_lowestLane_iff.2 ⟨lowestLane_active hl, rfl⟩
      exact ⟨_, hn, none_below, e⟩
    · rw [e, (eq_lowestLane_iff.1 ⟨hn, none_below⟩).2]

end Sys2Proof.Machine
end

section
/-! Reductions and scans (R172, R173): the nodes of the tree and the results of a scan are folds over runs of lanes. -/

namespace Sys2Proof.Machine

/-! ## Folds over runs of lanes -/

/-- The fold of n entries from number k on. -/
def runFold (op : Lane → Lane → Lane) (unit : Lane) (f : Nat → Lane) (k n : Nat) : Lane :=
  ((List.range' k n).map f).foldl op unit

section Folds

variable {op : Lane → Lane → Lane} {unit : Lane} [Std.LawfulIdentity op unit] (f : Nat → Lane)

theorem runFold_one (k : Nat) : runFold op unit f k 1 = f k :=
  Std.LawfulLeftIdentity.left_id (op := op) (o := unit) (f k)

/-- The fold of a run is that of its first part and that of the rest. -/
theorem runFold_add [Std.Associative op] (k m n : Nat) :
    runFold op unit f k (m + n) = op (runFold op unit f k m) (runFold op unit f (k + m) n) := by
  calc runFold op unit f k (m + n)
      = ((List.range' (k + m) n).map f).foldl op (runFold op unit f k m) := by
        rw [runFold, ← List.range'_append_1, List.map_append, List.foldl_append, runFold]
    _ = ((List.range' (k + m) n).map f).foldl op (op (runFold op unit f k m) unit) := by
        rw [Std.LawfulRightIdentity.right_id (op := op) (o := unit)]
    _ = op (runFold op unit f k m) (runFold op unit f (k + m) n) := List.foldl_assoc

/-- Lanes that contribute the identity do not show in a fold (R172). -/
theorem foldl_filter_eq (p : Nat → Bool) (ls : List Nat) :
    ((ls.filter p).map f).foldl op unit = (ls.map fun l => if p l then f l else unit).foldl op unit := by
  rw [List.foldl_map, List.foldl_map, List.foldl_filter]
  congr 1
  funext y l
  split
  · rfl
  · exact (Std.LawfulRightIdentity.right_id (op := op) (o := unit) y).symm

end Folds

/-! ## The integer operations of Table 7.4 -/

/-- The integer operations, in the order of their codes. -/
def intOp (o : Nat) (x y : Lane) : Lane :=
  [x + y, if x.toInt ≤ y.toInt then x else y, if x.toInt ≤ y.toInt then y else x, if x.toNat ≤ y.toNat then x else y,
    if x.toNat ≤ y.toNat then y else x, x &&& y, x ||| y, x ^^^ y].getD o 0

/-- Their identities. -/
def intUnit (o : Nat) : Lane := [0, 0x7FFFFFFF, 0x80000000, 0xFFFFFFFF, 0, 0xFFFFFFFF, 0, 0].getD o 0

section Choice

variable {le : Lane → Lane → Prop} [DecidableRel le]

/-- The smaller of three is the same in either bracketing; of two that are equal the first is taken. -/
theorem smaller_associative (total : ∀ x y, le x y ∨ le y x) (trans : ∀ {x y z}, le x y → le y z → le x z) :
    Std.Associative fun x y => if le x y then x else y := ⟨fun x y z => by
  by_cases hxy : le x y <;> by_cases hyz : le y z <;> simp only [hxy, hyz, if_true, if_false]
  case pos => exact if_pos (trans hxy hyz)
  case neg => exact (if_neg fun hxz => hxy (trans hxz ((total y z).resolve_left hyz))).symm⟩

theorem larger_associative (total : ∀ x y, le x y ∨ le y x) (trans : ∀ {x y z}, le x y → le y z → le x z) :
    Std.Associative fun x y => if le x y then y else x := ⟨fun x y z => by
  by_cases hxy : le x y <;> by_cases hyz : le y z <;> simp only [hxy, hyz, if_true, if_false]
  case pos => exact (if_pos (trans hxy hyz)).symm
  case neg => exact if_neg fun hxz => hxy (trans hxz ((total y z).resolve_left hyz))⟩

variable (antisymm : ∀ {x y}, le x y → le y x → x = y) {u : Lane}
include antisymm

theorem smaller_identity (greatest : ∀ x, le x u) : Std.LawfulIdentity (fun x y => if le x y then x else y) u where
  left_id x := by
    split
    · exact antisymm ‹_› (greatest x)
    · rfl
  right_id x := if_pos (greatest x)

theorem larger_identity (least : ∀ x, le u x) : Std.LawfulIdentity (fun x y => if le x y then y else x) u where
  left_id x := if_pos (least x)
  right_id x := by
    split
    · exact antisymm (least x) ‹_›
    · rfl

end Choice

theorem eq_of_toInt_le {x y : Lane} (h : x.toInt ≤ y.toInt) (h' : y.toInt ≤ x.toInt) : x = y :=
  BitVec.eq_of_toInt_eq (Int.le_antisymm h h')

theorem eq_of_toNat_le {x y : Lane} (h : x.toNat ≤ y.toNat) (h' : y.toNat ≤ x.toNat) : x = y :=
  BitVec.eq_of_toNat_eq (Nat.le_antisymm h h')

theorem intOp_associative {o : Nat} (ho : o < 8) : Std.Associative (intOp o) :=
  match o, ho with
  | 0, _ => ⟨BitVec.add_assoc⟩
  | 1, _ => smaller_associative (fun x y => Int.le_total x.toInt y.toInt) Int.le_trans
  | 2, _ => larger_associative (fun x y => Int.le_total x.toInt y.toInt) Int.le_trans
  | 3, _ => smaller_associative (fun x y => Nat.le_total x.toNat y.toNat) Nat.le_trans
  | 4, _ => larger_associative (fun x y => Nat.le_total x.toNat y.toNat) Nat.le_trans
  | 5, _ => ⟨BitVec.and_assoc⟩
  | 6, _ => ⟨BitVec.or_assoc⟩
  | 7, _ => ⟨BitVec.xor_assoc⟩
  | o + 8, ho => absurd ho (Nat.not_lt.2 (Nat.le_add_left 8 o))

theorem intOp_identity {o : Nat} (ho : o < 8) : Std.LawfulIdentity (intOp o) (intUnit o) :=
  match o, ho with
  | 0, _ => { left_id := BitVec.zero_add, right_id := BitVec.add_zero }
  | 1, _ => smaller_identity eq_of_toInt_le fun x => Int.le_of_lt_add_one x.toInt_lt
  | 2, _ => larger_identity eq_of_toInt_le fun x => x.le_toInt
  | 3, _ => smaller_identity eq_of_toNat_le fun x => Nat.le_of_lt_succ x.isLt
  | 4, _ => larger_identity eq_of_toNat_le fun _ => Nat.zero_le _
  | 5, _ => { left_id := fun _ => BitVec.allOnes_and, right_id := fun _ => BitVec.and_allOnes }
  | 6, _ => { left_id := fun _ => BitVec.zero_or, right_id := fun _ => BitVec.or_zero }
  | 7, _ => { left_id := fun _ => BitVec.zero_xor, right_id := fun _ => BitVec.xor_zero }
  | o + 8, ho => absurd ho (Nat.not_lt.2 (Nat.le_add_left 8 o))

theorem laneMinUnsigned_eq (a b : Lane) : (if BitVec.ult b a then b else a) = if a.toNat ≤ b.toNat then a else b := by
  simp only [BitVec.ult_eq_decide, decide_eq_true_eq, ← Nat.not_le, ite_not]

theorem laneMaxUnsigned_eq (a b : Lane) : (if BitVec.ult a b then b else a) = if a.toNat ≤ b.toNat then b else a := by
  simp only [BitVec.ult_eq_decide, decide_eq_true_eq]
  obtain h | h | h := Nat.lt_trichotomy a.toNat b.toNat
  · rw [if_pos h, if_pos (Nat.le_of_lt h)]
  · rw [BitVec.eq_of_toNat_eq h, ite_self, ite_self]
  · rw [if_neg (Nat.lt_asymm h), if_neg (Nat.not_le.2 h)]

/-- The model combines the entries of two nodes by these operations. -/
theorem redOp_fst {o : Nat} (ho : o < 8) (x y : Lane × Flags) : (redOp o x y).1 = intOp o x.1 y.1 :=
  match o, ho with
  | 0, _ => rfl
  | 1, _ => laneMin_eq x.1 y.1
  | 2, _ => laneMax_eq x.1 y.1
  | 3, _ => laneMinUnsigned_eq x.1 y.1
  | 4, _ => laneMaxUnsigned_eq x.1 y.1
  | 5, _ => rfl
  | 6, _ => rfl
  | 7, _ => rfl
  | o + 8, ho => absurd ho (Nat.not_lt.2 (Nat.le_add_left 8 o))

theorem redIdentity_eq {o : Nat} (ho : o < 8) : redIdentity o = intUnit o := by
  revert o
  decide

theorem redFirst_eq {o : Nat} (ho : o < 8) : redFirst o = intUnit o := by
  rw [redFirst, if_neg (Nat.ne_of_lt ho), redIdentity_eq ho]

/-! ## The tree -/

theorem redLevel_length (o : Nat) (t : List (Lane × Flags)) : (redLevel o t).length = (t.length + 1) / 2 := by
  induction t using redLevel.induct with
  | case1 x y t ih => simp only [redLevel, List.length_cons, ih]; omega
  | case2 t ht =>
    match t, ht with
    | [], _ => simp [redLevel]
    | [_], _ => simp [redLevel]
    | x :: y :: t, ht => exact absurd rfl (ht x y t)

theorem redLevel_getD (o : Nat) (t : List (Lane × Flags)) (d : Lane × Flags) {i : Nat} (hi : 2 * i + 1 < t.length) :
    (redLevel o t).getD i d = redOp o (t.getD (2 * i) d) (t.getD (2 * i + 1) d) := by
  induction t using redLevel.induct generalizing i with
  | case1 x y t ih =>
    cases i with
    | zero => rfl
    | succ i => exact ih (by simp only [List.length_cons] at hi; omega)
  | case2 t ht =>
    match t, ht with
    | [], _ => exact absurd hi (by simp)
    | [_], _ => exact absurd hi (by simp)
    | x :: y :: t, ht => exact absurd rfl (ht x y t)

theorem redTree_zero (o n : Nat) (t : List (Lane × Flags)) : (redTree o n t).getD 0 [] = t := by
  cases n <;> rfl

theorem redTree_succ (o : Nat) {n k : Nat} (hk : k < n) (t : List (Lane × Flags)) :
    (redTree o n t).getD (k + 1) [] = redLevel o ((redTree o n t).getD k []) := by
  induction n generalizing k t with
  | zero => exact absurd hk (Nat.not_lt_zero k)
  | succ n ih =>
    cases k with
    | zero => exact redTree_zero o n (redLevel o t)
    | succ k => exact ih (Nat.lt_of_succ_lt_succ hk) (redLevel o t)

/-- Each level of a full tree has half as many nodes as the one below. -/
theorem redTree_length (o : Nat) {n k : Nat} (hk : k ≤ n) {t : List (Lane × Flags)} (ht : t.length = 2 ^ n) :
    ((redTree o n t).getD k []).length = 2 ^ (n - k) := by
  induction k with
  | zero => rw [redTree_zero, ht, Nat.sub_zero]
  | succ k ih =>
    rw [redTree_succ o hk, redLevel_length, ih (Nat.le_of_succ_le hk), show n - k = n - (k + 1) + 1 by omega, Nat.pow_succ]
    omega

/-- A node is made of the two nodes below it (R173). -/
theorem redNode_succ (o : Nat) {n k i : Nat} (hk : k < n) {t : List (Lane × Flags)} (ht : t.length = 2 ^ n)
    (hi : i < 2 ^ (n - (k + 1))) : redNode (redTree o n t) (k + 1) i =
      redOp o (redNode (redTree o n t) k (2 * i)) (redNode (redTree o n t) k (2 * i + 1)) := by
  unfold redNode
  rw [redTree_succ o hk]
  refine redLevel_getD o _ _ ?_
  rw [redTree_length o (Nat.le_of_lt hk) ht, show n - k = n - (k + 1) + 1 by omega, Nat.pow_succ]
  omega

/-- A run of 2 ^ k lanes from lane 2 ^ k * i on is below a node of level k. -/
theorem node_index_lt {k i : Nat} (hk : k ≤ 5) (inside : 2 ^ k * i + 2 ^ k ≤ 32) : i < 2 ^ (5 - k) := by
  refine Nat.lt_of_mul_lt_mul_left (a := 2 ^ k) ?_
  rw [← Nat.pow_add, Nat.add_sub_of_le hk]
  exact Nat.lt_of_lt_of_le (Nat.lt_add_of_pos_right (Nat.two_pow_pos k)) inside

section Tree

variable {o : Nat} {op : Lane → Lane → Lane} {unit : Lane} [Std.Associative op] [Std.LawfulIdentity op unit]
  (combine : ∀ x y, (redOp o x y).1 = op x.1 y.1) (f : Nat → Lane)
include combine

/-- A node of a tree of 32 leaves is the fold of the leaves below it. -/
theorem redNode_fst {t : List (Lane × Flags)} (ht : t.length = 2 ^ 5) (leaf : ∀ i, i < 32 → (t.getD i (0, 0#4)).1 = f i)
    {k i : Nat} (hk : k ≤ 5) (hi : i < 2 ^ (5 - k)) :
    (redNode (redTree o 5 t) k i).1 = runFold op unit f (2 ^ k * i) (2 ^ k) := by
  induction k generalizing i with
  | zero => rw [redNode, redTree_zero, leaf i hi, Nat.pow_zero, Nat.one_mul, runFold_one]
  | succ k ih =>
    have width : 2 ^ (5 - k) = 2 * 2 ^ (5 - (k + 1)) := by
      rw [show 5 - k = 5 - (k + 1) + 1 by omega, Nat.pow_succ, Nat.mul_comm]
    have right : 2 ^ k * (2 * i + 1) = 2 ^ k * (2 * i) + 2 ^ k := Nat.mul_succ ..
    have whole : 2 ^ (k + 1) * i = 2 ^ k * (2 * i) := by rw [Nat.pow_succ, Nat.mul_assoc]
    rw [redNode_succ o hk ht hi, combine, ih (by omega) (by omega), ih (by omega) (by omega), right, whole, Nat.pow_succ,
      Nat.mul_two, runFold_add]

/-- What VSCAN has combined so far is the fold of the lanes below its base. -/
def PrefixIs (op : Lane → Lane → Lane) (unit : Lane) (f : Nat → Lane) (base : Nat) : Option (Lane × Flags) → Prop
  | none => base = 0
  | some q => q.1 = runFold op unit f 0 base

/-- The nodes that the bits of n name, highest first, cover the lanes below n (R173). -/
theorem redPrefix_fst {t : List (List (Lane × Flags))}
    (node : ∀ k i, k ≤ 5 → i < 2 ^ (5 - k) → (redNode t k i).1 = runFold op unit f (2 ^ k * i) (2 ^ k))
    {n k j : Nat} {p : Option (Lane × Flags)} (hk : k ≤ 6) (below : 2 ^ k * j + n % 2 ^ k ≤ 32)
    (some_lane : 0 < 2 ^ k * j + n % 2 ^ k) (hp : PrefixIs op unit f (2 ^ k * j) p) :
    (redPrefix o t n k (2 ^ k * j) p).1 = runFold op unit f 0 (2 ^ k * j + n % 2 ^ k) := by
  induction k generalizing j p with
  | zero =>
    rw [Nat.pow_zero] at hp
    rw [Nat.pow_zero, Nat.mod_one, Nat.add_zero] at some_lane ⊢
    cases p with
    | none => exact absurd hp (Nat.ne_of_gt some_lane)
    | some q => exact hp
  | succ k ih =>
    have base : 2 ^ (k + 1) * j = 2 ^ k * (2 * j) := by rw [Nat.pow_succ, Nat.mul_assoc]
    have bits : n % 2 ^ (k + 1) = n % 2 ^ k + 2 ^ k * (n / 2 ^ k % 2) := Nat.mod_pow_succ
    rw [base, bits] at below some_lane ⊢
    rw [base] at hp
    rw [redPrefix]
    split
    case isFalse bit =>
      rw [Nat.mod_two_ne_one.1 bit, Nat.mul_zero, Nat.add_zero] at below some_lane ⊢
      exact ih (by omega) below some_lane hp
    case isTrue bit =>
      rw [bit, Nat.mul_one] at below some_lane ⊢
      have next : 2 ^ k * (2 * j) + 2 ^ k = 2 ^ k * (2 * j + 1) := (Nat.mul_succ ..).symm
      have total : 2 ^ k * (2 * j) + (n % 2 ^ k + 2 ^ k) = 2 ^ k * (2 * j + 1) + n % 2 ^ k := by omega
      have index : 2 * j < 2 ^ (5 - k) := node_index_lt (by omega) (by omega)
      rw [Nat.mul_div_cancel_left _ (Nat.two_pow_pos k), next, total]
      rw [total] at below some_lane
      refine ih (by omega) below some_lane ?_
      cases p with
      | none =>
        have zero : 2 ^ k * (2 * j) = 0 := hp
        change (redNode t k (2 * j)).1 = _
        rw [node k _ (by omega) index, ← next, zero, Nat.zero_add]
      | some q =>
        have hq : q.1 = runFold op unit f 0 (2 ^ k * (2 * j)) := hp
        change (redOp o q _).1 = _
        rw [combine, hq, node k _ (by omega) index, ← next, runFold_add, Nat.zero_add]

end Tree

/-! ## The leaves -/

theorem lanesOf_filter_lt (m : Lane) {n : Nat} (hn : n ≤ 32) :
    (lanesOf m).filter (fun l => decide (l < n)) = (List.range' 0 n).filter m.getLsbD := by
  have parts : List.range 32 = List.range' 0 n ++ List.range' n (32 - n) := by
    rw [List.range_eq_range', ← Nat.add_sub_of_le hn, ← List.range'_append_1, Nat.zero_add, Nat.add_sub_cancel_left]
  have low : ((List.range' 0 n).filter m.getLsbD).filter (fun l => decide (l < n)) = (List.range' 0 n).filter m.getLsbD :=
    List.filter_eq_self.2 fun l hl => decide_eq_true (by have := List.mem_range'_1.1 (List.mem_filter.1 hl).1; omega)
  have high : ((List.range' n (32 - n)).filter m.getLsbD).filter (fun l => decide (l < n)) = [] :=
    List.filter_eq_nil_iff.2 fun l hl => by
      have := (List.mem_range'_1.1 (List.mem_filter.1 hl).1).1
      rw [decide_eq_true_iff]
      omega
  rw [lanesOf, parts, List.filter_append, List.filter_append, low, high, List.append_nil]

/-- The entry that lane l contributes. -/
def Ctx.leaf (c : Ctx) (o a l : Nat) : Lane := if c.active.getLsbD l then c.g.v a l else intUnit o

section Leaves

variable (c : Ctx) {o : Nat} (ho : o < 8) (a : Nat)
include ho

/-- The fold of the leaves below n is that of the entries of the active lanes below n. -/
theorem Ctx.runFold_leaf {n : Nat} (hn : n ≤ 32) : runFold (intOp o) (intUnit o) (c.leaf o a) 0 n =
    ((c.lanes.filter fun l => decide (l < n)).map fun l => c.g.v a l).foldl (intOp o) (intUnit o) := by
  have := intOp_identity ho
  rw [Ctx.lanes, lanesOf_filter_lt _ hn, foldl_filter_eq]
  rfl

theorem Ctx.redNode_redLeaves {k i : Nat} (hk : k ≤ 5) (hi : i < 2 ^ (5 - k)) :
    (redNode (redTree o 5 (c.redLeaves o a)) k i).1 =
      runFold (intOp o) (intUnit o) (c.leaf o a) (2 ^ k * i) (2 ^ k) := by
  have := intOp_associative ho
  have := intOp_identity ho
  refine redNode_fst (redOp_fst ho) _ (by simp [Ctx.redLeaves]) (fun l hl => ?_) hk hi
  simp [Ctx.redLeaves, Ctx.leaf, hl, redIdentity_eq ho]

/-- A scan up to lane n, of at least one lane, is the fold of the lanes below n. -/
theorem Ctx.redPrefix_redLeaves {n : Nat} (hn : n ≤ 32) (some_lane : 0 < n) :
    (redPrefix o (redTree o 5 (c.redLeaves o a)) n 6 0 none).1 =
      runFold (intOp o) (intUnit o) (c.leaf o a) 0 n := by
  have := intOp_associative ho
  have := intOp_identity ho
  have whole : n % 2 ^ 6 = n := Nat.mod_eq_of_lt (by omega)
  have covered := redPrefix_fst (redOp_fst ho) (c.leaf o a) (fun k i => c.redNode_redLeaves ho a)
    (n := n) (k := 6) (j := 0) (p := none) (Nat.le_refl 6) (by omega) (by omega) rfl
  rwa [whole, Nat.mul_zero, Nat.zero_add] at covered

end Leaves

/-- Settles O20: each is a kind-B instruction; its integer operations are associative with an identity, so that any
bracketing of the active lanes in their order gives one fold. -/
theorem reductions : Obligations.Reductions := by
  unfold Obligations.Reductions
  refine ⟨?instructions, ?folds⟩
  case instructions =>
    intro s c o a d h flag fit clean t root raised
    exact ⟨kindB_result h flag fit clean (exec_vred ..) fun _ _ => rfl,
      kindB_result h flag fit clean (exec_vscanIncl ..) fun _ _ => rfl,
      kindB_result h flag fit clean (exec_vscanExcl ..) fun _ _ => rfl⟩
  case folds =>
    intro c o a ho op unit folded t
    have all : c.lanes.filter (fun k => decide (k < 32)) = c.lanes :=
      List.filter_eq_self.2 fun l hl => decide_eq_true (lt_of_mem_lanesOf hl)
    refine ⟨?root, fun l hl => ⟨?inclusive, ?exclusive⟩⟩
    case root =>
      refine (c.redNode_redLeaves ho a (Nat.le_refl 5) Nat.one_pos).trans ((c.runFold_leaf ho a (Nat.le_refl 32)).trans ?_)
      rw [all]
      rfl
    case inclusive =>
      refine (c.redPrefix_redLeaves ho a hl (Nat.succ_pos l)).trans ((c.runFold_leaf ho a hl).trans ?_)
      simp only [Nat.lt_succ_iff]
      rfl
    case exclusive =>
      refine Eq.trans ?_ (c.runFold_leaf ho a (Nat.le_of_lt hl))
      obtain rfl | pos := Nat.eq_zero_or_pos l
      · exact redFirst_eq ho
      · rw [scanLane, if_pos rfl, if_neg (Nat.ne_of_gt pos)]
        exact c.redPrefix_redLeaves ho a (Nat.le_of_lt hl) pos

end Sys2Proof.Machine
end

section
/-! The edge forms, XEDGE and its deposits (R168 to R170). -/

namespace Sys2Proof.Machine

/-! ## Edge forms -/

/-- What an edge form gives lane l: the neighbour's entry, and the edge value in the end lane. -/
def Group.edgeEntry (g : Group) (left : Bool) (a : Nat) (end_ : Lane) (l : Nat) : Lane :=
  if left then (if l = 0 then end_ else g.v a (l - 1)) else if l = 31 then end_ else g.v a (l + 1)

/-- The state after an edge form has emptied the latch that it consults. -/
def Ctx.emptied (c : Ctx) (s : State) : Option Nat → State
  | none => s
  | some k => s.onWg c.g.id.wg fun w => { w with latches := Map.erase w.latches k }

/-- An edge form consults no latch exactly at the open end of the chain (R169). -/
theorem edgeLatch_eq (w : Workgroup) (num : Nat) (left wrap : Bool) :
    edgeLatch w num left wrap = if wrap = false ∧ (if left then num = 0 else num + 1 = w.groups) then none
      else some (2 * num + if left then 0 else 1) := by
  cases wrap <;> cases left <;> simp [edgeLatch]

/-- Launches agree where the states and the entries in flight do. -/
theorem Ctx.launch_entries_congr (c : Ctx) {t t' : State} {f f' : Nat → Nat → Lane} (d : Nat) (ht : t = t')
    (hf : ∀ l j, f l j = f' l j) :
    c.launch (c.done t c.g) c.flagB none (.result (runCells (c.g.vKey d) c.lanes 1 f) [] 0#4) =
      c.launch (c.done t' c.g) c.flagB none (.result (runCells (c.g.vKey d) c.lanes 1 f') [] 0#4) := by
  obtain rfl : f = f' := funext fun l => funext (hf l)
  rw [ht]

section EdgeForms

variable {s : State} {c : Ctx} (h : s.ctx? = some c) (flag : c.flagB.isSome = true) {w : Workgroup} (hw : s.wgOf c.g = some w)
include h flag hw

/-- An edge form whose edge value can be read goes on with the entries in flight, and the latch it consults is emptied. -/
theorem edgeForm_next {left wrap : Bool} {a d : BitVec 7} {latch : Option Nat} {end_ : Lane}
    (fit : c.Fits [(d.toNat, 1), (a.toNat, 1)]) (clean : c.Clean (BitVec.allOnes 32) [(a.toNat, 1)])
    (hl : edgeLatch w c.g.id.num left wrap = latch) (he : c.edgeValue s w left latch = .ok end_) :
    edgeForm s left wrap a d = .next (c.launch (c.done (c.emptied s latch) c.g) c.flagB none
      (.result (runCells (c.g.vKey d.toNat) c.lanes 1 fun l _ => c.g.edgeEntry left a.toNat end_ l) [] 0#4)) := by
  subst hl
  refine run_ok h (bind_of_ok (Ctx.checkRuns_ok fit) (bind_of_ok (need_of flag _)
    (bind_of_ok (Ctx.checkCells_ok fun i hi => clean.sources _ hi) ?_)))
  rw [hw]
  refine bind_of_ok he (congrArg Except.ok (c.launch_entries_congr d.toNat ?emptied fun l _ => ?entry))
  case emptied => cases edgeLatch w c.g.id.num left wrap <;> rfl
  case entry =>
    cases left with
    | false => by_cases e : l = 31 <;> simp [Group.edgeEntry, e]
    | true => by_cases e : l = 0 <;> simp [Group.edgeEntry, e]

end EdgeForms

/-- An instruction that leaves another part of the state changed besides launching results. -/
theorem laterFrom_of {s s1 : State} {c : Ctx} {i : Instr} {Q : Group → Group → Prop} {vw : List (Nat × Lane)} {fp : Flags}
    (h : exec i s = .next (c.launch (c.done s1 c.g) c.flagB none (.result vw [] fp)))
    (q : ∀ g, Q ((g.setCells vw).orFp fp) g) : LaterFrom s s1 c i c.flagB Q :=
  ⟨_, h, rfl, rfl, rfl, rfl, rfl, fun g _ => ⟨_, ⟨vw, [], fp, rfl, rfl⟩, q g⟩⟩

/-- Settles O21: at the open end the edge value is 0 and no latch is consulted; elsewhere it is the value of the latch,
which is then emptied. -/
theorem edgeReads : Obligations.EdgeReads := by
  unfold Obligations.EdgeReads
  intro s c w wrap left a d h flag fit clean hw i open_ key writes
  have meaning : exec i s = edgeForm s left wrap a d := by cases left <;> rfl
  have latch : edgeLatch w c.g.id.num left wrap = if open_ then none else some key := edgeLatch_eq ..
  have later : ∀ {l end_}, edgeLatch w c.g.id.num left wrap = l → c.edgeValue s w left l = .ok end_ →
      LaterFrom s (c.emptied s l) c i c.flagB (writes end_) := fun hl he =>
    laterFrom_of (meaning.trans (edgeForm_next h flag hw fit clean hl he)) fun g =>
      ⟨_, rfl, g.vectorFrom_setCells _ 1 c.active _⟩
  refine ⟨fun isOpen => later (latch.trans (if_pos isOpen)) rfl, fun v closed ready full => ?_⟩
  refine later (latch.trans (if_neg closed)) ?_
  rw [Ctx.edgeValue, ready, full]
  rfl

/-! ## XEDGE -/

/-- XEDGE reads lanes 0 and 31, and goes on or is held until its deposits are made (R170). -/
theorem execXedge_next {s : State} {c : Ctx} (h : s.ctx? = some c) {w : Workgroup} (hw : s.wgOf c.g = some w) {wrap : Bool}
    {a : BitVec 6} {l r : Option (Nat × Lane)} (fit : c.Fits [(a.toNat, 1)]) (clean : c.Clean 0x80000001#32 [(a.toNat, 1)])
    (deposits : edgeDeposits w c.g wrap a.toNat = (l, r)) :
    execXedge wrap a s = .next (c.put s (if l.isNone && r.isNone then c.advance c.g
      else (c.advance c.g).onFrag c.entry fun f => { f with wait := .held, hold := .deposits l r })) := by
  have ends : laneBit 0 ||| laneBit 31 = 0x80000001#32 := by decide
  refine run_ok h (bind_of_ok (Ctx.checkRuns_ok fit) (bind_of_ok (Ctx.checkEcc_ok (ends ▸ clean)) ?_))
  rw [hw]
  simp only [deposits]

theorem edgeDeposits_alone {w : Workgroup} {g : Group} {va : Nat} (hn : g.id.num = 0) (hg : w.groups = 1) :
    edgeDeposits w g false va = (none, none) := by
  simp [edgeDeposits, hn, hg]

theorem edgeDeposits_between {w : Workgroup} {g : Group} {va : Nat} {wrap : Bool} (hl : 0 < g.id.num)
    (hr : g.id.num + 1 < w.groups) :
    edgeDeposits w g wrap va = (some (g.id.num - 1, g.v va 0), some (g.id.num + 1, g.v va 31)) := by
  simp [edgeDeposits, hl, hr]

/-! ## Deposits -/

theorem Map.modify_of_find? {α : Type} {m : Cells α} {k : Nat} {a : α} (h : Map.find? m k = some a) (f : α → α) :
    Map.modify m k f = Map.insert m k (f a) := by
  rw [Map.modify, h]

theorem State.onGroup_of_find? {s : State} {age : Nat} {g : Group} (h : Map.find? s.groups age = some g)
    (f : Group → Group) : s.onGroup age f = { s with groups := Map.insert s.groups age (f g) } := by
  rw [State.onGroup, Map.modify_of_find? h]

/-- The workgroup with the latch of a key full. -/
def Workgroup.fill (w : Workgroup) (key : Nat) (v : Lane) : Workgroup :=
  { w with latches := Map.insert w.latches key v }

/-- A deposit whose target has not exited and whose latch is empty is made (R170). -/
theorem State.deposit_made {s : State} {wg key t : Nat} {v : Lane} {m : Nat × Group} {w : Workgroup}
    (hm : s.member? wg t = some m) (stays : m.2.exited = false) (hw : Map.find? s.wgs wg = some w)
    (empty : Map.find? w.latches key = none) :
    s.deposit wg key (some (t, v)) = (none, s.onWg wg fun w => w.fill key v) := by
  simp only [State.deposit, hm, hw, stays, empty, Bool.false_eq_true, if_false]
  rfl

/-- Outside trap mode the deposit event makes the deposits of the fragment, and it is ready once none is left. -/
theorem execEdgeLatchDeposit_made {s s1 s2 : State} {age entry : Nat} {l r : Option (Nat × Lane)} {g : Group} {f : Frag}
    (hg : Map.find? s.groups age = some g) (hf : g.flow.frags.find? (fun f => f.entry == entry) = some f)
    (held : f.wait = .held) (hold : f.hold = .deposits l r) (noTrap : g.flow.trapFrags = [])
    (right : s.deposit g.id.wg (depositKey true r) r = (none, s1))
    (left : s1.deposit g.id.wg (depositKey false l) l = (none, s2)) : execEdgeLatchDeposit age entry s =
      .next (s2.onGroup age fun h => h.onFragIn false entry fun f => { f with wait := .ready, hold := .none }) := by
  have own : g.fragIn? false entry = some f := hf
  have none_trapped : g.fragIn? true entry = none := by rw [Group.fragIn?, if_pos rfl, noTrap, List.find?_nil]
  simp only [execEdgeLatchDeposit, hg, own, none_trapped, held, hold, right, left]
  rfl

/-- Settles O22: both deposits of the held fragment find their latches empty, and they are two latches.
(`edgeDeposits` itself is the function of the model that gives the deposits of an XEDGE.) -/
theorem EdgeLatches.edgeDeposits : Obligations.EdgeDeposits := by
  unfold Obligations.EdgeDeposits
  refine ⟨?issue, ?event⟩
  case issue =>
    intro s c w wrap a h fit clean hw n
    refine ⟨fun open_ first alone => ?_, fun hl hr => ?_⟩
    · subst open_
      exact (exec_xedge ..).trans (execXedge_next h hw fit clean (edgeDeposits_alone first alone))
    · exact (exec_xedge ..).trans (execXedge_next h hw fit clean (edgeDeposits_between hl hr))
  case event =>
    intro s age entry l r vl vr g gl gr f w hg hf held hold noTrap hw hl hr stayl stayr emptyl emptyr _
    have two : 2 * r ≠ 2 * l + 1 := by omega
    let s1 := s.onWg g.id.wg fun w => w.fill (2 * r) vr
    have right : s.deposit g.id.wg (2 * r) (some (r, vr)) = (none, s1) := State.deposit_made hr stayr hw emptyr
    have filled : Map.find? s1.wgs g.id.wg = some (w.fill (2 * r) vr) := by
      rw [State.onWg_wgs, Map.find?_modify, if_pos rfl, hw, Option.map_some]
    have left := State.deposit_made (s := s1) (v := vl) hl stayl filled
      ((Map.find?_insert_ne _ _ two).trans emptyl)
    refine ⟨_, (w.fill (2 * r) vr).fill (2 * l + 1) vl,
      (exec_edgeLatchDeposit ..).trans (execEdgeLatchDeposit_made hg hf held hold noTrap right left), ?_, ?_, ?_, ?_, ?_⟩
    · rw [State.onGroup_wgs, State.onWg_wgs, Map.find?_modify, if_pos rfl, filled, Option.map_some]
    · exact Map.find?_insert_self ..
    · exact (Map.find?_insert_ne _ _ two.symm).trans (Map.find?_insert_self ..)
    · exact fun k hkl hkr => (Map.find?_insert_ne _ _ hkl.symm).trans (Map.find?_insert_ne _ _ hkr.symm)
    · exact State.onGroup_of_find? (s := s1.onWg g.id.wg fun w => w.fill (2 * l + 1) vl) hg _

end Sys2Proof.Machine
end

section
/-! XSEND, XRECV and the transfer (R175 to R177, R180). -/

namespace Sys2Proof.Machine

/-! ## Issue -/

theorem Ctx.checkPartner_ok {c : Ctx} {w : Workgroup} {p : BitVec 6}
    (valid : p = 32#6 ∨ p.toNat < w.groups ∧ p.toNat ≠ c.g.id.num) : c.checkPartner w p = .ok () := by
  refine need_of ?_ _
  simpa using valid

/-- A cell of a run is found under its number, with the value of its lane and register. -/
theorem find?_runCells {key n : Nat} {lanes : List Nat} (small : ∀ l ∈ lanes, l < 32) {f : Nat → Nat → Lane} {l j : Nat}
    (hl : l ∈ lanes) (hj : j < n) : (runCells key lanes n f).find? (fun q => q.1 == 32 * (key + j) + l) =
      some (32 * (key + j) + l, f l j) := by
  have member : (32 * (key + j) + l, f l j) ∈ runCells key lanes n f := mem_runCells.2 ⟨l, hl, j, hj, rfl⟩
  cases found : (runCells key lanes n f).find? fun q => q.1 == 32 * (key + j) + l with
  | none => exact absurd (List.find?_eq_none.1 found _ member) (by simp)
  | some q =>
    obtain ⟨k, hk, i, hi, rfl⟩ := mem_runCells.1 (List.mem_of_find?_eq_some found)
    have same := List.find?_some found
    rw [beq_iff_eq] at same
    have hl32 := small l hl
    have hk32 := small k hk
    simp only at same
    obtain ⟨rfl, rfl⟩ : k = l ∧ i = j := by omega
    rfl

/-- What an XSEND puts on the send side. -/
def Ctx.sendSide (c : Ctx) (p a count : Nat) : SendSide :=
  { age := c.age, num := c.g.id.num, entry := c.entry, pc := c.pc, partner := p, lanes := c.active, count := count,
    inTrap := c.g.flow.trapMode, data := runCells 0 c.lanes count fun l j => c.g.vRun a j l }

/-- What an XRECV puts on the receive side. -/
def Ctx.recvSide (c : Ctx) (p op : Nat) : RecvSide := { age := c.age, num := c.g.id.num, partner := p, op := op }

section Issue

variable {s : State} {c : Ctx} (h : s.ctx? = some c) {w : Workgroup} (hw : s.wgOf c.g = some w) {p : BitVec 6}
  (valid : p = 32#6 ∨ p.toNat < w.groups ∧ p.toNat ≠ c.g.id.num) {n : BitVec 2} {slot : BitVec 4} {a : BitVec 6}
  (fit : c.Fits [(a.toNat, n.toNat + 1)]) (stays : s.partnerGone w.id c.g.id.num p.toNat = false)
include h hw valid fit stays

/-- An XSEND takes the send side with its registers, and its fragment is held (R176). -/
theorem execXsend_next (clean : c.Clean c.active [(a.toNat, n.toNat + 1)])
    (side : c.checkSide s w true slot.toNat p.toNat = .ok ()) : execXsend p n slot a s =
      .next ((s.onSlot w.id slot.toNat fun y => { y with send := some (c.sendSide p.toNat a.toNat (n.toNat + 1)) }).onGroup c.age
        fun g => (g.onFrag c.entry fun f =>
          { f with wait := .held, hold := .transfer slot.toNat, lastIssue := c.clock }).countIssue) := by
  refine run_ok h ?_
  simp only [hw]
  exact bind_of_ok (Ctx.checkPartner_ok valid) (bind_of_ok (Ctx.checkRuns_ok fit) (bind_of_ok (Ctx.checkEcc_ok clean)
    (bind_of_ok side (bind_of_ok (need_of (by rw [stays, Bool.not_false]) _) rfl))))

/-- An XRECV takes the receive side and goes on with its results in flight (R176). -/
theorem execXrecv_next (flag : c.flagA.isSome = true) (side : c.checkSide s w false slot.toNat p.toNat = .ok ()) :
    execXrecv p n slot a s = .next (c.launch (c.done (s.onSlot w.id slot.toNat fun y =>
      { y with recv := some (c.recvSide p.toNat s.nextOp) }) c.g) c.flagA none
        (.xrecv slot.toNat p.toNat c.active a.toNat (n.toNat + 1))) := by
  refine run_ok h ?_
  simp only [hw]
  exact bind_of_ok (Ctx.checkPartner_ok valid) (bind_of_ok (Ctx.checkRuns_ok fit) (bind_of_ok (need_of flag _)
    (bind_of_ok side (bind_of_ok (need_of (by rw [stays, Bool.not_false]) _) rfl))))

end Issue

/-! ## The transfer -/

theorem sidesMatch_of {x : SendSide} {r : RecvSide} (other : x.num ≠ r.num) (hx : x.partner = 32 ∨ x.partner = r.num)
    (hr : r.partner = 32 ∨ r.partner = x.num) : sidesMatch x r = true := by
  simp [sidesMatch, other, hx, hr]

theorem State.bothRun_of {s : State} {a b : Nat} {g h : Group} (ha : Map.find? s.groups a = some g)
    (hb : Map.find? s.groups b = some h) (rg : g.running = true) (rh : h.running = true) : s.bothRun a b = true := by
  simp [State.bothRun, ha, hb, rg, rh]

/-- A slot whose sides both empty is no longer listed. -/
theorem State.onSlot_empty {s : State} {wg slot : Nat} {w : Workgroup} (hw : Map.find? s.wgs wg = some w) :
    s.onSlot wg slot (fun _ => { send := none, recv := none }) =
      { s with wgs := Map.insert s.wgs wg { w with slots := Map.erase w.slots slot } } := by
  rw [State.onSlot, State.onWg, Map.modify_of_find? hw]
  rfl

theorem State.landPend_of_none {p : Pend} (path : p.path = none) (s : State) :
    s.landPend p = { s with pend := s.pend.filter fun q => q.id != p.id } := by
  rw [State.landPend, path]

/-- The slot empties, the results are written to the receiver, whose XRECV is no longer in flight, and the sender changes. -/
theorem State.transfer_eq {s : State} {wg slot age : Nat} {w : Workgroup} {p : Pend} {gx gr : Group}
    (hw : Map.find? s.wgs wg = some w) (hx : Map.find? s.groups age = some gx) (hr : Map.find? s.groups p.age = some gr)
    (other : age ≠ p.age) (path : p.path = none) (vw : List (Nat × Lane)) (f : Group → Group) :
    ((s.onSlot wg slot fun _ => { send := none, recv := none }).writeBack p vw [] 0#4).onGroup age f =
      { s with wgs := Map.insert s.wgs wg { w with slots := Map.erase w.slots slot },
               pend := s.pend.filter fun q => q.id != p.id,
               groups := Map.insert (Map.insert s.groups p.age (gr.setCells vw)) age (f gx) } := by
  have untouched : Map.find? (Map.insert s.groups p.age (gr.setCells vw)) age = some gx :=
    (Map.find?_insert_ne _ _ other.symm).trans hx
  simp only [State.onSlot_empty hw, State.writeBack, State.landPend_of_none path, State.onGroup, Map.modify_of_find? hr,
    List.foldl_nil, Group.orFp_zero, Map.modify_of_find? untouched]

/-- The XSEND of a fragment outside trap mode completes. -/
theorem Group.mem_completeHeld {g : Group} {entry : Nat} {pc : Word} {f : Frag} (hf : f ∈ g.flow.frags)
    (he : f.entry = entry) (hpc : f.pc = pc) :
    { f with pc := f.pc + 4, wait := .ready, hold := .none, age := 0 } ∈ (g.completeHeld false entry pc).flow.frags := by
  refine List.mem_map.2 ⟨f, hf, ?_⟩
  simp only [he, hpc, beq_self_eq_true, if_true]

/-- Matching sides of groups that both run are handed over (R177, R180). -/
theorem execRendezvousTransfer_next {s : State} {wg slot : Nat} {w : Workgroup} {x : SendSide} {r : RecvSide} {p : Pend}
    {gx gr : Group} {sl pt : Nat} {lanes : Lane} {reg count : Nat} (hw : Map.find? s.wgs wg = some w)
    (hslot : Map.find? w.slots slot = some { send := some x, recv := some r }) (meet : sidesMatch x r = true)
    (hx : Map.find? s.groups x.age = some gx) (hr : Map.find? s.groups r.age = some gr) (running : s.bothRun x.age r.age = true)
    (other : x.age ≠ r.age) (hp : s.pend.find? (fun q => q.id == r.op) = some p) (age : p.age = r.age)
    (path : p.path = none) (kind : p.kind = .xrecv sl pt lanes reg count) : execRendezvousTransfer wg slot s =
      .next { s with wgs := Map.insert s.wgs wg { w with slots := Map.erase w.slots slot },
                     pend := s.pend.filter fun q => q.id != r.op,
                     groups := Map.insert (Map.insert s.groups r.age (gr.setCells (transferCells x lanes reg count))) x.age
                       (gx.completeHeld x.inTrap x.entry x.pc) } := by
  have id : p.id = r.op := by simpa using List.find?_some hp
  have sides : ((Map.find? s.wgs wg).bind fun w => Map.find? w.slots slot) = some { send := some x, recv := some r } := by
    rw [hw, Option.bind_some, hslot]
  simp only [execRendezvousTransfer, sides, meet, running, Bool.and_self, if_true, hp, kind]
  rw [← age] at hr other
  rw [State.transfer_eq hw hx hr other path, id, age]

/-- Settles O23: at issue each takes its side of the slot with what it read; the transfer finds both sides, writes the
receiver's run, and lets the sender go on. -/
theorem rendezvous : Obligations.Rendezvous := by
  unfold Obligations.Rendezvous
  refine ⟨?issue, ?transfer⟩
  case issue =>
    intro s c w p n slot a h hw valid fit stays
    refine ⟨fun clean side => ?send, fun flag side => ?recv⟩
    case send =>
      refine ⟨_, (exec_xsend ..).trans (execXsend_next h hw valid fit stays clean side), rfl, rfl, rfl, rfl, rfl, rfl, rfl,
        rfl, fun l j hl hj => ?_⟩
      have := find?_runCells (key := 0) (lanes := c.lanes) (f := fun l j => c.g.vRun a.toNat j l)
        (fun _ => lt_of_mem_lanesOf) (mem_lanesOf.2 hl) (Nat.lt_succ_of_le hj)
      rwa [Nat.zero_add] at this
    case recv =>
      exact ⟨_, _, (exec_xrecv ..).trans (execXrecv_next h hw valid fit stays flag side), rfl, rfl, rfl, rfl, rfl, rfl, rfl,
        rfl⟩
  case transfer =>
    intro s wg slot w x r p gx gr sl pt lanes reg count hw hslot other partnerX partnerR hx hr runX runR ages hp age path kind
    refine ⟨_, _, _, (exec_rendezvousTransfer ..).trans (execRendezvousTransfer_next hw hslot
      (sidesMatch_of other partnerX partnerR) hx hr (State.bothRun_of hx hr runX runR) ages hp age path kind), rfl, rfl,
      fun f hf he hpc outside => ?_, gr.vectorFrom_setCells reg count lanes _⟩
    rw [outside]
    exact Group.mem_completeHeld hf he hpc

end Sys2Proof.Machine
end

section
/-! Fences, TCFENCE and the waits on counters (R229 to R233, R235, R238, R247). -/

namespace Sys2Proof.Machine

/-! ## A core after a change -/

@[simp] theorem State.core_setCore (s : State) (n : Nat) (k : Core) : (s.setCore n k).core n = k :=
  Map.get_set_self _ _ _ _

@[simp] theorem State.core_onCore (s : State) (n : Nat) (f : Core → Core) : (s.onCore n f).core n = f (s.core n) :=
  s.core_setCore n _

/-! ## The L1 after an acquire and after a release -/

theorem State.l1Drop_l1 (s : State) (core : Nat) (sel : Nat → L1Byte → Bool) :
    ((s.l1Drop core sel).core core).l1 = (s.core core).l1.filter fun p => !sel p.1 p.2 := by
  unfold State.l1Drop
  rw [State.core_onCore]
  rfl

/-- An acquire leaves the groups and the memory behind the L1 as they are. -/
theorem State.acquire_frame (s : State) (core scope : Nat) : (s.acquire core scope).mem.phys = s.mem.phys ∧
    (s.acquire core scope).mem.llc = s.mem.llc ∧ (s.acquire core scope).groups = s.groups := by
  unfold State.acquire
  split
  · exact ⟨rfl, rfl, rfl⟩
  · split <;> exact ⟨rfl, rfl, rfl⟩

/-- At .pkg and .rack no tensor byte but a dirty NC one stays (R231). -/
theorem State.acquire_wide {s : State} {core scope : Nat} (wide : 4 ≤ scope) {p : Nat × L1Byte}
    (hp : p ∈ ((s.acquire core scope).core core).l1) (tensor : keySpace p.1 = .tensor) :
    p.2.nc = true ∧ p.2.dirty = true := by
  rw [State.acquire, if_pos wide, State.l1Drop_l1] at hp
  simpa [tensor] using (List.mem_filter.mp hp).2

/-- At .core no coherent tensor byte stays. -/
theorem State.acquire_core {s : State} {core : Nat} {p : Nat × L1Byte}
    (hp : p ∈ ((s.acquire core 3).core core).l1) (tensor : keySpace p.1 = .tensor) : p.2.nc = true := by
  rw [State.acquire, if_neg (by decide), if_pos rfl, State.l1Drop_l1] at hp
  simpa [tensor] using (List.mem_filter.mp hp).2

theorem State.acquire_narrow {scope : Nat} (narrow : scope < 3) (s : State) (core : Nat) : s.acquire core scope = s := by
  rw [State.acquire, if_neg (by omega), if_neg (by omega)]

theorem State.llcWrite_cores (s : State) (l : List (Nat × Byte)) : (s.llcWrite l).cores = s.cores := by
  rw [(s.llcWrite_eq l).1]

/-- A byte of an L1 with its key, clean where a test selects it. -/
def cleanedBy (sel : Nat → L1Byte → Bool) (p : Nat × L1Byte) : Nat × L1Byte :=
  (p.1, if sel p.1 p.2 then { p.2 with dirty := false } else p.2)

/-- After a write-back no selected byte of the core's L1 is dirty. -/
theorem State.l1Writeback_clean {s : State} {core : Nat} {sel : Nat → L1Byte → Bool} {p : Nat × L1Byte}
    (hp : p ∈ ((s.l1Writeback core sel).core core).l1) (selected : sel p.1 p.2 = true) : p.2.dirty = false := by
  unfold State.l1Writeback at hp
  dsimp only at hp
  split at hp
  · next none_dirty =>
    have := List.filterMap_eq_nil_iff.mp none_dirty p hp
    simpa [selected] using this
  · have hp : p ∈ (s.core core).l1.map (cleanedBy sel) := by
      rw [State.core, State.llcWrite_cores] at hp
      rwa [← State.core, State.core_setCore] at hp
    obtain ⟨q, -, rfl⟩ := List.mem_map.mp hp
    by_cases hq : sel q.1 q.2 = true
    · simp [cleanedBy, hq]
    · simp [cleanedBy, hq] at selected

theorem State.eagerRelease_core (s : State) (core age : Nat) :
    (s.eagerRelease core age).core core = { (s.flushNc core).core core with relEntries := [] } :=
  (s.flushNc core).core_onCore core fun c => { c with relEntries := [] }

theorem State.eagerRelease_clean {s : State} {core age : Nat} {p : Nat × L1Byte}
    (hp : p ∈ ((s.eagerRelease core age).core core).l1) (nc : isNcByte p.1 p.2 = true) : p.2.dirty = false := by
  rw [State.eagerRelease_core] at hp
  exact State.l1Writeback_clean hp nc

theorem State.eagerRelease_relEntries (s : State) (core age : Nat) : ((s.eagerRelease core age).core core).relEntries = [] := by
  rw [State.eagerRelease_core]

theorem State.eagerRelease_phys (s : State) (core age : Nat) : (s.eagerRelease core age).mem.phys = s.mem.phys :=
  (s.flushNc_caches core).phys

/-- The group that releases has no mark any more, and is as it was but for what it watches. -/
theorem State.eagerRelease_group {s : State} {core age : Nat} {g : Group} (hg : Map.find? s.groups age = some g) :
    ∃ w, Map.find? (s.eagerRelease core age).groups age = some (g.withWatch w).clearMark := by
  obtain ⟨f, hf⟩ := (s.flushNc_caches core).watches.find? age
  rw [hg, Option.map_some] at hf
  refine ⟨f g, ?_⟩
  rw [State.eagerRelease, State.onGroup_of_find? (s := (s.flushNc core).onCore core _) hf]
  exact Map.find?_insert_self _ _ _

/-! ## The fences -/

section Fences

variable {s : State} {c : Ctx} (h : s.ctx? = some c) (src : BitVec 3)
include h

theorem execFenceAcq_next (orderly : c.Orderly s) (performed : s.loadsBefore c.age (c.opLimit s) = false) :
    execFenceAcq src s = .next (c.finish (s.acquire c.core src.toNat) id) :=
  run_ok h (bind_of_ok (Ctx.checkDeferred_ok orderly) (bind_of_ok (need_of (by rw [performed]; rfl) _) rfl))

theorem execFenceAcq_held (orderly : c.Orderly s) (waits : s.loadsBefore c.age (c.opLimit s) = true) :
    execFenceAcq src s = .next (c.stopped s (.hold (.loads (c.opLimit s)))) :=
  run_error h (bind_of_ok (Ctx.checkDeferred_ok orderly) (bind_of_error (by rw [waits]; rfl)))

theorem execTcfence_next (orderly : c.Orderly s) : execTcfence s = .next (c.finish (s.flushNc c.core) fun g =>
    { g with work := { g.work with tcFence := s.nextOp, markEntry := none } }) :=
  run_ok h (bind_of_ok (Ctx.orderingPoint_ok orderly) rfl)

omit h in
/-- A release with an earlier access to wait for is held, where it passes as an ordering point (R229, R232). -/
theorem Ctx.releasePoint_held (orderly : c.Orderly s) (waits : s.accessesBefore c.g c.age (c.opLimit s) = true) :
    c.releasePoint s false = .error (.hold (.release (c.opLimit s))) :=
  bind_of_ok (Ctx.orderingPoint_ok orderly) (bind_of_ok (a := ()) rfl (by rw [Ctx.waitRelease, waits]; rfl))

omit h in
theorem Ctx.releasePoint_quiet (released : c.Released s) : c.releasePoint s false = .ok () :=
  Ctx.releasePoint_ok released false fun e => nomatch e

theorem execFenceRel_narrow (released : c.Released s) (narrow : src.toNat < 4) :
    execFenceRel src s = .next (c.finish s Group.clearMark) :=
  run_ok h (bind_of_ok (Ctx.releasePoint_quiet released) (if_neg (by omega)))

theorem execFenceRel_wide (released : c.Released s) (wide : 4 ≤ src.toNat) :
    execFenceRel src s = .next (c.finish (s.recordEntry c.core).2 fun g =>
      { g with work := { g.work with markEntry := some (s.recordEntry c.core).1 } }) :=
  run_ok h (bind_of_ok (Ctx.releasePoint_quiet released) (if_pos wide))

/-- FENCE.full releases eagerly at .pkg and .rack, and then acquires (R232). -/
theorem execFenceFull_next (released : c.Released s) (applied : src.toNat < 5 ∨ s.homeStores c.age = false) :
    execFenceFull src s = .next (c.finish
      ((if 4 ≤ src.toNat then s.eagerRelease c.core c.age else s).acquire c.core src.toNat) Group.clearMark) :=
  run_ok h (bind_of_ok (Ctx.releasePoint_quiet released) (bind_of_ok (need_of (by simpa using applied) _) rfl))

theorem execFenceFull_held (released : c.Released s) (rack : 5 ≤ src.toNat) (unapplied : s.homeStores c.age = true) :
    execFenceFull src s = .next (c.stopped s (.hold (.release (c.opLimit s)))) :=
  run_error h (bind_of_ok (Ctx.releasePoint_quiet released)
    (bind_of_error (by rw [unapplied, decide_eq_false (by omega)]; rfl)))

end Fences

/-! ## Waits on counters -/

/-- The limit of a WAITC: that of its issue, where it has issued (R41, R247). -/
def Ctx.waitLimit (c : Ctx) (b : BitVec 6) : Nat :=
  match c.f.hold with
  | .counter _ n => n
  | _ => (c.g.s b).toNat

theorem filter_passed_nil {α : Type} {l : List α} {inTrap sel : α → Bool} {trap : Bool}
    (passed : ∀ r ∈ l, sel r = true → trap = true ∧ inTrap r = false) :
    l.filter (fun r => (!trap || inTrap r) && sel r) = [] :=
  List.filter_eq_nil_iff.2 fun r hr hs => by
    obtain ⟨here, selected⟩ := Bool.and_eq_true_iff.mp hs
    obtain ⟨mode, out⟩ := passed r hr selected
    simp [mode, out] at here

/-- Of the deferred records that the tests select, none surfaces where each is one that trap mode passes over (R370). -/
theorem Ctx.surface_passed {c : Ctx} {rem : FailedRemote → Bool} {eng : FailedEngine → Bool}
    (hrem : ∀ r ∈ c.g.work.failedRemote, rem r = true → c.g.flow.trapMode = true ∧ r.inTrap = false)
    (heng : ∀ r ∈ c.g.work.failedEngine, eng r = true → c.g.flow.trapMode = true ∧ r.inTrap = false) :
    c.surface rem eng = .ok () := by
  have no_remote := filter_passed_nil hrem
  have no_engine := filter_passed_nil heng
  rw [Ctx.surface]
  simp only [no_remote, no_engine, List.filter_nil, firstRemote, firstEngine]

section Waitc

variable {s : State} {c : Ctx} (h : s.ctx? = some c) {b : BitVec 6} {path : Path} {first : Ctx → Except Stop Unit}
  (hf : first c = .ok ())
include h hf

theorem waitc_next (low : 1023 ≤ c.waitLimit b ∨ c.g.work.counter path ≤ c.waitLimit b) :
    waitc s b path first = .next (c.finish s id) := by
  have go : (decide (1023 ≤ c.waitLimit b) || decide (c.g.work.counter path ≤ c.waitLimit b)) = true := by simpa using low
  exact run_ok h (bind_of_ok hf (bind_of_ok (need_of go _) rfl))

theorem waitc_held (bounded : c.waitLimit b < 1023) (high : c.waitLimit b < c.g.work.counter path) :
    waitc s b path first = .next (c.stopped s (.hold (.counter path (c.waitLimit b)))) := by
  have stay : (decide (1023 ≤ c.waitLimit b) || decide (c.g.work.counter path ≤ c.waitLimit b)) = false := by
    simp only [Bool.or_eq_false_iff, decide_eq_false_iff_not]; omega
  have held : need (decide (1023 ≤ c.waitLimit b) || decide (c.g.work.counter path ≤ c.waitLimit b))
      (.hold (.counter path (c.waitLimit b))) = .error (.hold (.counter path (c.waitLimit b))) := by rw [stay]; rfl
  exact run_error h (bind_of_ok hf (bind_of_error held))

end Waitc

/-- Settles O44: each fence passes its checks by what is assumed of the group's records; what an acquire and an eager release
leave of the L1 is what their tests select. -/
theorem fencesAndCounterWaits : Obligations.FencesAndCounterWaits := by
  unfold Obligations.FencesAndCounterWaits
  refine ⟨?acquire, ?waits, ?release, ?acquired, ?released, ?counters⟩
  case acquire =>
    intro s c src h orderly
    exact ⟨fun performed => (exec_fenceAcq ..).trans (execFenceAcq_next h src orderly performed),
      fun waits => (exec_fenceAcq ..).trans (execFenceAcq_held h src orderly waits),
      (exec_tcfence ..).trans (execTcfence_next h orderly)⟩
  case waits =>
    intro s c src h orderly waits
    have held := Ctx.releasePoint_held orderly waits
    exact List.forall_mem_cons.mpr ⟨run_error h (bind_of_error held),
      List.forall_mem_singleton.mpr (run_error h (bind_of_error held))⟩
  case release =>
    intro s c src h released
    refine ⟨fun narrow => ⟨execFenceRel_narrow h src released narrow, ?_⟩,
      fun wide => ⟨execFenceRel_wide h src released wide, fun applied => ?_, execFenceFull_held h src released⟩⟩
    · have := execFenceFull_next h src released (.inl (by omega))
      rwa [if_neg (by omega)] at this
    · have := execFenceFull_next h src released applied
      rwa [if_pos wide] at this
  case acquired =>
    intro s core scope
    obtain ⟨phys, llc, groups⟩ := s.acquire_frame core scope
    exact ⟨phys, llc, groups, fun wide _ => State.acquire_wide wide, fun atCore _ hp => State.acquire_core (atCore ▸ hp),
      fun narrow => s.acquire_narrow narrow core⟩
  case released =>
    intro s core age g hg
    obtain ⟨w, hw⟩ := State.eagerRelease_group (core := core) hg
    exact ⟨s.eagerRelease_phys core age, s.eagerRelease_relEntries core age, fun _ => State.eagerRelease_clean,
      _, hw, rfl, rfl, rfl, rfl⟩
  case counters =>
    intro s c b i path h which orderly passed remote engine limit
    have meaning : ∃ first, exec i s = waitc s b path first ∧ first c = .ok () := by
      simp only [List.mem_cons, Prod.mk.injEq, List.not_mem_nil, or_false] at which
      rcases which with ⟨rfl, rfl⟩ | ⟨rfl, rfl⟩ | ⟨rfl, rfl⟩ | ⟨rfl, rfl⟩ | ⟨rfl, rfl⟩ | ⟨rfl, rfl⟩
      · exact ⟨_, exec_waitcLd .., rfl⟩
      · exact ⟨_, exec_waitcSt .., Ctx.checkDeferred_ok (orderly rfl)⟩
      · exact ⟨_, exec_waitcWh .., Ctx.surface_passed (fun _ _ e => nomatch e) fun r hr wherry =>
          engine (by decide) r hr ((Bool.not_eq_true' _).mp wherry)⟩
      · exact ⟨_, exec_waitcAn .., rfl⟩
      · exact ⟨_, exec_waitcRa .., Ctx.surface_passed (fun r hr _ => remote rfl r hr) fun _ _ e => nomatch e⟩
      · exact ⟨_, exec_waitcFe .., Ctx.surface_passed (fun _ _ e => nomatch e) (engine (by decide))⟩
    obtain ⟨first, meaning, passes⟩ := meaning
    exact ⟨fun low => meaning.trans (waitc_next h passes low),
      fun bounded high => meaning.trans (waitc_held h passes bounded high)⟩

end Sys2Proof.Machine
end

section
/-! The barriers of a workgroup and its cohorts (R239 to R241). -/

namespace Sys2Proof.Machine

/-! ## A barrier after a change -/

@[simp] theorem Workgroup.barrier_onBarrier (w : Workgroup) (bar : Nat) (f : Barrier → Barrier) :
    (w.onBarrier bar f).barrier bar = f (w.barrier bar) := by
  rw [Workgroup.barrier, Workgroup.onBarrier, Map.get_insert, if_pos rfl]

/-- Every member has arrived or exited, and some member has arrived: the phase ends (R240). -/
theorem Workgroup.completeBarrier_ends {w : Workgroup} {bar : Nat} {b : Barrier} (hb : w.barrier bar = b)
    (arrived : b.arrived ≠ 0) (all : w.barrierMembers bar &&& ~~~(b.arrived ||| w.exited) = 0) :
    (w.completeBarrier bar).barrier bar = { b with phase := b.phase + 1, lanes := [], arrived := 0 } := by
  subst hb
  rw [Workgroup.completeBarrier, if_pos ⟨all, arrived⟩, Workgroup.barrier_onBarrier]

theorem Workgroup.completeBarrier_waits {w : Workgroup} {bar : Nat} {b : Barrier} (hb : w.barrier bar = b)
    (missing : w.barrierMembers bar &&& ~~~(b.arrived ||| w.exited) ≠ 0) : w.completeBarrier bar = w := by
  subst hb
  exact if_neg fun all => missing all.1

/-! ## Arrival -/

/-- A barrier at which lanes of a group are counted. -/
def Barrier.count (b : Barrier) (num : Nat) (lanes : Lane) : Barrier :=
  { b with lanes := Map.set 0 b.lanes num (Map.get 0 b.lanes num ||| lanes) }

/-- A barrier at which a group has arrived, in the phase that is under way. -/
def Barrier.note (b : Barrier) (num : Nat) : Barrier :=
  { b with arrived := b.arrived ||| laneBit num, last := Map.set 0 b.last num (b.phase + 1) }

theorem Barrier.last_note (b : Barrier) (num : Nat) : Map.get 0 (b.note num).last num = b.phase + 1 :=
  Map.get_set_self 0 b.last num (b.phase + 1)

section Arrive

variable {w : Workgroup} {bar num : Nat} {lanes live : Lane}

/-- The group arrives once every live lane is counted. -/
theorem Workgroup.arrive_eq : w.arrive bar num lanes live =
    if live &&& ~~~(Map.get 0 (w.barrier bar).lanes num ||| lanes) = 0 then
      ((w.onBarrier bar (Barrier.count · num lanes)).onBarrier bar (Barrier.note · num)).completeBarrier bar
    else w.onBarrier bar (Barrier.count · num lanes) := rfl

theorem Workgroup.arrive_part (more : live &&& ~~~(Map.get 0 (w.barrier bar).lanes num ||| lanes) ≠ 0) :
    (w.arrive bar num lanes live).barrier bar = (w.barrier bar).count num lanes := by
  rw [Workgroup.arrive_eq, if_neg more, Workgroup.barrier_onBarrier]

theorem Workgroup.barrier_counted_noted :
    ((w.onBarrier bar (Barrier.count · num lanes)).onBarrier bar (Barrier.note · num)).barrier bar =
      ((w.barrier bar).count num lanes).note num := by
  rw [Workgroup.barrier_onBarrier, Workgroup.barrier_onBarrier]

variable (whole : live &&& ~~~(Map.get 0 (w.barrier bar).lanes num ||| lanes) = 0)
include whole

theorem Workgroup.arrive_last (some_group : (w.barrier bar).arrived ||| laneBit num ≠ 0)
    (all : w.barrierMembers bar &&& ~~~(((w.barrier bar).arrived ||| laneBit num) ||| w.exited) = 0) :
    (w.arrive bar num lanes live).barrier bar = { ((w.barrier bar).count num lanes).note num with
      phase := (w.barrier bar).phase + 1, lanes := [], arrived := 0 } := by
  rw [Workgroup.arrive_eq, if_pos whole]
  exact Workgroup.completeBarrier_ends Workgroup.barrier_counted_noted some_group all

theorem Workgroup.arrive_waits
    (missing : w.barrierMembers bar &&& ~~~(((w.barrier bar).arrived ||| laneBit num) ||| w.exited) ≠ 0) :
    (w.arrive bar num lanes live).barrier bar = ((w.barrier bar).count num lanes).note num := by
  rw [Workgroup.arrive_eq, if_pos whole, Workgroup.completeBarrier_waits Workgroup.barrier_counted_noted missing,
    Workgroup.barrier_counted_noted]

end Arrive

/-! ## The instructions -/

/-- A number that is neither 32 nor that of a defined cohort of the group selects no barrier (R239). -/
theorem Ctx.barrierOf_undefined {c : Ctx} {w : Workgroup} {src : BitVec 6} (cohort : src ≠ 32#6)
    (bad : 16 ≤ src.toNat ∨ cohortDefined (w.cohort src.toNat) = false ∨
      hasGroup (cohortMembers (w.cohort src.toNat)) c.g.id.num = false) : c.barrierOf w src = .error c.illegal := by
  have number : src.toNat ≠ 32 := fun e => cohort (BitVec.eq_of_toNat_eq e)
  have refused : (decide (src.toNat < 16) && cohortDefined (w.cohort src.toNat) &&
      hasGroup (cohortMembers (w.cohort src.toNat)) c.g.id.num) = false := by
    rcases bad with high | undefined | unlisted
    · rw [decide_eq_false (by omega)]; rfl
    · rw [undefined, Bool.and_false, Bool.false_and]
    · rw [unlisted, Bool.and_false]
  rw [Ctx.barrierOf]
  simp only [if_neg number, refused]
  rfl

/-- The state after the lanes of a fragment are counted at a barrier, which is a release of their group (R240). -/
def Ctx.arrived (c : Ctx) (s : State) (w : Workgroup) (bar : Nat) : State :=
  (s.onWg w.id fun w => w.arrive bar c.g.id.num c.f.lanes c.g.flow.live).onGroup c.age Group.clearMark

theorem Ctx.checkDisturb_alone {s : State} {c : Ctx} (alone : s.partners c.g = []) : c.checkDisturb s = .ok () :=
  need_of (by rw [alone]; rfl) _

section Barriers

variable {s : State} {c : Ctx} {src : BitVec 6} {w : Workgroup} {bar : Nat} (hw : s.wgOf c.g = some w)
include hw

theorem Ctx.arriveAt_illegal (hb : c.barrierOf w src = .error c.illegal) : c.arriveAt s src = .error c.illegal := by
  rw [Ctx.arriveAt, hw]
  exact bind_of_error hb

variable (hb : c.barrierOf w src = .ok bar)

section Release

variable (released : c.Released s) (alone : s.partners c.g = [])
include hb released alone

theorem Ctx.arriveAt_ok (fresh : c.f.lanes &&& ~~~(Map.get 0 (w.barrier bar).lanes c.g.id.num) ≠ 0) :
    c.arriveAt s src = .ok (bar, (w.barrier bar).phase, c.arrived s w bar) := by
  rw [Ctx.arriveAt, hw]
  exact bind_of_ok hb (bind_of_ok (Ctx.releasePoint_ok released true fun _ => alone)
    (bind_of_ok (need_of (bne_iff_ne.mpr fresh) _) rfl))

theorem Ctx.arriveAt_again (counted : c.f.lanes &&& ~~~(Map.get 0 (w.barrier bar).lanes c.g.id.num) = 0) :
    c.arriveAt s src = .error (.hold (.barrierAgain bar (w.barrier bar).phase)) := by
  rw [Ctx.arriveAt, hw]
  exact bind_of_ok hb (bind_of_ok (Ctx.releasePoint_ok released true fun _ => alone)
    (bind_of_error (by rw [counted]; rfl)))

end Release

variable (h : s.ctx? = some c)
include h

theorem execBarw_illegal (hb : c.barrierOf w src = .error c.illegal) : execBarw src s = .next (c.stopped s c.illegal) := by
  refine run_error h ?_
  rw [hw]
  exact bind_of_error hb

variable (alone : s.partners c.g = [])
include hb alone

theorem execBarw_notArrived (never : Map.get 0 (w.barrier bar).last c.g.id.num = 0) :
    execBarw src s = .next (c.finish s id) := by
  refine run_ok h ?_
  rw [hw]
  exact bind_of_ok hb (bind_of_ok (Ctx.checkDisturb_alone alone) (by rw [never]))

theorem execBarw_arrived {p : Nat} (last : Map.get 0 (w.barrier bar).last c.g.id.num = p + 1) :
    execBarw src s = .next (c.awaitPhase s bar p) := by
  refine run_ok h ?_
  rw [hw]
  exact bind_of_ok hb (bind_of_ok (Ctx.checkDisturb_alone alone) (by rw [last]))

end Barriers

end Sys2Proof.Machine
end

section
/-! The instructions on barrier objects: their checks, their update, and how each goes on (R242 to R244). -/

namespace Sys2Proof.Machine

/-- A meaning's result as the outcome of an instruction: its effect, or what stops it in a state. -/
def Ctx.outcome (c : Ctx) (s : State) : Except Stop State → Host.Outcome State Fault Refusal
  | .ok t => .next t
  | .error e => .next (c.stopped s e)

/-- The access of an object instruction. -/
def objectAccess (a : Word) : List Access := [{ lane := 32, addr := a, size := 8 }]

/-! ## The update -/

/-- What an object instruction of a form comes to in `t`, as operation `n`, once its checks are passed: it is held while the
object is not free for its update; it asks the home of the object's line where this package does not keep it alone; else it
makes its update at once (R242). -/
def ObjectForm.Works (m : ObjectForm) (c : Ctx) (a : Word) (u : ObjectUpdate) (t : State) (n : Nat)
    (out : Host.Outcome State Fault Refusal) : Prop :=
  (t.updateFree c.g a n = false → out = .next (c.heldState t (.objectOp a u n false none))) ∧
  (t.updateFree c.g a n = true → t.asksHome (vkey c.ctx a) = true → out = .next (c.heldState
    ((m.prepare c a t).askHome (offset48 a) (.object u) (.object c.age c.entry)) (.objectOp a u n true none))) ∧
  (t.updateFree c.g a n = true → t.asksHome (vkey c.ctx a) = false → ∀ o old t1 t2,
    c.objectRead t a = .ok (o, t1) → c.objectRead (m.prepare c a t1) a = .ok (old, t2) →
      out = .next (m.finish c a u old (t2.objectUpdate c.g.id.wg c.ctx a u old)))

theorem Ctx.objectStep_works (c : Ctx) (s t : State) (m : ObjectForm) (a : Word) (u : ObjectUpdate) (n : Nat) :
    m.Works c a u t n (c.outcome s (c.objectStep t m a u n)) := by
  refine ⟨fun busy => ?_, fun free far => ?_, fun free near o old t1 t2 first second => ?_⟩
  · rw [Ctx.objectStep, busy]
    rfl
  · simp only [Ctx.objectStep, free, far]
    rfl
  · have made : c.objectStep t m a u n = .ok (m.finish c a u old (t2.objectUpdate c.g.id.wg c.ctx a u old)) := by
      simp only [Ctx.objectStep, free, near]
      exact bind_of_ok first (bind_of_ok second rfl)
    rw [made]
    rfl

/-! ## An object instruction whose access nothing stops -/

section Instruction

variable {s : State} {c : Ctx} {a : Word} (may : c.MayAccess s { right := .atomic, priv := false } false false (objectAccess a))
  (sound : c.Sound s.uncount (objectAccess a))
include may sound

theorem runObject_eq {addr : Ctx → Word} (ha : addr c = a) (body : Ctx → State → Except Stop State) :
    runMem s (objectForm addr) body = c.outcome (c.reached s (objectAccess a)) (body c (c.reached s (objectAccess a))) := by
  subst ha
  refine (runMem_eq (accs := objectAccess (addr c)) may rfl rfl rfl (MemForm.first_ok rfl fun _ => sound) body).trans ?_
  cases body c (c.reached s (objectAccess (addr c))) <;> rfl

variable {m : ObjectForm} {u : ObjectUpdate} {checks : Ctx → State → Except Stop Unit}

/-! ### At issue -/

section Issue

variable (fresh : ∀ x v n asked old, c.f.hold ≠ .objectOp x v n asked old) (ha : m.args c = (a, u))
include fresh ha

omit may sound in
theorem Ctx.objectArgs_fresh : c.objectArgs m = (a, u) := by
  rw [Ctx.objectArgs]
  split
  · next hold => exact absurd hold (fresh _ _ _ _ _)
  · exact ha

theorem objectInstr_fresh : objectInstr s m checks = c.outcome (c.reached s (objectAccess a)) (do
    checks c (c.reached s (objectAccess a))
    c.objectStep { c.reached s (objectAccess a) with nextOp := (c.reached s (objectAccess a)).nextOp + 1 } m a u
      (c.reached s (objectAccess a)).nextOp) := by
  rw [objectInstr, runObject_eq may sound (by rw [Ctx.objectArgs_fresh fresh ha])]
  split
  · next hold => exact absurd hold (fresh _ _ _ _ _)
  · rw [ha]

theorem objectInstr_issue {out : Host.Outcome State Fault Refusal} (meaning : out = objectInstr s m checks)
    (passes : checks c (c.reached s (objectAccess a)) = .ok ()) :
    m.Works c a u { c.reached s (objectAccess a) with nextOp := (c.reached s (objectAccess a)).nextOp + 1 }
      (c.reached s (objectAccess a)).nextOp out := by
  rw [meaning, objectInstr_fresh may sound fresh ha, passes]
  exact c.objectStep_works _ _ m a u _

theorem objectInstr_stops {out : Host.Outcome State Fault Refusal} (meaning : out = objectInstr s m checks) {e : Stop}
    (stops : checks c (c.reached s (objectAccess a)) = .error e) :
    out = .next (c.stopped (c.reached s (objectAccess a)) e) := by
  rw [meaning, objectInstr_fresh may sound fresh ha, stops]
  rfl

end Issue

/-! ### Issued before -/

/-- One that was held before its update tries again, with the operands of its issue; one that has asked is held until the
home answers, and then ends (R41, R242). -/
theorem objectInstr_later {out : Host.Outcome State Fault Refusal}
    (meaning : (∀ x p, c.f.hold ≠ .object x p) → out = objectInstr s m checks) (n : Nat) :
    (c.f.hold = .objectOp a u n false none → m.Works c a u (c.reached s (objectAccess a)) n out) ∧
    (c.f.hold = .objectOp a u n true none → out = .next (c.heldState (c.reached s (objectAccess a)) c.f.hold)) ∧
    (∀ asked old, c.f.hold = .objectOp a u n asked (some old) →
      out = .next (m.finish c a u old ((c.reached s (objectAccess a)).objectMoved c.g.id.wg c.ctx a u old))) := by
  have address : ∀ {asked old}, c.f.hold = .objectOp a u n asked old → (c.objectArgs m).1 = a := fun hold => by
    rw [Ctx.objectArgs, hold]
  have meaning : ∀ {asked old}, c.f.hold = .objectOp a u n asked old → out = objectInstr s m checks := fun hold =>
    meaning (by simp [hold])
  refine ⟨fun hold => ?_, fun hold => ?_, fun asked old hold => ?_⟩ <;>
    rw [meaning hold, objectInstr, runObject_eq may sound (address hold)] <;> simp only [hold]
  · exact c.objectStep_works _ _ m a u n
  · rfl
  · rfl

/-! ### MBWAIT -/

omit sound in
/-- An MBWAIT that does not hold its fragment yet, or has still to make its update, is an object instruction. -/
theorem execMbwait_issue (idle : ∀ x p, c.f.hold ≠ .object x p) (b r : BitVec 6) : execMbwait b r s =
    objectInstr s (Ctx.waitForm fun c => (c.g.s r, .wait (s.effPrio c.age) ((c.g.s b).toNat % 4)))
      fun c s => c.checkDisturb s := by
  rw [execMbwait]
  split
  · next hold =>
    rw [may.current] at hold
    exact absurd hold (idle _ _)
  · rfl

section Waiting

variable {p o : Nat} {t : State} (hold : c.f.hold = .object a p)
  (load : (c.reached s (objectAccess a)).objectLoad c.g.id.wg c.ctx c.core a = .ok (o, t)) (b r : BitVec 6)
include hold load

theorem execMbwait_waiting : execMbwait b r s = c.outcome (c.reached s (objectAccess a))
    (if objPhase o ≠ p then .ok (c.leavePhase t a)
     else if objPrio o < (c.reached s (objectAccess a)).effPrio c.age then
       c.objectStep { t with nextOp := t.nextOp + 1 }
         (Ctx.waitForm fun _ => (a, .wait ((c.reached s (objectAccess a)).effPrio c.age) p)) a
         (.wait ((c.reached s (objectAccess a)).effPrio c.age) p) t.nextOp
     else .ok (c.heldState t (.object a p))) := by
  rw [execMbwait, may.current]
  simp only [Option.map_some, Option.getD_some, hold]
  rw [runObject_eq may sound rfl, load]

theorem execMbwait_leaves (other : objPhase o ≠ p) : execMbwait b r s = .next (c.leavePhase t a) := by
  rw [execMbwait_waiting may sound hold load, if_pos other]
  rfl

theorem execMbwait_stays (same : objPhase o = p) (low : (c.reached s (objectAccess a)).effPrio c.age ≤ objPrio o) :
    execMbwait b r s = .next (c.heldState t (.object a p)) := by
  rw [execMbwait_waiting may sound hold load, if_neg (not_not_intro same), if_neg (by omega)]
  rfl

theorem execMbwait_raises (same : objPhase o = p) (high : objPrio o < (c.reached s (objectAccess a)).effPrio c.age) :
    (Ctx.waitForm fun _ => (a, .wait ((c.reached s (objectAccess a)).effPrio c.age) p)).Works c a
      (.wait ((c.reached s (objectAccess a)).effPrio c.age) p) { t with nextOp := t.nextOp + 1 } t.nextOp (execMbwait b r s) := by
  rw [execMbwait_waiting may sound hold load, if_neg (not_not_intro same), if_pos high]
  exact c.objectStep_works _ _ _ a _ _

end Waiting

end Instruction

end Sys2Proof.Machine
end

section
/-! The word of a barrier object: what each update makes of its fields, and the bytes that it writes (R242, R243, Table 9.5). -/

namespace Sys2Proof.Machine

/-! ## The fields of an object, and what an update makes of them -/

/-- An update that leaves arrivals or bytes due leaves the phase (R243). -/
theorem objSettle_due {phase prio reload arrivals bytes : Nat} (due : ¬ (bytes % 2 ^ 28 = 0 ∧ arrivals % 4096 = 0)) :
    objSettle phase prio reload arrivals bytes = objMake phase prio reload arrivals bytes := if_neg due

section Updates

variable {phase prio reload arrivals bytes : Nat} (hphase : phase < 4) (hprio : prio < 16) (hreload : reload < 4096)
  (harrivals : arrivals < 4096) (hbytes : bytes < 2 ^ 27)
include hphase hprio hreload harrivals hbytes

/-- Fields within their widths read back as they were packed (Table 9.5). -/
theorem fields_objMake : objPhase (objMake phase prio reload arrivals bytes) = phase ∧
    objPrio (objMake phase prio reload arrivals bytes) = prio ∧
    objReload (objMake phase prio reload arrivals bytes) = reload ∧
    objArrivals (objMake phase prio reload arrivals bytes) = arrivals ∧
    objBytes (objMake phase prio reload arrivals bytes) = bytes := by
  unfold objPhase objPrio objReload objArrivals objBytes objMake
  omega

/-- The last arrival with no bytes due ends the phase; one before it is counted. -/
theorem objectNew_arrive : objectNew .arrive (objMake phase prio reload arrivals bytes) =
    if arrivals = 1 ∧ bytes = 0 then objMake (phase + 1) 0 reload reload 0
    else objMake phase prio reload (arrivals + 4095) bytes := by
  obtain ⟨ph, pr, re, ar, by_⟩ := fields_objMake hphase hprio hreload harrivals hbytes
  have last : bytes % 2 ^ 28 = 0 ∧ (arrivals + 4095) % 4096 = 0 ↔ arrivals = 1 ∧ bytes = 0 := by omega
  simp only [objectNew, objArrive, ph, pr, re, ar, by_, objSettle, last]

theorem objectNew_add {n : Nat} (hn : n < 2 ^ 27) (due : 0 < arrivals) :
    objectNew (.add n) (objMake phase prio reload arrivals bytes) = objMake phase prio reload arrivals (bytes + n) := by
  obtain ⟨ph, pr, re, ar, by_⟩ := fields_objMake hphase hprio hreload harrivals hbytes
  have sum : (BitVec.ofInt 28 ((bytes : Int) + n)).toNat = bytes + n := by
    rw [← Int.natCast_add, BitVec.ofInt_natCast, BitVec.toNat_ofNat, Nat.mod_eq_of_lt (by omega)]
  simp only [objectNew, objAddBytes, ph, pr, re, ar, by_, sum]
  exact objSettle_due (by omega)

theorem objectNew_wait (q p : Nat) (due : 0 < arrivals ∨ 0 < bytes) :
    objectNew (.wait q p) (objMake phase prio reload arrivals bytes) =
      if p = phase then objMake phase (max prio q) reload arrivals bytes else objMake phase prio reload arrivals bytes := by
  obtain ⟨ph, pr, re, ar, by_⟩ := fields_objMake hphase hprio hreload harrivals hbytes
  have same : phase = p ↔ p = phase := eq_comm
  have stays : ¬ (bytes % 2 ^ 28 = 0 ∧ arrivals % 4096 = 0) := by omega
  simp only [objectNew, objWait, ph, pr, re, ar, by_, same, objSettle_due stays]

end Updates

/-! ## The bytes that an update writes -/

@[simp] theorem valBytes_length (n v : Nat) : (valBytes n v).length = n := by
  induction n generalizing v with
  | zero => rfl
  | succ n ih => rw [valBytes, List.length_cons, ih]

/-- Cells listed in a row: each of their keys has its value, and the others what they had. -/
theorem Map.find?_insertRun {α β : Type} (f : β → α) (d : β) (l : List β) (m : Cells α) (k j i : Nat) :
    Map.find? ((((List.range' j l.length).zip l).map fun p => (k + p.1, p.2)).foldl
      (fun c p => Map.insert c p.1 (f p.2)) m) i =
      if k + j ≤ i ∧ i < k + j + l.length then some (f (l.getD (i - (k + j)) d)) else Map.find? m i := by
  induction l generalizing m j with
  | nil => rw [if_neg (by simp only [List.length_nil]; omega)]; rfl
  | cons b l ih =>
    rw [List.length_cons, List.range'_succ, List.zip_cons_cons, List.map_cons, List.foldl_cons, ih, Map.find?_insert]
    by_cases first : k + j = i
    · subst first
      rw [if_neg (by omega), if_pos rfl, if_pos (by omega), Nat.sub_self, List.getD_cons_zero]
    · by_cases later : k + (j + 1) ≤ i ∧ i < k + (j + 1) + l.length
      · rw [if_pos later, if_pos (by omega), show i - (k + j) = i - (k + (j + 1)) + 1 by omega, List.getD_cons_succ]
      · rw [if_neg later, if_neg first, if_neg (by omega)]

theorem State.fireWatches_cores (s : State) (core : Option Nat) (lines : List Nat) :
    (lines.foldl (fun t line => t.fireWatch core line) s).cores = s.cores := by
  rw [(s.fireWatches_eq core lines).1]

theorem State.fireWatches_mem (s : State) (core : Option Nat) (lines : List Nat) :
    (lines.foldl (fun t line => t.fireWatch core line) s).mem = s.mem := by
  rw [(s.fireWatches_eq core lines).1]

theorem State.sharedWrite_cores (s : State) (wg off : Nat) (l : List Byte) : (s.sharedWrite wg off l).cores = s.cores :=
  State.fireWatches_cores ..

theorem State.sharedWrite_llc (s : State) (wg off : Nat) (l : List Byte) : (s.sharedWrite wg off l).mem.llc = s.mem.llc := by
  rw [State.sharedWrite, State.fireWatches_mem]
  rfl

/-- A write of shared memory gives the bytes of its workgroup their values. -/
theorem State.sharedWrite_shared {s : State} {wg : Nat} {w : Workgroup} (hw : Map.find? s.wgs wg = some w) (off : Nat)
    {n : Nat} {l : List Byte} (hl : l.length = n) : ∃ w', Map.find? (s.sharedWrite wg off l).wgs wg = some w' ∧
    ∀ i, Map.get 0 w'.shared i =
      if off ≤ i ∧ i < off + n then l.getD (i - off) 0 else Map.get 0 w.shared i := by
  subst hl
  refine ⟨{ w with shared := Map.setRun 0 w.shared off l }, ?_, fun i => Map.get_setRun 0 w.shared off l i⟩
  rw [(s.sharedWrite_caches wg off l).wgs, State.onWg_wgs, Map.find?_modify, if_pos rfl, hw, Option.map_some]

/-- A write at the LLC of bytes in a row. -/
theorem State.llcWrite_run (s : State) (k n : Nat) {l : List Byte} (hl : l.length = n) (i : Nat) :
    Map.find? (s.llcWrite (((List.range n).zip l).map fun p => (k + p.1, p.2))).mem.llc i =
      if k ≤ i ∧ i < k + n then some { val := l.getD (i - k) 0, dirty := true } else Map.find? s.mem.llc i := by
  subst hl
  obtain ⟨-, -, cells⟩ := s.llcWrite_eq (((List.range l.length).zip l).map fun p => (k + p.1, p.2))
  rw [cells, List.range_eq_range']
  exact Map.find?_insertRun (fun b => { val := b, dirty := true }) 0 l s.mem.llc k 0 i

/-- A change of phase changes who is expected to arrive, and nothing else. -/
theorem State.objectMoved_frame (s : State) (wg ctx : Nat) (a : Word) (u : ObjectUpdate) (old : Nat) :
    (s.objectMoved wg ctx a u old).mem = s.mem ∧ (s.objectMoved wg ctx a u old).cores = s.cores ∧
      (s.objectMoved wg ctx a u old).wgs = s.wgs := by
  unfold State.objectMoved
  split
  · exact ⟨rfl, rfl, rfl⟩
  · split <;> exact ⟨rfl, rfl, rfl⟩

section Update

variable (s : State) (wg ctx : Nat) {a : Word} (u : ObjectUpdate) (old : Nat)

/-- What an update of an object leaves is what the write of its eight bytes leaves. -/
theorem State.objectUpdate_frame :
    (s.objectUpdate wg ctx a u old).mem = (s.objectStore wg ctx a (objectNew u old)).mem ∧
    (s.objectUpdate wg ctx a u old).cores = (s.objectStore wg ctx a (objectNew u old)).cores ∧
    (s.objectUpdate wg ctx a u old).wgs = (s.objectStore wg ctx a (objectNew u old)).wgs :=
  State.objectMoved_frame ..

theorem State.objectStore_caches (o : Nat) : (s.objectStore wg ctx a o).mem.phys = s.mem.phys ∧
    (s.objectStore wg ctx a o).cores = s.cores := by
  unfold State.objectStore
  dsimp only
  split
  · exact ⟨(s.sharedWrite_caches ..).phys, s.sharedWrite_cores ..⟩
  · exact ⟨(s.llcWrite_caches _).phys, s.llcWrite_cores _⟩

/-- An object in shared memory is written there. -/
theorem State.objectStore_shared (shared : a.toNat / 2 ^ 61 = 6) (o : Nat) :
    (s.objectStore wg ctx a o).mem.llc = s.mem.llc ∧
    ∀ w, Map.find? s.wgs wg = some w → ∃ w', Map.find? (s.objectStore wg ctx a o).wgs wg = some w' ∧
      ∀ i, Map.get 0 w'.shared i = if a.toNat % 2 ^ 20 ≤ i ∧ i < a.toNat % 2 ^ 20 + 8 then
        (valBytes 8 o).getD (i - a.toNat % 2 ^ 20) 0 else Map.get 0 w.shared i := by
  rw [State.objectStore, if_pos shared]
  exact ⟨s.sharedWrite_llc .., fun w hw => State.sharedWrite_shared hw _ (valBytes_length 8 _)⟩

/-- Another object is written at the LLC or in the control cache. -/
theorem State.objectStore_llc (elsewhere : a.toNat / 2 ^ 61 ≠ 6) (o : Nat) : (s.objectStore wg ctx a o).wgs = s.wgs ∧
    ∀ i, Map.find? (s.objectStore wg ctx a o).mem.llc i = if vkey ctx a ≤ i ∧ i < vkey ctx a + 8 then
      some { val := (valBytes 8 o).getD (i - vkey ctx a) 0, dirty := true } else Map.find? s.mem.llc i := by
  rw [State.objectStore, if_neg elsewhere]
  exact ⟨(s.llcWrite_caches _).wgs, s.llcWrite_run _ 8 (valBytes_length 8 _)⟩

end Update

end Sys2Proof.Machine
end

section
/-! The watch of MON and MWAIT (R245, R246). -/

namespace Sys2Proof.Machine

/-! ## The code that MWAIT returns -/

/-- The time of a deadline is up. -/
def State.late (s : State) (deadline : Option Nat) : Bool := deadline.any fun t => decide (t ≤ s.time8)

theorem State.late_iff {s : State} {deadline : Option Nat} :
    s.late deadline = true ↔ ∃ t, deadline = some t ∧ t ≤ s.time8 := by
  cases deadline <;> simp [State.late]

theorem State.watchCode_none (s : State) (deadline : Option Nat) :
    s.watchCode none deadline = if s.late deadline then some 1 else some 3 := by
  cases deadline <;> rfl

theorem State.watchCode_some (s : State) (w : Watch) (deadline : Option Nat) : s.watchCode (some w) deadline =
    if w.fired then some 0 else if s.late deadline then some 1 else if w.lost then some 2 else none := by
  cases deadline <;> rfl

/-! ## MON and MWAIT -/

theorem execMon_next {s : State} {c : Ctx} {a : BitVec 6}
    (may : c.MayAccess s { right := .read, align := false, priv := false } false false
      [{ lane := 32, addr := c.g.s a, size := 1 }]) :
    execMon a s = .next (c.finish (c.reached s [{ lane := 32, addr := c.g.s a, size := 1 }]) fun g => { g with work :=
      { g.work with watch := some { line := lineOf (memKey c.ctx c.g.id.wg (c.g.s a)), fired := false, lost := false } } }) :=
  runMem_ok may rfl rfl rfl (MemForm.first_eq c s.uncount rfl) rfl

/-- The time at which an MWAIT stops waiting: that of its issue, where it is held (R41, R246). -/
def Ctx.deadline (c : Ctx) (s : State) (b : BitVec 6) : Option Nat :=
  match c.f.hold with
  | .watch _ t => t
  | _ => if c.g.s b = 0 then none else some (s.time8 + 8 * (c.g.s b).toNat)

/-- A group with a scalar register written and its watch gone, as MWAIT leaves it. -/
def Group.watchResult (g : Group) (d : BitVec 6) (code : Nat) : Group :=
  { g.setS d (.ofNat 64 code) with work := { g.work with watch := none } }

section Mwait

variable {s : State} {c : Ctx} (h : s.ctx? = some c) {b : BitVec 6} (d : BitVec 6)
include h

theorem execMwait_leaves {n : Nat} (code : s.watchCode c.g.work.watch (c.deadline s b) = some n) :
    execMwait b d s = .next (c.finish s (Group.watchResult · d n)) := by
  refine run_ok h ?_
  dsimp only
  split
  · next m found =>
    obtain rfl : m = n := Option.some.inj (found.symm.trans code)
    rfl
  · next found => exact absurd (found.symm.trans code) nofun

theorem execMwait_held (code : s.watchCode c.g.work.watch (c.deadline s b) = none) :
    execMwait b d s = .next (c.stopped s (.hold (.watch d.toNat (c.deadline s b)))) := by
  refine run_error h ?_
  dsimp only
  split
  · next found => exact absurd (found.symm.trans code) nofun
  · rfl

end Mwait

/-! ## The events -/

/-- A fragment past its MWAIT, ready. -/
def Frag.pastMwait (f : Frag) : Frag := { f with pc := f.pc + 4, wait := .ready, hold := .none, age := 0 }

/-- A group whose MWAIT ends by its timeout with a code. -/
def Group.timedOut (g : Group) (entry d code : Nat) : Group :=
  ((g.watchResult (.ofNat 6 d) code).onFrag entry Frag.pastMwait).countIssue

theorem Group.watchResult_frag? (g : Group) (d : BitVec 6) (code entry : Nat) :
    (g.watchResult d code).frag? entry = g.frag? entry := by
  have flow : (g.watchResult d code).flow = g.flow := g.setS_flow ..
  rw [Group.frag?, Group.frag?, Group.bank, Group.bank, flow]

theorem Group.timedOut_frag? {g : Group} {entry : Nat} {f : Frag} (hf : g.frag? entry = some f) (d code : Nat) :
    (g.timedOut entry d code).frag? entry = some f.pastMwait := by
  refine (Group.frag?_onFrag _ entry Frag.pastMwait (fun _ => rfl) entry).trans ?_
  rw [if_pos rfl, Group.watchResult_frag?, hf, Option.map_some]

theorem Group.timedOut_regs (g : Group) (entry d code : Nat) :
    (g.timedOut entry d code).regs = (g.setS (.ofNat 6 d) (.ofNat 64 code)).regs := Group.onFrag_regs ..

theorem Group.timedOut_watch (g : Group) (entry d code : Nat) : (g.timedOut entry d code).work.watch = none :=
  congrArg Work.watch (Group.onFrag_work ..)

/-- Once the time is up the code is 0 where the watch has fired, and else 1. -/
theorem State.watchCode_up {s : State} {t : Nat} (up : t ≤ s.time8) (w : Option Watch) :
    s.watchCode w (some t) = some (if (w.map (·.fired)).getD false then 0 else 1) := by
  have late : s.late (some t) = true := decide_eq_true up
  cases w with
  | none => rw [State.watchCode_none, late]; rfl
  | some w =>
    rw [State.watchCode_some, late]
    cases fired : w.fired <;> simp [fired]

theorem execMwaitTimeout_next {s : State} {age entry d t : Nat} {g : Group} {f : Frag} (hg : Map.find? s.groups age = some g)
    (hf : g.frag? entry = some f) (held : f.wait = .held) (hold : f.hold = .watch d (some t)) (up : t ≤ s.time8) :
    execMwaitTimeout age entry s = .next { s with
      groups := Map.insert s.groups age
        (g.timedOut entry d (if (g.work.watch.map (·.fired)).getD false then 0 else 1)) } := by
  simp only [execMwaitTimeout, hg, hf, held, hold, if_pos up, State.watchCode_up up, Option.getD_some]
  rfl

/-- A write of a watched line fires the watch, and nothing else of the group changes. -/
theorem Group.fireWatch_watching {g : Group} {w : Watch} {line : Nat} (hw : g.work.watch = some w) (hl : w.line = line) :
    g.fireWatch none line = g.withWatch (some { w with fired := true }) := by
  subst hl
  simp [Group.fireWatch, Group.withWatch, hw]

theorem State.fireWatch_find? {s : State} {age : Nat} {g : Group} (hg : Map.find? s.groups age = some g) (line : Nat) :
    Map.find? (s.fireWatch none line).groups age = some (g.fireWatch none line) := by
  rw [State.fireWatch, find?_mapVals s.groups (fun g => g.fireWatch none line), hg, Option.map_some]

end Sys2Proof.Machine
end

section
/-! The statement of barriers, barrier objects and watches (R222, R239 to R246, R350). -/

namespace Sys2Proof.Machine

/-- Settles O45: barriers by what an arrival makes of a barrier; object instructions by their shared step, at issue and later; the
fields of an object by arithmetic; watches by the code that MWAIT returns. -/
theorem barriersObjectsAndWatches : Obligations.BarriersObjectsAndWatches := by
  unfold Obligations.BarriersObjectsAndWatches
  refine ⟨?barriers, ?undefined, ?arrival, ?counts, ?objects, ?bytes, ?fields, ?mon, ?mwait, ?timeout, ?fire⟩
  case barriers =>
    intro s c src w bar h hw hb b counted
    refine ⟨fun released alone => ⟨fun fresh => ?_, fun again => ?_⟩, fun alone never => ?_, fun alone p last => ?_⟩
    · have arrives := Ctx.arriveAt_ok hw hb released alone fresh
      exact ⟨run_ok h (bind_of_ok arrives rfl), run_ok h (bind_of_ok arrives rfl)⟩
    · have held := Ctx.arriveAt_again hw hb released alone again
      exact List.forall_mem_cons.mpr ⟨run_error h (bind_of_error held),
        List.forall_mem_singleton.mpr (run_error h (bind_of_error held))⟩
    · exact (exec_barw ..).trans (execBarw_notArrived hw hb h alone never)
    · exact (exec_barw ..).trans (execBarw_arrived hw hb h alone last)
  case undefined =>
    intro s c src w h hw number bad
    have none_selected := Ctx.barrierOf_undefined number bad
    have illegal := Ctx.arriveAt_illegal hw none_selected
    exact List.forall_mem_cons.mpr ⟨run_error h (bind_of_error illegal), List.forall_mem_cons.mpr
      ⟨run_error h (bind_of_error illegal), List.forall_mem_singleton.mpr (execBarw_illegal hw h none_selected)⟩⟩
  case arrival =>
    intro w bar num lanes live b counted arrived t
    refine ⟨fun more => ?_, fun whole some_group all => ?_, fun whole missing => ?_⟩
    · have ht : t = _ := Workgroup.arrive_part more
      rw [ht]
      exact ⟨rfl, rfl, Map.get_set_self ..⟩
    · have ht : t = _ := Workgroup.arrive_last whole some_group all
      rw [ht]
      exact ⟨rfl, rfl, rfl, Barrier.last_note ..⟩
    · have ht : t = _ := Workgroup.arrive_waits whole missing
      rw [ht]
      exact ⟨rfl, rfl, Barrier.last_note ..⟩
  case counts =>
    intro s c a b n accs may sound fresh
    refine ⟨fun high => ?_, fun high => ?_⟩
    · exact objectInstr_stops may sound fresh rfl (exec_mbinit ..) (by rw [decide_eq_false (by omega)]; rfl)
    · exact objectInstr_stops may sound fresh rfl (exec_mbexp ..) (by rw [decide_eq_false (by omega)]; rfl)
  case objects =>
    intro s c a b d addr u i
    -- `(… :)` settles the form of the instruction first, so that its `Works` and the statement's `works` are of one form.
    cases u with
    | init k =>
      intro accs s1 vk key prepare leaves ends works hi may sound
      obtain rfl : i = .mbinit b a := hi
      refine ⟨?_, (objectInstr_later (u := .init k) may sound fun _ => exec_mbinit s b a :),
        fun _ _ _ _ e => nomatch e⟩
      intro fresh ha n which
      obtain ⟨rfl, low⟩ : k = n ∧ n < 4096 := by simpa using which
      subst ha
      exact (objectInstr_issue may sound fresh rfl (exec_mbinit s b a) (need_of (decide_eq_true low) _) :)
    | add k =>
      intro accs s1 vk key prepare leaves ends works hi may sound
      obtain rfl : i = .mbexp b a := hi
      refine ⟨?_, (objectInstr_later (u := .add k) may sound fun _ => exec_mbexp s b a :),
        fun _ _ _ _ e => nomatch e⟩
      intro fresh ha n which
      obtain ⟨rfl, low⟩ : k = n ∧ n < 2 ^ 27 := by simpa using which
      subst ha
      exact (objectInstr_issue may sound fresh rfl (exec_mbexp s b a) (need_of (decide_eq_true low) _) :)
    | arrive =>
      intro accs s1 vk key prepare leaves ends works hi may sound
      obtain rfl : i = .mbarr a d := hi
      refine ⟨?_, (objectInstr_later (u := .arrive) may sound fun _ => exec_mbarr s a d :),
        fun _ _ _ _ e => nomatch e⟩
      intro fresh ha n which
      obtain ⟨released, alone⟩ : c.Released s1 ∧ s1.partners c.g = [] := by simpa using which
      subst ha
      exact (objectInstr_issue may sound fresh rfl (exec_mbarr s a d) (Ctx.releasePoint_ok released true fun _ => alone) :)
    | wait prio p =>
      intro accs s1 vk key prepare leaves ends works hi may sound
      obtain rfl : i = .mbwait b a := hi
      refine ⟨?_, (objectInstr_later (u := .wait prio p) may sound fun idle => execMbwait_issue may idle b a :),
        fun prio' p' o t e hold load => ?_⟩
      · intro fresh ha n which
        obtain ⟨⟨rfl, rfl⟩, alone, idle⟩ : (prio = s.effPrio c.age ∧ p = n % 4) ∧ s1.partners c.g = [] ∧
          ∀ x p, c.f.hold ≠ .object x p := by simpa using which
        subst ha
        exact (objectInstr_issue may sound fresh rfl (execMbwait_issue may idle b a) (Ctx.checkDisturb_alone alone) :)
      · obtain ⟨rfl, rfl⟩ := ObjectUpdate.wait.inj e
        refine ⟨execMbwait_leaves may sound hold load b a, execMbwait_stays may sound hold load b a,
          fun same high raised => ?_⟩
        subst raised
        exact execMbwait_raises may sound hold load b a same high
  case bytes =>
    intro s wg ctx old a u t new
    obtain ⟨mem, cores, wgs⟩ := s.objectUpdate_frame wg ctx (a := a) u old
    obtain ⟨phys, kept⟩ := s.objectStore_caches wg ctx (a := a) (objectNew u old)
    have ht : t = s.objectUpdate wg ctx a u old := rfl
    rw [ht, mem, cores, wgs]
    exact ⟨phys, kept, fun shared => s.objectStore_shared wg ctx shared _,
      fun elsewhere => s.objectStore_llc wg ctx elsewhere _⟩
  case fields =>
    intro phase prio reload arrivals bytes hphase hprio hreload harrivals hbytes o
    obtain ⟨ph, -⟩ := fields_objMake hphase hprio hreload harrivals hbytes
    exact ⟨ph, objectNew_arrive hphase hprio hreload harrivals hbytes, fun _ _ => rfl,
      fun n hn due => objectNew_add hphase hprio hreload harrivals hbytes hn due,
      fun q p _ due => objectNew_wait hphase hprio hreload harrivals hbytes q p due⟩
  case mon =>
    intro s c a accs may
    exact (exec_mon ..).trans (execMon_next may)
  case mwait =>
    intro s c b d h deadline late w leaves
    have up : s.late (c.deadline s b) = true ↔ late := State.late_iff
    have gives : ∀ {n}, s.watchCode w (c.deadline s b) = some n → leaves n := fun code =>
      (exec_mwait ..).trans (execMwait_leaves h d code)
    have stays : s.watchCode w (c.deadline s b) = none →
        exec (.mwait b d) s = .next (c.stopped s (.hold (.watch d.toNat deadline))) := fun code =>
      (exec_mwait ..).trans (execMwait_held h d code)
    have in_time : ¬ late → s.late (c.deadline s b) = false := fun early => Bool.eq_false_iff.mpr fun e => early (up.mp e)
    refine ⟨fun x hx fired => gives ?_, fun x hx unfired is_late => gives ?_, fun x hx unfired early lost => gives ?_,
      fun hx early => gives ?_, fun hx is_late => gives ?_, fun x hx unfired early kept => stays ?_⟩
    · rw [hx, State.watchCode_some, fired]; rfl
    · rw [hx, State.watchCode_some, unfired, up.mpr is_late]; rfl
    · rw [hx, State.watchCode_some, unfired, in_time early, lost]; rfl
    · rw [hx, State.watchCode_none, in_time early]; rfl
    · rw [hx, State.watchCode_none, up.mpr is_late]; rfl
    · rw [hx, State.watchCode_some, unfired, in_time early, kept]; rfl
  case timeout =>
    intro s age entry d t g f hg hf held hold up
    exact ⟨_, _, _, (exec_mwaitTimeout ..).trans (execMwaitTimeout_next hg hf held hold up), Map.find?_insert_self ..,
      g.timedOut_watch .., g.timedOut_regs .., Group.timedOut_frag? hf .., rfl, rfl⟩
  case fire =>
    intro s addr
    refine ⟨_, exec_watchFire .., rfl, fun age g w hg hw hl => ⟨_, State.fireWatch_find? hg _, ?_⟩⟩
    rw [Group.fireWatch_watching hw hl]
    exact ⟨rfl, g.withWatch_sameRegisters _⟩

end Sys2Proof.Machine
end

section
/-! What the integer operations of an atomic compute, and ATOM and RED at issue and in shared memory (R250 to R256). -/

namespace Sys2Proof.Machine

/-! ## The smaller and the larger of two codes -/

section Pick

variable {n : Nat} {signed : Bool}

theorem intOf_false_toNat (x : BitVec n) : intOf n false x.toNat = x.toNat := by
  rw [intOf, Nat.mod_eq_of_lt x.isLt]
  rfl

theorem intOf_true_toNat (pos : 0 < n) (x : BitVec n) : intOf n true x.toNat = x.toInt := by
  have half : 2 ^ n = 2 * 2 ^ (n - 1) := by rw [Nat.mul_comm, Nat.two_pow_pred_mul_two pos]
  rw [intOf, Nat.mod_eq_of_lt x.isLt, BitVec.toInt_eq_toNat_cond, natCast_two_pow]
  by_cases low : 2 * x.toNat < 2 ^ n
  · simp [low, show ¬ 2 ^ (n - 1) ≤ x.toNat by omega]
  · simp [low, show 2 ^ (n - 1) ≤ x.toNat by omega]

theorem intOf_toNat_injective (pos : 0 < n) (signed : Bool) {x y : BitVec n}
    (same : intOf n signed x.toNat = intOf n signed y.toNat) : x = y := by
  cases signed with
  | false =>
    rw [intOf_false_toNat, intOf_false_toNat] at same
    exact BitVec.eq_of_toNat_eq (Int.ofNat.inj same)
  | true =>
    rw [intOf_true_toNat pos, intOf_true_toNat pos] at same
    exact BitVec.eq_of_toInt_eq same

theorem ult_eq_intOf (x y : BitVec n) : x.ult y = decide (intOf n false x.toNat < intOf n false y.toNat) := by
  rw [intOf_false_toNat, intOf_false_toNat, BitVec.ult]
  exact decide_eq_decide.mpr Int.ofNat_lt.symm

theorem slt_eq_intOf (pos : 0 < n) (x y : BitVec n) :
    x.slt y = decide (intOf n true x.toNat < intOf n true y.toNat) := by
  rw [intOf_true_toNat pos, intOf_true_toNat pos, BitVec.slt]

variable {less : BitVec n → BitVec n → Bool}
  (order : ∀ x y, less x y = decide (intOf n signed x.toNat < intOf n signed y.toNat)) (x y : BitVec n)
include order

theorem pickOf_smaller : pickOf n signed false x.toNat y.toNat = (if less y x then y else x).toNat := by
  rw [pickOf, order, Bool.bne_false, apply_ite BitVec.toNat]

/-- Of two equal codes either is the larger. -/
theorem pickOf_larger (pos : 0 < n) : pickOf n signed true x.toNat y.toNat = (if less x y then y else x).toNat := by
  rw [pickOf, order, Bool.bne_true, apply_ite BitVec.toNat]
  rcases Int.lt_trichotomy (intOf n signed x.toNat) (intOf n signed y.toNat) with above | same | below
  · simp [above, Int.lt_asymm above]
  · simp [intOf_toNat_injective pos signed same]
  · simp [below, Int.lt_asymm below]

end Pick

theorem exchange_if_equal {n : Nat} (old a sw : BitVec n) :
    (if old.toNat = a.toNat then sw.toNat else old.toNat) = (if old = a then sw else old).toNat := by
  simp only [BitVec.toNat_inj, apply_ite BitVec.toNat]

/-- What the integer operations of Table 10.1 compute on words of one width, as operations on bit vectors. -/
theorem integerOperations {n : Nat} (pos : 0 < n) (old a sw : BitVec n) :
    let result := fun m : Nat => (m, (0 : Flags))
    result ((old.toNat + a.toNat) % 2 ^ n) = result (old + a).toNat ∧
    result (pickOf n true false old.toNat a.toNat) = result (if a.slt old then a else old).toNat ∧
    result (pickOf n false false old.toNat a.toNat) = result (if a.ult old then a else old).toNat ∧
    result (pickOf n true true old.toNat a.toNat) = result (if old.slt a then a else old).toNat ∧
    result (pickOf n false true old.toNat a.toNat) = result (if old.ult a then a else old).toNat ∧
    result (old.toNat &&& a.toNat) = result (old &&& a).toNat ∧ result (old.toNat ||| a.toNat) = result (old ||| a).toNat ∧
    result (old.toNat ^^^ a.toNat) = result (old ^^^ a).toNat ∧ result a.toNat = result a.toNat ∧
    result (if old.toNat = a.toNat then sw.toNat else old.toNat) = result (if old = a then sw else old).toNat := by
  intro result
  rw [pickOf_smaller (slt_eq_intOf pos), pickOf_smaller ult_eq_intOf, pickOf_larger (slt_eq_intOf pos) _ _ pos,
    pickOf_larger ult_eq_intOf _ _ pos, exchange_if_equal]
  refine ⟨?_, rfl, rfl, rfl, rfl, ?_, ?_, ?_, rfl, rfl⟩
  · rw [BitVec.toNat_add]
  · rw [BitVec.toNat_and]
  · rw [BitVec.toNat_or]
  · rw [BitVec.toNat_xor]

/-! ## ATOM and RED at issue -/

/-- The lines of the accesses that the issuing core may hold in its L1 (Table 10.2). -/
def Ctx.atomicLines (c : Ctx) (accs : List Access) : List Nat :=
  ((accs.filter fun a => decide (a.addr.toNat / 2 ^ 61 = 0) || decide (a.addr.toNat / 2 ^ 61 = 4)).map
    fun a => lineOf (vkey c.ctx a.addr)).eraseDups

/-- An ATOM or RED as it goes in flight. -/
def Ctx.atomicLoad (c : Ctx) (s : State) (red : Bool) (code : Nat) (t : BitVec 7) (accs : List Access) : Load :=
  { c.loadOf s (if red then 4 else 3) 0 (atomicSize code) false false (c.g.vKey t.toNat) accs with
    op := code, operands := c.atomicData code t.toNat c.lanes }

theorem Ctx.checkOwnRecords_ok {c : Ctx} {s : State} {accs : List Access} (untouched : ∀ r ∈ s.landing, r.age = c.age →
    ∀ l ∈ r.lanes, ∀ a ∈ accs, r.touches l (vkey c.ctx a.addr) a.size = false) : c.checkOwnRecords s accs = .ok () := by
  have none_touched : (s.landing.filter fun r => r.age == c.age && r.lanes.any fun l => accs.any fun a =>
      r.touches l (vkey c.ctx a.addr) a.size) = [] := by
    refine List.filter_eq_nil_iff.mpr fun r hr => ?_
    simp only [Bool.and_eq_true, beq_iff_eq, List.any_eq_true, not_and, not_exists]
    exact fun own l hl a ha => by simp [untouched r hr own l hl a ha]
  rw [Ctx.checkOwnRecords, none_touched]
  rfl

/-- A reduction writes no register and needs no flag A; what else is of its form needs one (R40, R256). -/
theorem Ctx.needA_unless {c : Ctx} {red : Bool} (flag : red = false → c.flagA.isSome = true) {rest : Unit → Except Stop Unit}
    (passes : rest () = .ok ()) : (if red then .ok () >>= rest else c.needA >>= rest) = .ok () := by
  cases red with
  | false => exact bind_of_ok (need_of (flag rfl) _) passes
  | true => exact passes

theorem atomicForm_next {s : State} {c : Ctx} {red : Bool} {o : BitVec 5} {v t : BitVec 7} {b : BitVec 6}
    {accs : List Access} (lanes : c.laneAccesses false v b (atomicSize o.toNat) = accs)
    (may : c.MayAccess s { right := .atomic, limit := false } true true accs)
    (fit : c.Fits ((t.toNat, atomicRegs o.toNat) :: runOff v))
    (clean : c.Clean c.active ((t.toNat, atomicRegs o.toNat) :: runOff v)) (sound : c.Sound s.uncount accs)
    (own : c.checkOwnRecords (c.reached s accs) accs = .ok ()) (flag : red = false → c.flagA.isSome = true) :
    atomicForm s red o v b t = .next (c.startLoad
      ((c.atomicLines accs).foldl (fun u line => u.expel c.core line) (c.reached s accs))
      (if red then none else c.flagA) (if red then .st else .ld) (c.atomicLoad (c.reached s accs) red o.toNat t accs)) := by
  rw [atomicForm]
  dsimp only
  subst lanes
  refine runMem_ok may rfl rfl rfl (MemForm.first_ok ?_ fun _ => sound) (bind_of_ok own rfl)
  exact bind_of_ok (Ctx.checkRuns_ok fit) (Ctx.needA_unless flag (Ctx.checkEcc_ok clean))

/-! ## Atomics in shared memory -/

/-- The oldest operation of a group waits for no earlier access to shared memory. -/
theorem State.sharedEarlier_oldest {s : State} {age id : Nat} (oldest : ∀ p ∈ s.pend, p.age = age → id ≤ p.id) (lane : Nat) :
    s.sharedEarlier age id lane = false := by
  refine any_false_of fun p hp => ?_
  by_cases own : p.age = age
  · simp [Nat.not_lt.mpr (oldest p hp own)]
  · simp [own]

/-- A lane of an atomic whose turn it is gets the old bytes of shared memory and stores the new value (R253). -/
theorem State.serveLane_shared {s : State} {g : Group} {w : Workgroup} {id : Nat} {l : Load} {lane : Nat} {a : Word}
    (shared : a.toNat / 2 ^ 61 = 6) (hw : s.wgOf g = some w) (atomic : 3 ≤ l.kind)
    (oldest : ∀ p ∈ s.pend, p.age = g.id.age → id ≤ p.id) (turn : l.lowerFirst lane a = false) :
    let old := w.sharedBytes (a.toNat % 2 ^ 20) l.size
    let new := atomicNew l.op (bytesVal old) (l.operand lane).1 (l.operand lane).2
    s.serveLane g id l lane a = .data old new.2 (if atomicWrites l.op (bytesVal old) (l.operand lane).1 new.1
      then s.sharedWrite w.id (a.toNat % 2 ^ 20) (valBytes l.size new.1) else s) := by
  have is_atomic : l.isAtomic = true := decide_eq_true atomic
  simp only [State.serveLane, if_pos shared, hw, State.sharedEarlier_oldest oldest, turn, is_atomic, Bool.or_self,
    Bool.false_eq_true, if_false, if_true]

end Sys2Proof.Machine
end
section
/-! XAT and XRED at issue, the requests of their sub-operations at the package that owns the line, and the answers at the
source (R257 to R264). -/

namespace Sys2Proof.Machine

/-! ## Issue -/

/-- The operands of the active lanes with their target addresses. -/
def Ctx.remoteData (c : Ctx) (red x : Bool) (o : BitVec 3) (b a d : BitVec 7) : List (Nat × Word × Word × Word) :=
  (c.atomicData (remoteCode red o) d.toNat c.lanes).map fun p => (p.1, c.remoteAddr x b a p.1, p.2)

/-- The peers of lanes, ascending, each once (R259). -/
def remotePeers (data : List (Nat × Word × Word × Word)) : List Nat :=
  data.foldl (fun ps p => insertNat ps (pkgOf p.2.1)) []

/-- The numbers of the sub-operations of an instruction that goes in flight from a state. -/
def State.subIds (s : State) (peers : List Nat) : List Nat := (List.range peers.length).map fun i => s.nextOp + 1 + i

/-- The sub-operations of an XAT or XRED, one for each peer. -/
def Ctx.remoteSubs (c : Ctx) (s : State) (red : Bool) (o : BitVec 3) (d : BitVec 7) (data : List (Nat × Word × Word × Word)) :
    List RemoteSub :=
  ((s.subIds (remotePeers data)).zip (remotePeers data)).map fun p =>
    { id := p.1, entered := false, age := c.age, core := c.core, pc := c.pc, isRed := red, op := o, peer := p.2,
      reg := c.g.vKey d.toNat, bank := c.g.flow.trapMode, flag := if red then none else c.flagA,
      ackbar := if red then c.g.sys.ackbar else 0, limit := (s.queue c.g.id.queue).retry, fp := 0,
      lines := remoteLines (data.filter fun q => pkgOf q.2.1 == p.2) }

/-- The state once the sub-operations are in flight, and those for which there is room have their entries and are sent. -/
def Ctx.remoteSent (c : Ctx) (s : State) (red : Bool) (ids : List Nat) (subs : List RemoteSub) : State :=
  let t := if red then { c.finish s id with nextOp := s.nextOp + 1 } else c.launch (c.finish s id) c.flagA none (.xat ids)
  State.pumpRemote { t with nextOp := t.nextOp + subs.length, remote := t.remote ++ subs }

/-- The fragment is held while the last of its group's sub-operations waits for its entry (R259). -/
def Ctx.remoteHeld (c : Ctx) (s : State) : State :=
  if s.sending c.age then s.onGroup c.age fun g => g.onFrag c.entry fun f => { f with wait := .held, hold := .remoteRoom }
  else s

theorem insertNat_ne_nil (l : List Nat) (n : Nat) : insertNat l n ≠ [] := by
  cases l with
  | nil => simp [insertNat]
  | cons m l =>
    rw [insertNat]
    split
    · exact List.cons_ne_nil _ _
    · split <;> exact List.cons_ne_nil _ _

theorem remotePeers_eq_nil {data : List (Nat × Word × Word × Word)} : remotePeers data = [] ↔ data = [] := by
  rcases List.eq_nil_or_concat data with rfl | ⟨front, last, rfl⟩
  · simp [remotePeers]
  · simp [remotePeers, insertNat_ne_nil]

theorem Ctx.remoteSubs_isEmpty (c : Ctx) (s : State) (red x : Bool) (o : BitVec 3) (b a d : BitVec 7) :
    (c.remoteSubs s red o d (c.remoteData red x o b a d)).isEmpty = decide (c.lanes = []) := by
  have lanes : c.remoteData red x o b a d = [] ↔ c.lanes = [] := by simp [Ctx.remoteData, Ctx.atomicData]
  rw [Bool.eq_iff_iff, decide_eq_true_iff, ← lanes, ← remotePeers_eq_nil]
  simp [Ctx.remoteSubs, State.subIds]

section Issue

variable {s : State} {c : Ctx} {red x : Bool} {o : BitVec 3} {b a d : BitVec 7} {accs : List Access}
  (own : c.remoteAccesses x b a (atomicSize (remoteCode red o)) ++ c.ackAccess red = accs)
  (may : c.MayAccess s { right := .atomic, limit := false, direct := false } false false accs)
  (fit : c.Fits ((d.toNat, atomicRegs (remoteCode red o)) :: (a.toNat, 1) :: (if x then [] else [(b.toNat, 2)])))
  (clean : c.Clean c.active ((d.toNat, atomicRegs (remoteCode red o)) :: (a.toNat, 1) :: (if x then [] else [(b.toNat, 2)])))
  (flag : red = false → c.flagA.isSome = true) (good : ∀ l ∈ c.lanes, c.remoteBad x b a l = false)
  (object : ∀ k ∈ c.ackAccess red, s.ackbarBad k.addr = false)
  (uncontrolled : ∀ k ∈ c.remoteAccesses x b a (atomicSize (remoteCode red o)), k.addr.toNat / 2 ^ 61 ≠ 2)
include own may fit clean flag good object uncontrolled

/-- An XAT or XRED that passes its checks: nothing where no lane is active, else its sub-operations go in flight. -/
theorem remoteForm_next : remoteForm s red x o b a d = .next
    (if c.lanes = [] then c.finish (c.reached s accs) id
     else c.remoteHeld (c.remoteSent (c.reached s accs) red
       ((c.reached s accs).subIds (remotePeers (c.remoteData red x o b a d)))
       (c.remoteSubs (c.reached s accs) red o d (c.remoteData red x o b a d)))) := by
  subst own
  have spaces : c.lanes.find? (c.remoteBad x b a) = none := find?_none_of good
  have objects : ((c.ackAccess red).all fun k => !s.ackbarBad k.addr) = true :=
    List.all_eq_true.mpr fun k hk => by rw [object k hk]; rfl
  have classes : ((c.remoteAccesses x b a (atomicSize (remoteCode red o))).find? fun k =>
      decide (k.addr.toNat / 2 ^ 61 = 2)) = none := find?_none_of fun k hk => decide_eq_false (uncontrolled k hk)
  rw [remoteForm]
  dsimp only
  refine runMem_ok may rfl rfl rfl (MemForm.first_ok ?_ Bool.noConfusion) ?_
  · refine bind_of_ok (Ctx.checkRuns_ok fit) ?_
    refine Ctx.needA_unless flag (bind_of_ok (Ctx.checkEcc_ok clean) ?_)
    rw [spaces]
    exact need_of objects _
  · dsimp only
    rw [classes]
    have empty := c.remoteSubs_isEmpty (c.reached s
      (c.remoteAccesses x b a (atomicSize (remoteCode red o)) ++ c.ackAccess red)) red x o b a d
    by_cases idle : c.lanes = []
    · rw [if_pos idle]
      exact if_pos (empty.trans (decide_eq_true idle))
    · rw [if_neg idle]
      exact if_neg (Bool.eq_false_iff.mp (empty.trans (decide_eq_false idle)))

end Issue

/-! ## An entry of the remote-atomic table -/

theorem Work.counter_start (w : Work) (p : Path) (op : Nat) : (w.start p op).counter p = min 1023 (w.counter p + 1) := by
  have waits : ∀ l : List InFlight,
      (l ++ [(⟨p, op, false⟩ : InFlight)]).dropWhile (·.done) = l.dropWhile (·.done) ++ [⟨p, op, false⟩] := by
    intro l
    induction l with
    | nil => rfl
    | cons e l ih => cases done : e.done <;> simp [done, ih]
  have counted : ((w.start p op).inflight.filter fun e => e.path == p) =
      (w.inflight.filter fun e => e.path == p) ++ [⟨p, op, false⟩] := by
    simp [Work.start]
  rw [Work.counter, Work.counter, counted, waits, List.length_append, List.length_singleton]
  omega

/-- A sub-operation with its tags. -/
def RemoteSub.withTags (r : RemoteSub) (tags : List Nat) : RemoteSub :=
  { r with entered := true, lines := (r.lines.zip tags).map fun p => { p.1 with tag := p.2 } }

theorem State.enterSub_here {s : State} {r : RemoteSub} (here : s.peerGone r.peer = false) {tags : List Nat} {count : Nat}
    (next : nextTags (s.tagsUsed r.core) 65536 r.lines.length (s.core r.core).tagCount = (tags, count)) :
    s.enterSub r = (State.onCore { s with remote := s.remote.map fun x => if x.id == r.id then r.withTags tags else x } r.core
      fun c => { c with tagCount := count % 65536 }).startOp r.age .ra r.id := by
  rw [State.enterSub, next]
  exact if_neg (Bool.eq_false_iff.mp here)

theorem State.startOp_group {s : State} {age : Nat} {g : Group} (hg : Map.find? s.groups age = some g) (p : Path) (op : Nat) :
    Map.find? (s.startOp age p op).groups age = some { g with work := g.work.start p op } := by
  rw [State.startOp, State.onGroup_of_find? hg]
  exact Map.find?_insert_self ..

@[simp] theorem State.startOp_core (s : State) (age : Nat) (p : Path) (op n : Nat) :
    (s.startOp age p op).core n = s.core n := rfl

/-! ## At the owner -/

section Request

variable {s : State} {req : RemoteRequest} {p : Nat × Word × Word × Word} {ps : List (Nat × Word × Word × Word)}
  (lanes : req.lanes = p :: ps) (here : pkgOf p.2.1 = s.pkg) (present : req.src ∉ s.fabric.lost)
include lanes here present

/-- A request that was performed before is answered again, and not performed (R262). -/
theorem execRemoteAtomicRequest_again {a : Performed} (performed : s.performedBefore req = some a) :
    execRemoteAtomicRequest req s = .next ((s.served (.remoteAtomicRequest req)).acknowledge req a.olds a.fp) := by
  simp [execRemoteAtomicRequest, lanes, here, present, performed]

variable (fresh : s.performedBefore req = none)
include fresh

/-- A request to a page under shootdown, or without the atomic right, is refused (R263). -/
theorem execRemoteAtomicRequest_barred
    (barred : s.underShootdown p.2.1.toNat = true ∨ (s.walkRights req.ctx p.2.1).at_ = false) :
    execRemoteAtomicRequest req s = .next (State.refuseRemote
      { s.served (.remoteAtomicRequest req) with freeCtr := (s.served (.remoteAtomicRequest req)).freeCtr + 1 } req
      (refusalDetail (Config.freeWord s.freeCtr))) := by
  have refused : (s.underShootdown p.2.1.toNat || !(s.walkRights req.ctx p.2.1).at_) = true := by simpa using barred
  simp [execRemoteAtomicRequest, lanes, here, present, fresh, refused]

/-- A request that nothing bars and that need not wait is performed and acknowledged (R260). -/
theorem execRemoteAtomicRequest_performed
    (open_ : ¬ (s.underShootdown p.2.1.toNat = true ∨ (s.walkRights req.ctx p.2.1).at_ = false))
    (free : s.remoteWaits req = false)
    (first : (s.before (.remoteAtomicRequest req)).any (sameRemoteLine req.src p.2.1) = false) {s1 : State}
    (ready : (s.served (.remoteAtomicRequest req)).remoteReady (atomicSize (remoteCode req.isRed req.op)) req.lanes = .ok s1) :
    let r := s1.performRemote (remoteCode req.isRed req.op) req.lanes
    let back := if req.isRed then [] else r.1
    execRemoteAtomicRequest req s = .next
      ((if req.src = s.pkg then r.2.2 else r.2.2.notePerformed req back r.2.1).acknowledge req back r.2.1) := by
  have refused : (s.underShootdown p.2.1.toNat || !(s.walkRights req.ctx p.2.1).at_) = false := by simpa using open_
  rw [lanes] at ready ⊢
  simp [execRemoteAtomicRequest, lanes, here, present, fresh, refused, free, first, ready]

end Request

theorem refusalDetail_range (free : Word) : 1 ≤ refusalDetail free ∧ refusalDetail free ≤ 4 := by
  rw [refusalDetail]
  omega

/-- A refusal writes no memory. -/
theorem State.refuseRemote_mem (s : State) (req : RemoteRequest) (detail : Nat) : (s.refuseRemote req detail).mem = s.mem := by
  rw [State.refuseRemote, State.answerRemote]
  split
  · rfl
  · exact s.send_mem _

/-! ## At the source -/

section Answer

variable {s : State} {tag : Nat} {r : RemoteSub} {l : RemoteLine} (found : s.remoteOf tag = some (r, l))
include found

section Sent

variable (sent : l.sent = true)
include sent

theorem execRemoteAtomicAck_next (olds : List (Nat × BitVec 64)) (fp : BitVec 4) :
    let t := s.onRemote tag fun l => { l with acked := true, lanes := l.lanes.map fun p =>
      (p.1, p.2.1, ((olds.find? fun o => o.1 == p.1).map (·.2)).getD p.2.2.1, p.2.2.2) }
    execRemoteAtomicAck tag olds fp s = .next (State.settleSub { t with remote := t.remote.map fun (q : RemoteSub) =>
      if q.id == r.id then { q with fp := q.fp ||| fp } else q } r.id) := by
  simp [execRemoteAtomicAck, found, sent]

/-- A refusal below the limit is retried after a backoff that doubles with each (R263). -/
theorem execRemoteAtomicRnr_retried {detail : Nat} (below : l.retries < r.limit) (small : detail < 256) :
    execRemoteAtomicRnr tag detail s = .next ((s.onRemote tag fun l => { l with
      sent := false, waiting := true, retries := l.retries + 1, retryAt := s.time8 + 8000 * 2 ^ l.retries,
      detail := detail }).settleSub r.id) := by
  simp [execRemoteAtomicRnr, found, sent, below, small]

/-- At the limit a refused request fails (R263, R264). -/
theorem execRemoteAtomicRnr_failed (limit : r.limit ≤ l.retries) (detail : Nat) :
    execRemoteAtomicRnr tag detail s = .next ((s.onRemote tag fun l => { l with
      failed := true, retryAt := s.time8, detail := detail % 256 }).settleSub r.id) := by
  simp [execRemoteAtomicRnr, found, sent, Nat.not_lt.mpr limit]

end Sent

theorem execRemoteRetryTimer_up (waiting : l.waiting = true) (up : l.retryAt ≤ s.time8) :
    execRemoteRetryTimer tag s = .next (s.sendRemote tag) := by
  simp [execRemoteRetryTimer, found, waiting, up]

theorem execRemoteRetryTimer_early (early : s.time8 < l.retryAt) : execRemoteRetryTimer tag s = .next s := by
  simp [execRemoteRetryTimer, found, Nat.not_le.mpr early]

end Answer

end Sys2Proof.Machine
end

section
/-! The statement of the atomics, local and remote (R250 to R264). -/

namespace Sys2Proof.Machine

/-- Settles O46: ATOM, RED, XAT and XRED pass their checks by what is assumed of their accesses; the integer operations are
those of words; a request is performed at its owner or refused there, and its answer settled at the source. -/
theorem atomicsLocalAndRemote : Obligations.AtomicsLocalAndRemote := by
  unfold Obligations.AtomicsLocalAndRemote
  refine ⟨?issue, ?shared, ?word, ?doubleword, ?remote, ?entry, ?request, ?answers, ?timer⟩
  case issue =>
    intro s c red o v t b code size runs accs s1 lines may fit clean sound untouched flag
    have own := Ctx.checkOwnRecords_ok untouched
    have next := atomicForm_next rfl may fit clean sound own flag
    cases red with
    | false => exact (exec_atom ..).trans next
    | true => exact (exec_red ..).trans next
  case shared =>
    intro s g w id l lane a shared hw atomic oldest turn
    exact State.serveLane_shared shared hw atomic oldest turn
  case word => exact integerOperations (by decide)
  case doubleword => exact integerOperations (by decide)
  case remote =>
    intro s c red x o b a d code own accs s1 runs data peers ids subs s2 i may fit clean flag good object uncontrolled s3
    have issued := remoteForm_next rfl may fit clean flag good object uncontrolled
    have meaning : exec i s = remoteForm s red x o b a d := by
      cases red with
      | false => exact exec_xat ..
      | true => exact exec_xred ..
    have sent : c.lanes ≠ [] → exec i s = .next (c.remoteHeld s3) := fun active => by
      rw [meaning, issued, if_neg active]
      rfl
    refine ⟨fun idle => ?_, fun active room => ?_, fun active full => ?_⟩
    · rw [meaning, issued, if_pos idle]
    · rw [sent active, Ctx.remoteHeld, room]
      rfl
    · rw [sent active, Ctx.remoteHeld, full]
      rfl
  case entry =>
    intro s sub tags count here next t entered
    have entry : t = _ := State.enterSub_here here next
    rw [entry]
    refine ⟨?_, rfl, ?_, fun g hg => ⟨_, State.startOp_group hg .ra sub.id, ⟨rfl, rfl, rfl⟩, Work.counter_start ..⟩⟩
    · simp only [beq_iff_eq]
      rfl
    · rw [State.startOp_core, State.core_onCore]
  case request =>
    intro s req p ps lanes here present
    refine ⟨fun a performed => (exec_remoteAtomicRequest ..).trans
      (execRemoteAtomicRequest_again lanes here present performed), ?_⟩
    intro fresh e s0 barred
    refine ⟨fun bars => ?_, fun open_ free first s1 ready => ?_⟩
    · obtain ⟨low, high⟩ := refusalDetail_range (Config.freeWord s.freeCtr)
      exact ⟨_, _, (exec_remoteAtomicRequest ..).trans (execRemoteAtomicRequest_barred lanes here present fresh bars),
        State.refuseRemote_mem .., rfl, low, high⟩
    · exact (exec_remoteAtomicRequest ..).trans
        (execRemoteAtomicRequest_performed lanes here present fresh open_ free first ready)
  case answers =>
    intro s tag detail olds fp r l found unsettled sent
    exact ⟨(exec_remoteAtomicAck ..).trans (execRemoteAtomicAck_next found sent olds fp),
      fun below small => (exec_remoteAtomicRnr ..).trans (execRemoteAtomicRnr_retried found sent below small),
      fun limit => (exec_remoteAtomicRnr ..).trans (execRemoteAtomicRnr_failed found sent limit detail)⟩
  case timer =>
    intro s tag r l found waiting
    exact ⟨fun up => (exec_remoteRetryTimer ..).trans (execRemoteRetryTimer_up found waiting up),
      fun early => (exec_remoteRetryTimer ..).trans (execRemoteRetryTimer_early found early)⟩

end Sys2Proof.Machine
end
